-- ==== Sys2Proof/Word.lean ====
section
/-! DEFINITION. The word types of the model, and nothing else: bytes and words are bit vectors,
sparse stores are lists of (key, value) pairs in one canonical form (Sys2Proof/Machine/Map.lean
holds the operations). Rules R11, R12. -/

namespace Sys2Proof

/-- One byte (R11). -/
abbrev Byte := BitVec 8

/-- A 32-bit word, the width of a set-up register (R16) and of a core instruction (R130). -/
abbrev Word := BitVec 32

/-- A 64-bit word: scalar registers (R123), LCNT (R246). -/
abbrev DWord := BitVec 64

/-- A run of bytes, lowest address first. -/
abbrev Bytes := List Byte

/-- A sparse table: keys strictly rising, no entry equal to the table's default. -/
abbrev Table (α : Type) := List (Nat × α)

end Sys2Proof
end

