-- ==== Sys2Proof/Syntax.lean ====
section
/-! DEFINITION. The commands of the module: the ONE inductive `Instr`, one constructor per row of
spec/opcode_table.json, and the plain-data types of their operands. What the outside supplies at a
step (bytes read from host memory, the outcome of a check made in hardware, a level of a pin) is an
operand of that step's command; what the module holds is in State. -/

namespace Sys2Proof

/-- The part numbers (R1). -/
inductive Variant where
  | t | s | e
  deriving DecidableEq, Repr

/-- What a run of host-memory reads returned (R230): the bytes received in order and, where a
translation was refused or the read completed UR or CA, the I/O virtual address refused. -/
structure HostData where
  bytes   : Bytes
  refused : Option DWord
  deriving DecidableEq, Repr

/-- A decode bank (R94): pod bank number, or egress bank number. -/
inductive BankRef where
  | pod (n : Nat)
  | egress (n : Nat)
  deriving DecidableEq, Repr

/-- The units that reset on their own (R415). -/
inductive UnitKind where
  | mover | encoder | egress | placement | scanner | pip
  deriving DecidableEq, Repr

/-- The two tiers (R21). -/
inductive Tier where
  | near | deep
  deriving DecidableEq, Repr

/-- For what a memory request is made, which gives its label, party and deadline (R274): a descriptor, a launched
program, a window position's promotion, a PEER request by source DID and TXID, or something else. -/
inductive ReqFor where
  | desc (d : Nat)
  | program (k : Nat)
  | position (w p : Nat)
  | peer (src txid : Nat)
  | other
  deriving DecidableEq, Repr

/-- A request at a stack controller (R384, R386): its source (R283; 22 is maintenance), the slot,
whether it writes, the sectors it transfers, what it is for, its class label, issuing party and deadline where that
does not give them (R274), whether it is work that is never regulated (R275), and the metadata word that a write
changes (R383). -/
structure StackReq where
  source   : Nat
  slot     : Nat
  write    : Bool
  sectors  : Nat
  for_     : ReqFor
  maint    : Bool
  cls      : BitVec 6
  party    : BitVec 8
  deadline : Option Nat
  word     : Option (BitVec 32) := none
  deriving DecidableEq, Repr

/-- How one sector of a slot came back from the stack (R395): which of the 38 symbols of its codeword differ (0 to 31
data, 32 and 33 address, 34 to 37 check), and the bits that differ. -/
structure SectorRead where
  sector : Nat
  damage : List (Nat × BitVec 16)
  deriving DecidableEq, Repr

/-- A fabric packet (R337): the 48-byte header, byte n in bits 8n+7..8n, and the body. -/
structure Packet where
  hdr  : BitVec 384
  body : Bytes
  deriving DecidableEq, Repr

/-- A packet that arrives, and the fabric port it comes by. -/
structure PktIn where
  port : Nat
  pkt  : Packet
  deriving DecidableEq, Repr

/-- A 32-bit write: its byte enables and its value (R16). -/
structure RegData where
  be    : BitVec 4
  value : Word
  deriving DecidableEq, Repr

/-- The causes of a host link going down (R461, LINK_DOWN P0). -/
inductive LinkDownCause where
  | loss | removal | portReset
  deriving DecidableEq, Repr

/-- Error kinds that a port logs in AER (R360, R361, R369). -/
inductive AerErr where
  | unsupportedRequest | completerAbort | completionTimeout | poisonedTlp | malformedTlp
  | unexpectedCompletion
  deriving DecidableEq, Repr

/-- What the host writes into a function's configuration space and MSI-X table once its link is up (R356
to R361, R364, R366): MSI-X Enable, the masked vectors, the vectors' addresses and data, ATS Enable, PME
Enable, ASPM L1, the enabled HDM-DB path and decoder, and the errors whose AER severity is fatal. -/
structure HostConfig where
  msixEn  : Bool := false
  masked  : List Nat := []
  vecAddr : Table DWord := []
  atsEn   : Bool := false
  pmeEn   : Bool := false
  aspmL1  : Bool := false
  hdmEn   : Bool := false
  vecData : Table Word := []
  severe  : List AerErr := []
  deriving DecidableEq, Repr

/-- What a port negotiated when it trained (R354): generation 1 to 3, log2 of the width, CXL mode
(0 none, 1 CXL 2.0, 2 CXL 3.1), which CXL protocols are in use, and the host's configuration. -/
structure HostLink where
  gen   : Nat
  width : Nat
  cxl   : Nat
  cache : Bool
  mem   : Bool
  cfg   : HostConfig := {}
  deriving DecidableEq, Repr

/-- One sideband input (R487): 0 WAKE_IN, 1 THROTTLE_N, 2 FM_ALERT_N, 3 to 6 PERST# of ports 0 to 3. -/
abbrev SideSig := Nat

/-- The commands: one constructor per row of the opcode table, in the table's order. `d` is a
descriptor-table entry, `c` a core number (R94), `h` what host memory returned. -/
inductive Instr where
  -- descriptors
  | copyStored (d : Nat) (h : HostData)
  | copyPlain (d : Nat) (h : HostData)
  | encode (d : Nat) (h : HostData)
  | decode (d : Nat)
  | promote (d : Nat)
  | evict (d : Nat)
  | pin (d : Nat)
  | unpin (d : Nat)
  | windowInstall (d : Nat) (h : HostData)
  | windowRelease (d : Nat)
  | windowRemove (d : Nat)
  | publish (d : Nat) (h : HostData)
  | fetchVersion (d : Nat)
  | launch (d : Nat) (h : HostData)
  | reduceScatter (d : Nat)
  | allReduce (d : Nat)
  | load (d : Nat) (h : HostData)
  | build (d : Nat)
  | buildRun (d : Nat)
  | drop (d : Nat)
  | fence (d : Nat)
  | gateWait (d : Nat)
  | gateOpenAdd (d : Nat)
  | gateOpenArm (d : Nat)
  | beginNative (d : Nat)
  | endNative (d : Nat)
  | caps (d : Nat)
  | extentCreate (d : Nat) (h : HostData)
  | setOwner (d : Nat) (h : HostData)
  | grant (d : Nat) (h : HostData)
  | revokeOwner (d : Nat) (h : HostData)
  | revokeGrant (d : Nat) (h : HostData)
  | destroy (d : Nat) (h : HostData)
  | extentWipe (d : Nat) (h : HostData)
  | bindParty (d : Nat) (h : HostData)
  | unparty (d : Nat) (h : HostData)
  | bindChannel (d : Nat) (h : HostData)
  | bindGate (d : Nat) (h : HostData)
  | extentWatch (d : Nat) (h : HostData)
  -- channels
  | doorbellPoll (ch : BitVec 10)
  | doorbellInvalidation (ch : BitVec 10)
  | doorbellReadReturn (ch : BitVec 10) (sqTail cqHead : Word)
  | descriptorAccept (ch : BitVec 10) (desc : BitVec 512)
  | descriptorStart (d : Nat)
  | descriptorComplete (d : Nat)
  | msixHoldoffEnd (ch : BitVec 10)
  | xbufGrant (ch : BitVec 10)
  | xbufRelease (ch : BitVec 10)
  | channelEnable (ch : BitVec 10)
  | channelDisable (ch : BitVec 10)
  | channelDrained (ch : BitVec 10)
  -- gates, clocks and sleep
  | gateCountEnd
  | enterIdle
  | enterDoze
  | wakeStart (sources : BitVec 7)
  | wakeEnd
  | launchWakeTimer
  | wakeAtTimer
  | refSwitch (driftPpm : Nat)
  -- programs
  | programStart
  | quantumExpiry (prog : Nat)
  | contextSaveEnd (prog : Nat)
  | programRestore
  | programEnd (prog : Nat)
  | podReset (pod : Nat)
  | podResetEnd (pod : Nat) (passed : Bool)
  -- core: ALU
  | add (c : Nat) (rd ra rb : BitVec 5)
  | sub (c : Nat) (rd ra rb : BitVec 5)
  | and (c : Nat) (rd ra rb : BitVec 5)
  | or (c : Nat) (rd ra rb : BitVec 5)
  | xor (c : Nat) (rd ra rb : BitVec 5)
  | sll (c : Nat) (rd ra rb : BitVec 5)
  | srl (c : Nat) (rd ra rb : BitVec 5)
  | sra (c : Nat) (rd ra rb : BitVec 5)
  | slt (c : Nat) (rd ra rb : BitVec 5)
  | sltu (c : Nat) (rd ra rb : BitVec 5)
  | min (c : Nat) (rd ra rb : BitVec 5)
  | max (c : Nat) (rd ra rb : BitVec 5)
  | minu (c : Nat) (rd ra rb : BitVec 5)
  | maxu (c : Nat) (rd ra rb : BitVec 5)
  | mul (c : Nat) (rd ra rb : BitVec 5)
  | mulh (c : Nat) (rd ra rb : BitVec 5)
  | mulhu (c : Nat) (rd ra rb : BitVec 5)
  | divu (c : Nat) (rd ra rb : BitVec 5)
  | remu (c : Nat) (rd ra rb : BitVec 5)
  | clz (c : Nat) (rd ra : BitVec 5)
  | popc (c : Nat) (rd ra : BitVec 5)
  | ctz (c : Nat) (rd ra : BitVec 5)
  -- core: immediates
  | addi (c : Nat) (rd ra : BitVec 5) (imm : BitVec 16)
  | andi (c : Nat) (rd ra : BitVec 5) (imm : BitVec 16)
  | ori (c : Nat) (rd ra : BitVec 5) (imm : BitVec 16)
  | xori (c : Nat) (rd ra : BitVec 5) (imm : BitVec 16)
  | shi (c : Nat) (rd ra : BitVec 5) (imm : BitVec 16)
  | slti (c : Nat) (rd ra : BitVec 5) (imm : BitVec 16)
  | sltiu (c : Nat) (rd ra : BitVec 5) (imm : BitVec 16)
  | movz (c : Nat) (rd : BitVec 5) (hw : BitVec 2) (imm : BitVec 16)
  | movk (c : Nat) (rd : BitVec 5) (hw : BitVec 2) (imm : BitVec 16)
  -- core: branches
  | beq (c : Nat) (ra rb : BitVec 5) (off : BitVec 16)
  | bne (c : Nat) (ra rb : BitVec 5) (off : BitVec 16)
  | blt (c : Nat) (ra rb : BitVec 5) (off : BitVec 16)
  | bge (c : Nat) (ra rb : BitVec 5) (off : BitVec 16)
  | bltu (c : Nat) (ra rb : BitVec 5) (off : BitVec 16)
  | bgeu (c : Nat) (ra rb : BitVec 5) (off : BitVec 16)
  | jal (c : Nat) (off : BitVec 26)
  | jalr (c : Nat) (rd ra : BitVec 5) (imm : BitVec 16)
  -- core: memory
  | ld (c : Nat) (rt ra : BitVec 5) (sz : BitVec 3) (disp : BitVec 13)
  | st (c : Nat) (rt ra : BitVec 5) (sz : BitVec 3) (disp : BitVec 13)
  | vld (c : Nat) (rt ra : BitVec 5) (sz : BitVec 3) (disp : BitVec 13)
  | vst (c : Nat) (rt ra : BitVec 5) (sz : BitVec 3) (disp : BitVec 13)
  | tld (c : Nat) (td : BitVec 3) (ra : BitVec 5) (sz : BitVec 3) (disp : BitVec 13)
  | tst (c : Nat) (td : BitVec 3) (ra : BitVec 5) (sz : BitVec 3) (disp : BitVec 13)
  | amoadd (c : Nat) (rd ra rb : BitVec 5)
  | amoswap (c : Nat) (rd ra rb : BitVec 5)
  | amocas (c : Nat) (rd ra rb : BitVec 5)
  | amoand (c : Nat) (rd ra rb : BitVec 5)
  | amoor (c : Nat) (rd ra rb : BitVec 5)
  | amomax (c : Nat) (rd ra rb : BitVec 5)
  -- core: FP32 lanes
  | vadd (c : Nat) (vd va vb : BitVec 5)
  | vsub (c : Nat) (vd va vb : BitVec 5)
  | vmul (c : Nat) (vd va vb : BitVec 5)
  | vmin (c : Nat) (vd va vb : BitVec 5)
  | vmax (c : Nat) (vd va vb : BitVec 5)
  | vabs (c : Nat) (vd va : BitVec 5)
  | vneg (c : Nat) (vd va : BitVec 5)
  | vdiv (c : Nat) (vd va vb : BitVec 5)
  | vsqrt (c : Nat) (vd va : BitVec 5)
  | vrcp (c : Nat) (vd va : BitVec 5)
  | vrsqrt (c : Nat) (vd va : BitVec 5)
  | vexp2 (c : Nat) (vd va : BitVec 5)
  | vlog2 (c : Nat) (vd va : BitVec 5)
  | vcmpeq (c : Nat) (vd va vb : BitVec 5)
  | vcmplt (c : Nat) (vd va vb : BitVec 5)
  | vcmple (c : Nat) (vd va vb : BitVec 5)
  | vfma (c : Nat) (vd va vb vc : BitVec 5) (form : BitVec 2)
  -- core: integer lanes
  | iadd (c : Nat) (vd va vb : BitVec 5)
  | isub (c : Nat) (vd va vb : BitVec 5)
  | imul (c : Nat) (vd va vb : BitVec 5)
  | iand (c : Nat) (vd va vb : BitVec 5)
  | ior (c : Nat) (vd va vb : BitVec 5)
  | ixor (c : Nat) (vd va vb : BitVec 5)
  | isll (c : Nat) (vd va vb : BitVec 5)
  | isrl (c : Nat) (vd va vb : BitVec 5)
  | isra (c : Nat) (vd va vb : BitVec 5)
  | imin (c : Nat) (vd va vb : BitVec 5)
  | imax (c : Nat) (vd va vb : BitVec 5)
  | icmpeq (c : Nat) (vd va vb : BitVec 5)
  | icmplt (c : Nat) (vd va vb : BitVec 5)
  | cvtif (c : Nat) (vd va : BitVec 5)
  | cvtfi (c : Nat) (vd va : BitVec 5)
  | vcvt (c : Nat) (vd va vb vc : BitVec 5) (func : BitVec 6)
  -- core: reductions and moves
  | fsum (c : Nat) (vd va : BitVec 5)
  | fmax (c : Nat) (vd va : BitVec 5)
  | fmin (c : Nat) (vd va : BitVec 5)
  | isum (c : Nat) (vd va : BitVec 5)
  | vmov (c : Nat) (vd va : BitVec 5)
  | vbcast (c : Nat) (vd va : BitVec 5)
  | vext (c : Nat) (vd va vb : BitVec 5)
  | vins (c : Nat) (vd va vb : BitVec 5)
  | vsel (c : Nat) (vd va vb vc : BitVec 5)
  | vshuf (c : Nat) (vd va vb : BitVec 5)
  | vzero (c : Nat) (vd : BitVec 5)
  -- core: matrix unit
  | mma (c : Nat) (td : BitVec 3) (a b vs : BitVec 5) (fmt : BitVec 3) (m sb tb z am : Bool)
  | matrixOpStart (c : Nat)
  | matrixOpEnd (c : Nat)
  | tzero (c : Nat) (td : BitVec 3)
  | trdr (c : Nat) (td : BitVec 3) (v : BitVec 5) (row : BitVec 4)
  | twrr (c : Nat) (td : BitVec 3) (v : BitVec 5) (row : BitVec 4)
  | trsc (c : Nat) (td : BitVec 3) (v : BitVec 5)
  -- core: streams and blocks
  | sopen (c : Nat) (ra rb : BitVec 5)
  | sclose (c : Nat)
  | spop (c : Nat) (vd : BitVec 5)
  | sstat (c : Nat) (rd : BitVec 5)
  | bget (c : Nat) (ra rb rc : BitVec 5)
  | bput (c : Nat) (ra rb rc : BitVec 5)
  | bpute (c : Nat) (ra rb rc : BitVec 5)
  | bwait (c : Nat) (imm : BitVec 8)
  | blockRequestComplete (c : Nat)
  -- core: synchronization and system
  | syncFence (c : Nat)
  | pbar (c : Nat) (mask : BitVec 8)
  | pbarEnd (pod : Nat) (mask : BitVec 8)
  | gcomp (c : Nat) (gate : BitVec 8)
  | gwaitc (c : Nat) (ra : BitVec 5) (gate : BitVec 8)
  | gwaitcResume (c : Nat)
  | gcnt (c : Nat) (rd : BitVec 5) (gate : BitVec 8)
  | waitl (c : Nat) (ra : BitVec 5)
  | waitlResume (c : Nat)
  | rdlcnt (c : Nat) (rd : BitVec 5)
  | nop (c : Nat)
  | halt (c : Nat)
  | trap (c : Nat) (code : BitVec 8)
  | rngnext (c : Nat) (rd : BitVec 5)
  | csrr (c : Nat) (rd : BitVec 5) (num : BitVec 16)
  | csrw (c : Nat) (ra : BitVec 5) (num : BitVec 16)
  | instructionFetchMiss (c : Nat)
  -- banks, encoders, memory path
  | slotFillEnd (bank : BankRef) (id : BitVec 16)
  | bankIngestEnd (bank : BankRef) (crcOk : Bool)
  | blockDecoded (bank : BankRef)
  | encoderBlockEnd (engine : Nat)
  | mempathCrcFailure (handle : Word) (blk : Nat)
  | rereadResult (handle : Word) (blk : Nat) (passed : Bool)
  | parityRebuildResult (handle : Word) (blk : Nat) (passed : Bool)
  -- placement
  | pressureEvictionStart
  | hotPromotion (handle : Word) (tract : Nat)
  | promotionCopyEnd (handle : Word) (tract : Nat)
  | writeBackEnd (handle : Word) (tract : Nat)
  | tmapFetchEnd (handle : Word) (tract : Nat)
  | windowPromotionStart (w : BitVec 6)
  | windowPinRetry (w : BitVec 6)
  -- regulation and stack controllers
  | regulationBoundary
  | stackRequestArrival (stack : Nat) (req : StackReq)
  | activationStart (stack : Nat) (source : Nat) (found : List SectorRead)
  | stackRequestComplete (stack : Nat) (source : Nat)
  | refresh (stack : Nat) (pc bank : Nat)
  | pcRetrain (stack : Nat) (pc : Nat)
  | pcRetrainEnd (stack : Nat) (pc : Nat) (passed : Bool)
  | mergeWrite (stack : Nat) (slot sector source : Nat) (data : BitVec 512) (mask : BitVec 64)
  | mergeHoldExpiry (stack : Nat) (slot sector : Nat)
  | mergeFlushEnd (stack : Nat) (slot sector : Nat)
  | scrubStep (stack : Nat) (found : Option SectorRead)
  -- reliability
  | rowRemapEnd (stack : Nat) (slot : Nat)
  | stripeRetirementEnd (tier : Tier) (stripe : Nat)
  | rebuildEnd (stack : Nat)
  | controllerReset (stack : Nat) (cause : Nat)
  | controllerResetEnd (stack : Nat)
  | unitReset (unit : UnitKind) (inst : Nat) (cause : Nat)
  | unitResetEnd (unit : UnitKind) (inst : Nat)
  | reclaimMoveEnd (handle : Word) (tract : Nat)
  -- revocation and regions
  | revocationDrained (handle : Word)
  | wipeEnd (handle : Word)
  | publishCommit (d : Nat)
  | readerTimeout (handle : Word) (vslot : Nat) (src : Nat)
  -- fabric links
  | trainingDone (port : Nat) (rate : Nat) (rtt : BitVec 16) (pair : Nat)
  | trainingTimeout (port : Nat)
  | hello (port : Nat) (payload : BitVec 1824)
  | cert (port : Nat) (payload : BitVec 1824)
  | helloSig (port : Nat) (sig : BitVec 512)
  | authBackoffEnd (port : Nat)
  | sleepReq (port : Nat)
  | sleepAck (port : Nat)
  | linkWake (port : Nat)
  | linkRetrain (port : Nat)
  | dataFlit (port : Nat) (flit : BitVec 2048)
  | idleFlit (port : Nat) (flit : BitVec 2048)
  | degradedBackoffEnd (port : Nat)
  -- fabric routing
  | lsaOriginate
  | pktLsa (port : Nat) (body : Bytes)
  | lsaExpiry (uid : DWord)
  | didAssignment
  | pktDidAssign (port : Nat) (body : Bytes)
  | routeRecompute
  | packetForward (port vc : Nat) (pkt : Packet) (counts : Nat)
  | escapeTimeout (pkt : Packet)
  -- fabric requests
  | pktRead (pkt : PktIn)
  | pktWrite (pkt : PktIn)
  | pktGate (pkt : PktIn)
  | pktPublish (pkt : PktIn)
  | pktVersion (pkt : PktIn)
  | pktRedReady (pkt : PktIn)
  | pktRedCounts (pkt : PktIn)
  | pktRedAbort (pkt : PktIn)
  | pktHold (pkt : PktIn)
  | pktResponse (pkt : PktIn)
  | holdTimer (src : Nat) (txid : Word)
  | e2eResend (txid : Word)
  | dedupExpiry (src : Nat) (txid : Word)
  | reduceWaitExpiry (group : Nat)
  -- host ports
  | hotReset (port : Nat)
  | functionLevelReset (port : Nat)
  | hostLinkUp (port : Nat) (link : HostLink)
  | hostLinkDown (port : Nat) (cause : LinkDownCause)
  | powerstateWrite (port : Nat) (state : BitVec 2)
  | atsInvalidation (port : Nat) (page : DWord) (pages : Nat)
  | hostReadCompletion (port : Nat) (d : Nat) (addr : DWord) (good : Bool)
  | cplTimeout (port : Nat) (d : Nat) (addr : DWord)
  | msixUnmask (port : Nat) (vector : BitVec 11)
  | unsupportedRequest (port : Nat)
  | malformedTlp (port : Nat)
  | poisonedTlp (port : Nat)
  | unexpectedCompletion (port : Nat)
  -- Z7 windows
  | memrd (port : Nat) (spid : Nat) (dpa : BitVec 39) (excl : Bool)
  | memwr (port : Nat) (spid : Nat) (dpa : BitVec 39) (data : BitVec 512)
  | memwrptl (port : Nat) (spid : Nat) (dpa : BitVec 39) (data : BitVec 512) (be : BitVec 64)
  | bisnpAck (port : Nat) (dpa : BitVec 39) (spid : Nat) (dirty : Option (BitVec 512))
  | dirtyWriteback (port : Nat) (dpa : BitVec 39) (spid : Nat) (data : BitVec 512)
  | winSwitchGo
  | epochDrainEnd
  | hportRetrain (port : Nat)
  -- security
  | attGo
  | quoteReady
  | provision (h : HostData)
  | enterField (h : HostData)
  | leaveField (h : HostData)
  | release (h : HostData)
  | returnCmd (h : HostData)
  | stage (h : HostData) (image : HostData)
  | svnCommit (h : HostData)
  | revokeKey (h : HostData)
  | reset (h : HostData) (nonce : BitVec 128)
  | activate (h : HostData)
  | moduleReset (cause : Nat) (nonce : BitVec 128)
  | locallyReady
  | debugOpen
  -- event recorder and journal
  | recordCloseTimer
  | recordCommit
  | opSecondsCheckpoint
  | evtHold
  | holdExpiry
  | recSel (n : Word)
  | journalEnable (ch : BitVec 10)
  | journalPageWrite (ch : BitVec 10)
  | replayMode
  | replayAccept (ch : BitVec 10)
  -- power and sideband
  | standbyPowerApplied (feed36 : Bool) (nonce : BitVec 128)
  | inputGood
  | staggerSlotStart
  | railStep
  | railTimeout
  | inputLoss
  | overvoltage
  | overTemperature
  | coolantLoss
  | stopReturn (nonce : BitVec 128)
  | selfTestEnd (passed : Bool)
  | powerSample (volts amps : BitVec 16) (die : BitVec 8) (temps : Table Byte) (vr inlet outlet : BitVec 8) (flow : BitVec 16)
  | sidebandChange (sig : SideSig) (level : Bool)
  | coalesceEnd (sig : SideSig)
  | inputStuck (sig : SideSig)
  | stuckExamine (sig : SideSig)
  -- registers
  | scratchWrite (port : Nat) (n : BitVec 2) (value : RegData)
  | groupConfigure
  | registerWrite (port : Nat) (addr : BitVec 24) (be : BitVec 4) (value : Word)
  | controllerResetTimeout (stack : Nat)
  | stackTrainingEnd
  | memoryWipeEnd
  | standbyPowerLoss
  | programLoadEnd (prog : Nat)
  | registerApply (block : BitVec 4)
  | atsEnableClear (port : Nat)
  | undefinedOpcode (c : Nat) (word : Word)
  | completerAbort (port : Nat) (write : Bool)
  deriving DecidableEq, Repr

end Sys2Proof
end

