-- ==== Sys2Proof/Decode.lean ====
section
/-! DEFINITION. Words and the commands they spell. The command table gives no row any bits, so
`decodeTableWord` answers none. The core's instruction words (R130 to R132) are the one encoding the
spec has: `decodeCore` reads a word that core `c` fetched, `encodeCore` writes it. -/

namespace Sys2Proof

/-- The command that a word of the command table's bits spells: no row has bits. -/
def decodeTableWord (_nbits _w : Nat) : Option Instr := none

/-! ## Formats (R131): fields from bit 31 down -/

namespace Fmt32

def r (op : BitVec 6) (rd ra rb : BitVec 5) (func : BitVec 11) : Word := op ++ rd ++ ra ++ rb ++ func
def i (op : BitVec 6) (rd ra : BitVec 5) (imm : BitVec 16) : Word := op ++ rd ++ ra ++ imm
def k (op : BitVec 6) (rd : BitVec 5) (hw : BitVec 2) (imm : BitVec 16) : Word :=
  op ++ rd ++ (0 : BitVec 3) ++ hw ++ imm
def m (op : BitVec 6) (rt ra : BitVec 5) (sz : BitVec 3) (disp : BitVec 13) : Word := op ++ rt ++ ra ++ sz ++ disp
def mt (op : BitVec 6) (td : BitVec 3) (ra : BitVec 5) (sz : BitVec 3) (disp : BitVec 13) : Word :=
  op ++ td ++ (0 : BitVec 2) ++ ra ++ sz ++ disp
def j (op : BitVec 6) (off : BitVec 26) : Word := op ++ off
def v (op : BitVec 6) (vd va vb vc : BitVec 5) (func : BitVec 6) : Word := op ++ vd ++ va ++ vb ++ vc ++ func
def x (op : BitVec 6) (td : BitVec 3) (a b vs : BitVec 5) (fmt : BitVec 3) (m sb tb z am : Bool) : Word :=
  op ++ td ++ a ++ b ++ vs ++ fmt ++ BitVec.ofBool m ++ BitVec.ofBool sb ++ BitVec.ofBool tb ++
    BitVec.ofBool z ++ BitVec.ofBool am
def t (op : BitVec 6) (td : BitVec 3) (v : BitVec 5) (row : BitVec 4) (func : BitVec 4) : Word :=
  op ++ td ++ v ++ row ++ (0 : BitVec 10) ++ func
def s (op : BitVec 6) (d ra rb : BitVec 5) (func : BitVec 3) : Word :=
  op ++ d ++ ra ++ rb ++ (0 : BitVec 8) ++ func
def q (op : BitVec 6) (ra rb rc : BitVec 5) (imm : BitVec 8) (func : BitVec 3) : Word :=
  op ++ ra ++ rb ++ rc ++ imm ++ func
def y (op : BitVec 6) (rd ra : BitVec 5) (imm : BitVec 8) (func : BitVec 8) : Word :=
  op ++ rd ++ ra ++ imm ++ func

end Fmt32

/-- `some i` where a field that must be 0 is 0. -/
def ifZero {n : Nat} (x : BitVec n) (i : Instr) : Option Instr := if x = 0 then some i else none

/-! ## The tables of operations by func -/

/-- ALU (R133). -/
def aluOp (c : Nat) (rd ra rb : BitVec 5) (func : BitVec 11) : Option Instr :=
  match func.toNat with
  | 0x00 => some (.add c rd ra rb)
  | 0x01 => some (.sub c rd ra rb)
  | 0x02 => some (.and c rd ra rb)
  | 0x03 => some (.or c rd ra rb)
  | 0x04 => some (.xor c rd ra rb)
  | 0x05 => some (.sll c rd ra rb)
  | 0x06 => some (.srl c rd ra rb)
  | 0x07 => some (.sra c rd ra rb)
  | 0x08 => some (.slt c rd ra rb)
  | 0x09 => some (.sltu c rd ra rb)
  | 0x0A => some (.min c rd ra rb)
  | 0x0B => some (.max c rd ra rb)
  | 0x0C => some (.minu c rd ra rb)
  | 0x0D => some (.maxu c rd ra rb)
  | 0x10 => some (.mul c rd ra rb)
  | 0x11 => some (.mulh c rd ra rb)
  | 0x12 => some (.mulhu c rd ra rb)
  | 0x14 => some (.divu c rd ra rb)
  | 0x15 => some (.remu c rd ra rb)
  | 0x18 => ifZero rb (.clz c rd ra)
  | 0x19 => ifZero rb (.popc c rd ra)
  | 0x1A => ifZero rb (.ctz c rd ra)
  | _ => none

/-- AMO (R139). -/
def amoOp (c : Nat) (rd ra rb : BitVec 5) (func : BitVec 11) : Option Instr :=
  match func.toNat with
  | 0 => some (.amoadd c rd ra rb)
  | 1 => some (.amoswap c rd ra rb)
  | 2 => some (.amocas c rd ra rb)
  | 3 => some (.amoand c rd ra rb)
  | 4 => some (.amoor c rd ra rb)
  | 5 => some (.amomax c rd ra rb)
  | _ => none

/-- VFP (R140). -/
def vfpOp (c : Nat) (vd va vb vc : BitVec 5) (func : BitVec 6) : Option Instr :=
  if vc ≠ 0 then none
  else match func.toNat with
    | 0x00 => some (.vadd c vd va vb)
    | 0x01 => some (.vsub c vd va vb)
    | 0x02 => some (.vmul c vd va vb)
    | 0x03 => some (.vmin c vd va vb)
    | 0x04 => some (.vmax c vd va vb)
    | 0x05 => ifZero vb (.vabs c vd va)
    | 0x06 => ifZero vb (.vneg c vd va)
    | 0x08 => some (.vdiv c vd va vb)
    | 0x09 => ifZero vb (.vsqrt c vd va)
    | 0x0A => ifZero vb (.vrcp c vd va)
    | 0x0B => ifZero vb (.vrsqrt c vd va)
    | 0x0C => ifZero vb (.vexp2 c vd va)
    | 0x0D => ifZero vb (.vlog2 c vd va)
    | 0x10 => some (.vcmpeq c vd va vb)
    | 0x11 => some (.vcmplt c vd va vb)
    | 0x12 => some (.vcmple c vd va vb)
    | _ => none

/-- VINT (R142). -/
def vintOp (c : Nat) (vd va vb vc : BitVec 5) (func : BitVec 6) : Option Instr :=
  if vc ≠ 0 then none
  else match func.toNat with
    | 0x00 => some (.iadd c vd va vb)
    | 0x01 => some (.isub c vd va vb)
    | 0x02 => some (.imul c vd va vb)
    | 0x03 => some (.iand c vd va vb)
    | 0x04 => some (.ior c vd va vb)
    | 0x05 => some (.ixor c vd va vb)
    | 0x06 => some (.isll c vd va vb)
    | 0x07 => some (.isrl c vd va vb)
    | 0x08 => some (.isra c vd va vb)
    | 0x09 => some (.imin c vd va vb)
    | 0x0A => some (.imax c vd va vb)
    | 0x0B => some (.icmpeq c vd va vb)
    | 0x0C => some (.icmplt c vd va vb)
    | 0x10 => ifZero vb (.cvtif c vd va)
    | 0x11 => ifZero vb (.cvtfi c vd va)
    | _ => none

/-- VRED (R144). -/
def vredOp (c : Nat) (vd va vb vc : BitVec 5) (func : BitVec 6) : Option Instr :=
  if vb ≠ 0 ∨ vc ≠ 0 then none
  else match func.toNat with
    | 0 => some (.fsum c vd va)
    | 1 => some (.fmax c vd va)
    | 2 => some (.fmin c vd va)
    | 3 => some (.isum c vd va)
    | _ => none

/-- VMOV (R144). -/
def vmovOp (c : Nat) (vd va vb vc : BitVec 5) (func : BitVec 6) : Option Instr :=
  match func.toNat with
  | 0 => if vb = 0 ∧ vc = 0 then some (.vmov c vd va) else none
  | 1 => if vb = 0 ∧ vc = 0 then some (.vbcast c vd va) else none
  | 2 => ifZero vc (.vext c vd va vb)
  | 3 => ifZero vc (.vins c vd va vb)
  | 4 => some (.vsel c vd va vb vc)
  | 5 => ifZero vc (.vshuf c vd va vb)
  | 6 => if va = 0 ∧ vb = 0 ∧ vc = 0 then some (.vzero c vd) else none
  | _ => none

/-- TILE (R148). -/
def tileOp (c : Nat) (td : BitVec 3) (v : BitVec 5) (row func : BitVec 4) : Option Instr :=
  match func.toNat with
  | 0 => if v = 0 ∧ row = 0 then some (.tzero c td) else none
  | 1 => some (.trdr c td v row)
  | 2 => some (.twrr c td v row)
  | 3 => ifZero row (.trsc c td v)
  | _ => none

/-- STRM (R149). -/
def strmOp (c : Nat) (d ra rb : BitVec 5) (func : BitVec 3) : Option Instr :=
  match func.toNat with
  | 0 => ifZero d (.sopen c ra rb)
  | 1 => if d = 0 ∧ ra = 0 ∧ rb = 0 then some (.sclose c) else none
  | 2 => if ra = 0 ∧ rb = 0 then some (.spop c d) else none
  | 3 => if ra = 0 ∧ rb = 0 then some (.sstat c d) else none
  | _ => none

/-- BLK (R153). -/
def blkOp (c : Nat) (ra rb rc : BitVec 5) (imm : BitVec 8) (func : BitVec 3) : Option Instr :=
  match func.toNat with
  | 0 => ifZero imm (.bget c ra rb rc)
  | 1 => ifZero imm (.bput c ra rb rc)
  | 2 => ifZero imm (.bpute c ra rb rc)
  | 3 => if ra = 0 ∧ rb = 0 ∧ rc = 0 then some (.bwait c imm) else none
  | _ => none

/-- SYNC (R156). -/
def syncOp (c : Nat) (rd ra : BitVec 5) (imm func : BitVec 8) : Option Instr :=
  match func.toNat with
  | 0 => if rd = 0 ∧ ra = 0 ∧ imm = 0 then some (.syncFence c) else none
  | 1 => if rd = 0 ∧ ra = 0 then some (.pbar c imm) else none
  | 2 => if rd = 0 ∧ ra = 0 then some (.gcomp c imm) else none
  | 3 => ifZero rd (.gwaitc c ra imm)
  | 4 => ifZero ra (.gcnt c rd imm)
  | 5 => if rd = 0 ∧ imm = 0 then some (.waitl c ra) else none
  | 6 => if ra = 0 ∧ imm = 0 then some (.rdlcnt c rd) else none
  | _ => none

/-- SYS (R156). -/
def sysOp (c : Nat) (rd ra : BitVec 5) (imm func : BitVec 8) : Option Instr :=
  match func.toNat with
  | 0 => if rd = 0 ∧ ra = 0 ∧ imm = 0 then some (.nop c) else none
  | 1 => if rd = 0 ∧ ra = 0 ∧ imm = 0 then some (.halt c) else none
  | 2 => if rd = 0 ∧ ra = 0 then some (.trap c imm) else none
  | 3 => if ra = 0 ∧ imm = 0 then some (.rngnext c rd) else none
  | _ => none

/-! ## Decoding (R130, R132) -/

/-- The instruction of a word that core `c` fetched; none where the major opcode or the func is
undefined, or a reserved or unused field is not 0. -/
def decodeCore (c : Nat) (w : Word) : Option Instr :=
  let rd : BitVec 5 := w.extractLsb' 21 5
  let ra : BitVec 5 := w.extractLsb' 16 5
  let rb : BitVec 5 := w.extractLsb' 11 5
  let rc : BitVec 5 := w.extractLsb' 6 5
  let imm : BitVec 16 := w.extractLsb' 0 16
  let td : BitVec 3 := w.extractLsb' 23 3
  let sz : BitVec 3 := w.extractLsb' 13 3
  let disp : BitVec 13 := w.extractLsb' 0 13
  let imm8 : BitVec 8 := w.extractLsb' 8 8
  match (w.extractLsb' 26 6).toNat with
  | 0x01 => aluOp c rd ra rb (w.extractLsb' 0 11)
  | 0x02 => some (.addi c rd ra imm)
  | 0x03 => some (.andi c rd ra imm)
  | 0x04 => some (.ori c rd ra imm)
  | 0x05 => some (.xori c rd ra imm)
  | 0x06 => some (.shi c rd ra imm)
  | 0x07 => some (.slti c rd ra imm)
  | 0x08 => some (.sltiu c rd ra imm)
  | 0x09 => ifZero (w.extractLsb' 18 3) (.movz c rd (w.extractLsb' 16 2) imm)
  | 0x0A => ifZero (w.extractLsb' 18 3) (.movk c rd (w.extractLsb' 16 2) imm)
  | 0x10 => some (.ld c rd ra sz disp)
  | 0x11 => some (.st c rd ra sz disp)
  | 0x12 => some (.vld c rd ra sz disp)
  | 0x13 => some (.vst c rd ra sz disp)
  | 0x14 => ifZero (w.extractLsb' 21 2) (.tld c td ra sz disp)
  | 0x15 => ifZero (w.extractLsb' 21 2) (.tst c td ra sz disp)
  | 0x16 => amoOp c rd ra rb (w.extractLsb' 0 11)
  | 0x18 => some (.beq c rd ra imm)
  | 0x19 => some (.bne c rd ra imm)
  | 0x1A => some (.blt c rd ra imm)
  | 0x1B => some (.bge c rd ra imm)
  | 0x1C => some (.bltu c rd ra imm)
  | 0x1D => some (.bgeu c rd ra imm)
  | 0x1E => some (.jal c (w.extractLsb' 0 26))
  | 0x1F => some (.jalr c rd ra imm)
  | 0x20 => vfpOp c rd ra rb rc (w.extractLsb' 0 6)
  | 0x21 => ifZero (w.extractLsb' 2 4) (.vfma c rd ra rb rc (w.extractLsb' 0 2))
  | 0x23 => vintOp c rd ra rb rc (w.extractLsb' 0 6)
  | 0x24 => some (.vcvt c rd ra rb rc (w.extractLsb' 0 6))
  | 0x25 => vredOp c rd ra rb rc (w.extractLsb' 0 6)
  | 0x26 => vmovOp c rd ra rb rc (w.extractLsb' 0 6)
  | 0x28 => some (.mma c td (w.extractLsb' 18 5) (w.extractLsb' 13 5) (w.extractLsb' 8 5) (w.extractLsb' 5 3)
      (w.getLsbD 4) (w.getLsbD 3) (w.getLsbD 2) (w.getLsbD 1) (w.getLsbD 0))
  | 0x29 =>
    if (w.extractLsb' 4 10 : BitVec 10) ≠ 0 then none
    else tileOp c td (w.extractLsb' 18 5) (w.extractLsb' 14 4) (w.extractLsb' 0 4)
  | 0x2A =>
    if (w.extractLsb' 3 8 : BitVec 8) ≠ 0 then none else strmOp c rd ra rb (w.extractLsb' 0 3)
  | 0x2C => blkOp c rd ra rb (w.extractLsb' 3 8) (w.extractLsb' 0 3)
  | 0x30 => syncOp c rd ra imm8 (w.extractLsb' 0 8)
  | 0x31 => sysOp c rd ra imm8 (w.extractLsb' 0 8)
  | 0x32 => ifZero ra (.csrr c rd imm)
  | 0x33 => ifZero rd (.csrw c ra imm)
  | _ => none

/-! ## Encoding (R131, R132); none for a command that is no core instruction -/

def encodeCore (i : Instr) : Option Word :=
  match i with
  | .add _ rd ra rb => some (Fmt32.r 0x01 rd ra rb 0x00)
  | .sub _ rd ra rb => some (Fmt32.r 0x01 rd ra rb 0x01)
  | .and _ rd ra rb => some (Fmt32.r 0x01 rd ra rb 0x02)
  | .or _ rd ra rb => some (Fmt32.r 0x01 rd ra rb 0x03)
  | .xor _ rd ra rb => some (Fmt32.r 0x01 rd ra rb 0x04)
  | .sll _ rd ra rb => some (Fmt32.r 0x01 rd ra rb 0x05)
  | .srl _ rd ra rb => some (Fmt32.r 0x01 rd ra rb 0x06)
  | .sra _ rd ra rb => some (Fmt32.r 0x01 rd ra rb 0x07)
  | .slt _ rd ra rb => some (Fmt32.r 0x01 rd ra rb 0x08)
  | .sltu _ rd ra rb => some (Fmt32.r 0x01 rd ra rb 0x09)
  | .min _ rd ra rb => some (Fmt32.r 0x01 rd ra rb 0x0A)
  | .max _ rd ra rb => some (Fmt32.r 0x01 rd ra rb 0x0B)
  | .minu _ rd ra rb => some (Fmt32.r 0x01 rd ra rb 0x0C)
  | .maxu _ rd ra rb => some (Fmt32.r 0x01 rd ra rb 0x0D)
  | .mul _ rd ra rb => some (Fmt32.r 0x01 rd ra rb 0x10)
  | .mulh _ rd ra rb => some (Fmt32.r 0x01 rd ra rb 0x11)
  | .mulhu _ rd ra rb => some (Fmt32.r 0x01 rd ra rb 0x12)
  | .divu _ rd ra rb => some (Fmt32.r 0x01 rd ra rb 0x14)
  | .remu _ rd ra rb => some (Fmt32.r 0x01 rd ra rb 0x15)
  | .clz _ rd ra => some (Fmt32.r 0x01 rd ra 0 0x18)
  | .popc _ rd ra => some (Fmt32.r 0x01 rd ra 0 0x19)
  | .ctz _ rd ra => some (Fmt32.r 0x01 rd ra 0 0x1A)
  | .addi _ rd ra imm => some (Fmt32.i 0x02 rd ra imm)
  | .andi _ rd ra imm => some (Fmt32.i 0x03 rd ra imm)
  | .ori _ rd ra imm => some (Fmt32.i 0x04 rd ra imm)
  | .xori _ rd ra imm => some (Fmt32.i 0x05 rd ra imm)
  | .shi _ rd ra imm => some (Fmt32.i 0x06 rd ra imm)
  | .slti _ rd ra imm => some (Fmt32.i 0x07 rd ra imm)
  | .sltiu _ rd ra imm => some (Fmt32.i 0x08 rd ra imm)
  | .movz _ rd hw imm => some (Fmt32.k 0x09 rd hw imm)
  | .movk _ rd hw imm => some (Fmt32.k 0x0A rd hw imm)
  | .beq _ ra rb off => some (Fmt32.i 0x18 ra rb off)
  | .bne _ ra rb off => some (Fmt32.i 0x19 ra rb off)
  | .blt _ ra rb off => some (Fmt32.i 0x1A ra rb off)
  | .bge _ ra rb off => some (Fmt32.i 0x1B ra rb off)
  | .bltu _ ra rb off => some (Fmt32.i 0x1C ra rb off)
  | .bgeu _ ra rb off => some (Fmt32.i 0x1D ra rb off)
  | .jal _ off => some (Fmt32.j 0x1E off)
  | .jalr _ rd ra imm => some (Fmt32.i 0x1F rd ra imm)
  | .ld _ rt ra sz disp => some (Fmt32.m 0x10 rt ra sz disp)
  | .st _ rt ra sz disp => some (Fmt32.m 0x11 rt ra sz disp)
  | .vld _ rt ra sz disp => some (Fmt32.m 0x12 rt ra sz disp)
  | .vst _ rt ra sz disp => some (Fmt32.m 0x13 rt ra sz disp)
  | .tld _ td ra sz disp => some (Fmt32.mt 0x14 td ra sz disp)
  | .tst _ td ra sz disp => some (Fmt32.mt 0x15 td ra sz disp)
  | .amoadd _ rd ra rb => some (Fmt32.r 0x16 rd ra rb 0)
  | .amoswap _ rd ra rb => some (Fmt32.r 0x16 rd ra rb 1)
  | .amocas _ rd ra rb => some (Fmt32.r 0x16 rd ra rb 2)
  | .amoand _ rd ra rb => some (Fmt32.r 0x16 rd ra rb 3)
  | .amoor _ rd ra rb => some (Fmt32.r 0x16 rd ra rb 4)
  | .amomax _ rd ra rb => some (Fmt32.r 0x16 rd ra rb 5)
  | .vadd _ vd va vb => some (Fmt32.v 0x20 vd va vb 0 0x00)
  | .vsub _ vd va vb => some (Fmt32.v 0x20 vd va vb 0 0x01)
  | .vmul _ vd va vb => some (Fmt32.v 0x20 vd va vb 0 0x02)
  | .vmin _ vd va vb => some (Fmt32.v 0x20 vd va vb 0 0x03)
  | .vmax _ vd va vb => some (Fmt32.v 0x20 vd va vb 0 0x04)
  | .vabs _ vd va => some (Fmt32.v 0x20 vd va 0 0 0x05)
  | .vneg _ vd va => some (Fmt32.v 0x20 vd va 0 0 0x06)
  | .vdiv _ vd va vb => some (Fmt32.v 0x20 vd va vb 0 0x08)
  | .vsqrt _ vd va => some (Fmt32.v 0x20 vd va 0 0 0x09)
  | .vrcp _ vd va => some (Fmt32.v 0x20 vd va 0 0 0x0A)
  | .vrsqrt _ vd va => some (Fmt32.v 0x20 vd va 0 0 0x0B)
  | .vexp2 _ vd va => some (Fmt32.v 0x20 vd va 0 0 0x0C)
  | .vlog2 _ vd va => some (Fmt32.v 0x20 vd va 0 0 0x0D)
  | .vcmpeq _ vd va vb => some (Fmt32.v 0x20 vd va vb 0 0x10)
  | .vcmplt _ vd va vb => some (Fmt32.v 0x20 vd va vb 0 0x11)
  | .vcmple _ vd va vb => some (Fmt32.v 0x20 vd va vb 0 0x12)
  | .vfma _ vd va vb vc form => some (Fmt32.v 0x21 vd va vb vc ((0 : BitVec 4) ++ form))
  | .iadd _ vd va vb => some (Fmt32.v 0x23 vd va vb 0 0x00)
  | .isub _ vd va vb => some (Fmt32.v 0x23 vd va vb 0 0x01)
  | .imul _ vd va vb => some (Fmt32.v 0x23 vd va vb 0 0x02)
  | .iand _ vd va vb => some (Fmt32.v 0x23 vd va vb 0 0x03)
  | .ior _ vd va vb => some (Fmt32.v 0x23 vd va vb 0 0x04)
  | .ixor _ vd va vb => some (Fmt32.v 0x23 vd va vb 0 0x05)
  | .isll _ vd va vb => some (Fmt32.v 0x23 vd va vb 0 0x06)
  | .isrl _ vd va vb => some (Fmt32.v 0x23 vd va vb 0 0x07)
  | .isra _ vd va vb => some (Fmt32.v 0x23 vd va vb 0 0x08)
  | .imin _ vd va vb => some (Fmt32.v 0x23 vd va vb 0 0x09)
  | .imax _ vd va vb => some (Fmt32.v 0x23 vd va vb 0 0x0A)
  | .icmpeq _ vd va vb => some (Fmt32.v 0x23 vd va vb 0 0x0B)
  | .icmplt _ vd va vb => some (Fmt32.v 0x23 vd va vb 0 0x0C)
  | .cvtif _ vd va => some (Fmt32.v 0x23 vd va 0 0 0x10)
  | .cvtfi _ vd va => some (Fmt32.v 0x23 vd va 0 0 0x11)
  | .vcvt _ vd va vb vc func => some (Fmt32.v 0x24 vd va vb vc func)
  | .fsum _ vd va => some (Fmt32.v 0x25 vd va 0 0 0)
  | .fmax _ vd va => some (Fmt32.v 0x25 vd va 0 0 1)
  | .fmin _ vd va => some (Fmt32.v 0x25 vd va 0 0 2)
  | .isum _ vd va => some (Fmt32.v 0x25 vd va 0 0 3)
  | .vmov _ vd va => some (Fmt32.v 0x26 vd va 0 0 0)
  | .vbcast _ vd va => some (Fmt32.v 0x26 vd va 0 0 1)
  | .vext _ vd va vb => some (Fmt32.v 0x26 vd va vb 0 2)
  | .vins _ vd va vb => some (Fmt32.v 0x26 vd va vb 0 3)
  | .vsel _ vd va vb vc => some (Fmt32.v 0x26 vd va vb vc 4)
  | .vshuf _ vd va vb => some (Fmt32.v 0x26 vd va vb 0 5)
  | .vzero _ vd => some (Fmt32.v 0x26 vd 0 0 0 6)
  | .mma _ td a b vs fmt m sb tb z am => some (Fmt32.x 0x28 td a b vs fmt m sb tb z am)
  | .tzero _ td => some (Fmt32.t 0x29 td 0 0 0)
  | .trdr _ td v row => some (Fmt32.t 0x29 td v row 1)
  | .twrr _ td v row => some (Fmt32.t 0x29 td v row 2)
  | .trsc _ td v => some (Fmt32.t 0x29 td v 0 3)
  | .sopen _ ra rb => some (Fmt32.s 0x2A 0 ra rb 0)
  | .sclose _ => some (Fmt32.s 0x2A 0 0 0 1)
  | .spop _ vd => some (Fmt32.s 0x2A vd 0 0 2)
  | .sstat _ rd => some (Fmt32.s 0x2A rd 0 0 3)
  | .bget _ ra rb rc => some (Fmt32.q 0x2C ra rb rc 0 0)
  | .bput _ ra rb rc => some (Fmt32.q 0x2C ra rb rc 0 1)
  | .bpute _ ra rb rc => some (Fmt32.q 0x2C ra rb rc 0 2)
  | .bwait _ imm => some (Fmt32.q 0x2C 0 0 0 imm 3)
  | .syncFence _ => some (Fmt32.y 0x30 0 0 0 0)
  | .pbar _ mask => some (Fmt32.y 0x30 0 0 mask 1)
  | .gcomp _ gate => some (Fmt32.y 0x30 0 0 gate 2)
  | .gwaitc _ ra gate => some (Fmt32.y 0x30 0 ra gate 3)
  | .gcnt _ rd gate => some (Fmt32.y 0x30 rd 0 gate 4)
  | .waitl _ ra => some (Fmt32.y 0x30 0 ra 0 5)
  | .rdlcnt _ rd => some (Fmt32.y 0x30 rd 0 0 6)
  | .nop _ => some (Fmt32.y 0x31 0 0 0 0)
  | .halt _ => some (Fmt32.y 0x31 0 0 0 1)
  | .trap _ code => some (Fmt32.y 0x31 0 0 code 2)
  | .rngnext _ rd => some (Fmt32.y 0x31 rd 0 0 3)
  | .csrr _ rd num => some (Fmt32.i 0x32 rd 0 num)
  | .csrw _ ra num => some (Fmt32.i 0x33 0 ra num)
  | .copyStored _ _ => none
  | .copyPlain _ _ => none
  | .encode _ _ => none
  | .decode _ => none
  | .promote _ => none
  | .evict _ => none
  | .pin _ => none
  | .unpin _ => none
  | .windowInstall _ _ => none
  | .windowRelease _ => none
  | .windowRemove _ => none
  | .publish _ _ => none
  | .fetchVersion _ => none
  | .launch _ _ => none
  | .reduceScatter _ => none
  | .allReduce _ => none
  | .load _ _ => none
  | .build _ => none
  | .buildRun _ => none
  | .drop _ => none
  | .fence _ => none
  | .gateWait _ => none
  | .gateOpenAdd _ => none
  | .gateOpenArm _ => none
  | .beginNative _ => none
  | .endNative _ => none
  | .caps _ => none
  | .extentCreate _ _ => none
  | .setOwner _ _ => none
  | .grant _ _ => none
  | .revokeOwner _ _ => none
  | .revokeGrant _ _ => none
  | .destroy _ _ => none
  | .extentWipe _ _ => none
  | .bindParty _ _ => none
  | .unparty _ _ => none
  | .bindChannel _ _ => none
  | .bindGate _ _ => none
  | .extentWatch _ _ => none
  | .doorbellPoll _ => none
  | .doorbellInvalidation _ => none
  | .doorbellReadReturn _ _ _ => none
  | .descriptorAccept _ _ => none
  | .descriptorStart _ => none
  | .descriptorComplete _ => none
  | .msixHoldoffEnd _ => none
  | .xbufGrant _ => none
  | .xbufRelease _ => none
  | .channelEnable _ => none
  | .channelDisable _ => none
  | .channelDrained _ => none
  | .gateCountEnd => none
  | .enterIdle => none
  | .enterDoze => none
  | .wakeStart _ => none
  | .wakeEnd => none
  | .launchWakeTimer => none
  | .wakeAtTimer => none
  | .refSwitch _ => none
  | .programStart => none
  | .quantumExpiry _ => none
  | .contextSaveEnd _ => none
  | .programRestore => none
  | .programEnd _ => none
  | .podReset _ => none
  | .podResetEnd _ _ => none
  | .matrixOpStart _ => none
  | .matrixOpEnd _ => none
  | .blockRequestComplete _ => none
  | .pbarEnd _ _ => none
  | .gwaitcResume _ => none
  | .waitlResume _ => none
  | .instructionFetchMiss _ => none
  | .slotFillEnd _ _ => none
  | .bankIngestEnd _ _ => none
  | .blockDecoded _ => none
  | .encoderBlockEnd _ => none
  | .mempathCrcFailure _ _ => none
  | .rereadResult _ _ _ => none
  | .parityRebuildResult _ _ _ => none
  | .pressureEvictionStart => none
  | .hotPromotion _ _ => none
  | .promotionCopyEnd _ _ => none
  | .writeBackEnd _ _ => none
  | .tmapFetchEnd _ _ => none
  | .windowPromotionStart _ => none
  | .windowPinRetry _ => none
  | .regulationBoundary => none
  | .stackRequestArrival _ _ => none
  | .activationStart _ _ _ => none
  | .stackRequestComplete _ _ => none
  | .refresh _ _ _ => none
  | .pcRetrain _ _ => none
  | .pcRetrainEnd _ _ _ => none
  | .mergeWrite _ _ _ _ _ _ => none
  | .mergeHoldExpiry _ _ _ => none
  | .mergeFlushEnd _ _ _ => none
  | .scrubStep _ _ => none
  | .rowRemapEnd _ _ => none
  | .stripeRetirementEnd _ _ => none
  | .rebuildEnd _ => none
  | .controllerReset _ _ => none
  | .controllerResetEnd _ => none
  | .unitReset _ _ _ => none
  | .unitResetEnd _ _ => none
  | .reclaimMoveEnd _ _ => none
  | .revocationDrained _ => none
  | .wipeEnd _ => none
  | .publishCommit _ => none
  | .readerTimeout _ _ _ => none
  | .trainingDone _ _ _ _ => none
  | .trainingTimeout _ => none
  | .hello _ _ => none
  | .cert _ _ => none
  | .helloSig _ _ => none
  | .authBackoffEnd _ => none
  | .sleepReq _ => none
  | .sleepAck _ => none
  | .linkWake _ => none
  | .linkRetrain _ => none
  | .dataFlit _ _ => none
  | .idleFlit _ _ => none
  | .degradedBackoffEnd _ => none
  | .lsaOriginate => none
  | .pktLsa _ _ => none
  | .lsaExpiry _ => none
  | .didAssignment => none
  | .pktDidAssign _ _ => none
  | .routeRecompute => none
  | .packetForward _ _ _ _ => none
  | .escapeTimeout _ => none
  | .pktRead _ => none
  | .pktWrite _ => none
  | .pktGate _ => none
  | .pktPublish _ => none
  | .pktVersion _ => none
  | .pktRedReady _ => none
  | .pktRedCounts _ => none
  | .pktRedAbort _ => none
  | .pktHold _ => none
  | .pktResponse _ => none
  | .holdTimer _ _ => none
  | .e2eResend _ => none
  | .dedupExpiry _ _ => none
  | .reduceWaitExpiry _ => none
  | .hotReset _ => none
  | .functionLevelReset _ => none
  | .hostLinkUp _ _ => none
  | .hostLinkDown _ _ => none
  | .powerstateWrite _ _ => none
  | .atsInvalidation _ _ _ => none
  | .hostReadCompletion _ _ _ _ => none
  | .cplTimeout _ _ _ => none
  | .msixUnmask _ _ => none
  | .unsupportedRequest _ => none
  | .malformedTlp _ => none
  | .poisonedTlp _ => none
  | .unexpectedCompletion _ => none
  | .memrd _ _ _ _ => none
  | .memwr _ _ _ _ => none
  | .memwrptl _ _ _ _ _ => none
  | .bisnpAck _ _ _ _ => none
  | .dirtyWriteback _ _ _ _ => none
  | .winSwitchGo => none
  | .epochDrainEnd => none
  | .hportRetrain _ => none
  | .attGo => none
  | .quoteReady => none
  | .provision _ => none
  | .enterField _ => none
  | .leaveField _ => none
  | .release _ => none
  | .returnCmd _ => none
  | .stage _ _ => none
  | .svnCommit _ => none
  | .revokeKey _ => none
  | .reset _ _ => none
  | .activate _ => none
  | .moduleReset _ _ => none
  | .locallyReady => none
  | .debugOpen => none
  | .recordCloseTimer => none
  | .recordCommit => none
  | .opSecondsCheckpoint => none
  | .evtHold => none
  | .holdExpiry => none
  | .recSel _ => none
  | .journalEnable _ => none
  | .journalPageWrite _ => none
  | .replayMode => none
  | .replayAccept _ => none
  | .standbyPowerApplied _ _ => none
  | .inputGood => none
  | .staggerSlotStart => none
  | .railStep => none
  | .railTimeout => none
  | .inputLoss => none
  | .overvoltage => none
  | .overTemperature => none
  | .coolantLoss => none
  | .stopReturn _ => none
  | .selfTestEnd _ => none
  | .powerSample _ _ _ _ _ _ _ _ => none
  | .sidebandChange _ _ => none
  | .coalesceEnd _ => none
  | .inputStuck _ => none
  | .stuckExamine _ => none
  | .scratchWrite _ _ _ => none
  | .groupConfigure => none
  | .registerWrite _ _ _ _ => none
  | .controllerResetTimeout _ => none
  | .stackTrainingEnd => none
  | .memoryWipeEnd => none
  | .standbyPowerLoss => none
  | .programLoadEnd _ => none
  | .registerApply _ => none
  | .atsEnableClear _ => none
  | .undefinedOpcode _ _ => none
  | .completerAbort _ _ => none

/-- The core an instruction runs on. -/
def coreOf (i : Instr) : Nat :=
  match i with
  | .copyStored _ _ => 0
  | .copyPlain _ _ => 0
  | .encode _ _ => 0
  | .decode _ => 0
  | .promote _ => 0
  | .evict _ => 0
  | .pin _ => 0
  | .unpin _ => 0
  | .windowInstall _ _ => 0
  | .windowRelease _ => 0
  | .windowRemove _ => 0
  | .publish _ _ => 0
  | .fetchVersion _ => 0
  | .launch _ _ => 0
  | .reduceScatter _ => 0
  | .allReduce _ => 0
  | .load _ _ => 0
  | .build _ => 0
  | .buildRun _ => 0
  | .drop _ => 0
  | .fence _ => 0
  | .gateWait _ => 0
  | .gateOpenAdd _ => 0
  | .gateOpenArm _ => 0
  | .beginNative _ => 0
  | .endNative _ => 0
  | .caps _ => 0
  | .extentCreate _ _ => 0
  | .setOwner _ _ => 0
  | .grant _ _ => 0
  | .revokeOwner _ _ => 0
  | .revokeGrant _ _ => 0
  | .destroy _ _ => 0
  | .extentWipe _ _ => 0
  | .bindParty _ _ => 0
  | .unparty _ _ => 0
  | .bindChannel _ _ => 0
  | .bindGate _ _ => 0
  | .extentWatch _ _ => 0
  | .doorbellPoll _ => 0
  | .doorbellInvalidation _ => 0
  | .doorbellReadReturn _ _ _ => 0
  | .descriptorAccept _ _ => 0
  | .descriptorStart _ => 0
  | .descriptorComplete _ => 0
  | .msixHoldoffEnd _ => 0
  | .xbufGrant _ => 0
  | .xbufRelease _ => 0
  | .channelEnable _ => 0
  | .channelDisable _ => 0
  | .channelDrained _ => 0
  | .gateCountEnd => 0
  | .enterIdle => 0
  | .enterDoze => 0
  | .wakeStart _ => 0
  | .wakeEnd => 0
  | .launchWakeTimer => 0
  | .wakeAtTimer => 0
  | .refSwitch _ => 0
  | .programStart => 0
  | .quantumExpiry _ => 0
  | .contextSaveEnd _ => 0
  | .programRestore => 0
  | .programEnd _ => 0
  | .podReset _ => 0
  | .podResetEnd _ _ => 0
  | .add c _ _ _ => c
  | .sub c _ _ _ => c
  | .and c _ _ _ => c
  | .or c _ _ _ => c
  | .xor c _ _ _ => c
  | .sll c _ _ _ => c
  | .srl c _ _ _ => c
  | .sra c _ _ _ => c
  | .slt c _ _ _ => c
  | .sltu c _ _ _ => c
  | .min c _ _ _ => c
  | .max c _ _ _ => c
  | .minu c _ _ _ => c
  | .maxu c _ _ _ => c
  | .mul c _ _ _ => c
  | .mulh c _ _ _ => c
  | .mulhu c _ _ _ => c
  | .divu c _ _ _ => c
  | .remu c _ _ _ => c
  | .clz c _ _ => c
  | .popc c _ _ => c
  | .ctz c _ _ => c
  | .addi c _ _ _ => c
  | .andi c _ _ _ => c
  | .ori c _ _ _ => c
  | .xori c _ _ _ => c
  | .shi c _ _ _ => c
  | .slti c _ _ _ => c
  | .sltiu c _ _ _ => c
  | .movz c _ _ _ => c
  | .movk c _ _ _ => c
  | .beq c _ _ _ => c
  | .bne c _ _ _ => c
  | .blt c _ _ _ => c
  | .bge c _ _ _ => c
  | .bltu c _ _ _ => c
  | .bgeu c _ _ _ => c
  | .jal c _ => c
  | .jalr c _ _ _ => c
  | .ld c _ _ _ _ => c
  | .st c _ _ _ _ => c
  | .vld c _ _ _ _ => c
  | .vst c _ _ _ _ => c
  | .tld c _ _ _ _ => c
  | .tst c _ _ _ _ => c
  | .amoadd c _ _ _ => c
  | .amoswap c _ _ _ => c
  | .amocas c _ _ _ => c
  | .amoand c _ _ _ => c
  | .amoor c _ _ _ => c
  | .amomax c _ _ _ => c
  | .vadd c _ _ _ => c
  | .vsub c _ _ _ => c
  | .vmul c _ _ _ => c
  | .vmin c _ _ _ => c
  | .vmax c _ _ _ => c
  | .vabs c _ _ => c
  | .vneg c _ _ => c
  | .vdiv c _ _ _ => c
  | .vsqrt c _ _ => c
  | .vrcp c _ _ => c
  | .vrsqrt c _ _ => c
  | .vexp2 c _ _ => c
  | .vlog2 c _ _ => c
  | .vcmpeq c _ _ _ => c
  | .vcmplt c _ _ _ => c
  | .vcmple c _ _ _ => c
  | .vfma c _ _ _ _ _ => c
  | .iadd c _ _ _ => c
  | .isub c _ _ _ => c
  | .imul c _ _ _ => c
  | .iand c _ _ _ => c
  | .ior c _ _ _ => c
  | .ixor c _ _ _ => c
  | .isll c _ _ _ => c
  | .isrl c _ _ _ => c
  | .isra c _ _ _ => c
  | .imin c _ _ _ => c
  | .imax c _ _ _ => c
  | .icmpeq c _ _ _ => c
  | .icmplt c _ _ _ => c
  | .cvtif c _ _ => c
  | .cvtfi c _ _ => c
  | .vcvt c _ _ _ _ _ => c
  | .fsum c _ _ => c
  | .fmax c _ _ => c
  | .fmin c _ _ => c
  | .isum c _ _ => c
  | .vmov c _ _ => c
  | .vbcast c _ _ => c
  | .vext c _ _ _ => c
  | .vins c _ _ _ => c
  | .vsel c _ _ _ _ => c
  | .vshuf c _ _ _ => c
  | .vzero c _ => c
  | .mma c _ _ _ _ _ _ _ _ _ _ => c
  | .matrixOpStart _ => 0
  | .matrixOpEnd _ => 0
  | .tzero c _ => c
  | .trdr c _ _ _ => c
  | .twrr c _ _ _ => c
  | .trsc c _ _ => c
  | .sopen c _ _ => c
  | .sclose c => c
  | .spop c _ => c
  | .sstat c _ => c
  | .bget c _ _ _ => c
  | .bput c _ _ _ => c
  | .bpute c _ _ _ => c
  | .bwait c _ => c
  | .blockRequestComplete _ => 0
  | .syncFence c => c
  | .pbar c _ => c
  | .pbarEnd _ _ => 0
  | .gcomp c _ => c
  | .gwaitc c _ _ => c
  | .gwaitcResume _ => 0
  | .gcnt c _ _ => c
  | .waitl c _ => c
  | .waitlResume _ => 0
  | .rdlcnt c _ => c
  | .nop c => c
  | .halt c => c
  | .trap c _ => c
  | .rngnext c _ => c
  | .csrr c _ _ => c
  | .csrw c _ _ => c
  | .instructionFetchMiss _ => 0
  | .slotFillEnd _ _ => 0
  | .bankIngestEnd _ _ => 0
  | .blockDecoded _ => 0
  | .encoderBlockEnd _ => 0
  | .mempathCrcFailure _ _ => 0
  | .rereadResult _ _ _ => 0
  | .parityRebuildResult _ _ _ => 0
  | .pressureEvictionStart => 0
  | .hotPromotion _ _ => 0
  | .promotionCopyEnd _ _ => 0
  | .writeBackEnd _ _ => 0
  | .tmapFetchEnd _ _ => 0
  | .windowPromotionStart _ => 0
  | .windowPinRetry _ => 0
  | .regulationBoundary => 0
  | .stackRequestArrival _ _ => 0
  | .activationStart _ _ _ => 0
  | .stackRequestComplete _ _ => 0
  | .refresh _ _ _ => 0
  | .pcRetrain _ _ => 0
  | .pcRetrainEnd _ _ _ => 0
  | .mergeWrite _ _ _ _ _ _ => 0
  | .mergeHoldExpiry _ _ _ => 0
  | .mergeFlushEnd _ _ _ => 0
  | .scrubStep _ _ => 0
  | .rowRemapEnd _ _ => 0
  | .stripeRetirementEnd _ _ => 0
  | .rebuildEnd _ => 0
  | .controllerReset _ _ => 0
  | .controllerResetEnd _ => 0
  | .unitReset _ _ _ => 0
  | .unitResetEnd _ _ => 0
  | .reclaimMoveEnd _ _ => 0
  | .revocationDrained _ => 0
  | .wipeEnd _ => 0
  | .publishCommit _ => 0
  | .readerTimeout _ _ _ => 0
  | .trainingDone _ _ _ _ => 0
  | .trainingTimeout _ => 0
  | .hello _ _ => 0
  | .cert _ _ => 0
  | .helloSig _ _ => 0
  | .authBackoffEnd _ => 0
  | .sleepReq _ => 0
  | .sleepAck _ => 0
  | .linkWake _ => 0
  | .linkRetrain _ => 0
  | .dataFlit _ _ => 0
  | .idleFlit _ _ => 0
  | .degradedBackoffEnd _ => 0
  | .lsaOriginate => 0
  | .pktLsa _ _ => 0
  | .lsaExpiry _ => 0
  | .didAssignment => 0
  | .pktDidAssign _ _ => 0
  | .routeRecompute => 0
  | .packetForward _ _ _ _ => 0
  | .escapeTimeout _ => 0
  | .pktRead _ => 0
  | .pktWrite _ => 0
  | .pktGate _ => 0
  | .pktPublish _ => 0
  | .pktVersion _ => 0
  | .pktRedReady _ => 0
  | .pktRedCounts _ => 0
  | .pktRedAbort _ => 0
  | .pktHold _ => 0
  | .pktResponse _ => 0
  | .holdTimer _ _ => 0
  | .e2eResend _ => 0
  | .dedupExpiry _ _ => 0
  | .reduceWaitExpiry _ => 0
  | .hotReset _ => 0
  | .functionLevelReset _ => 0
  | .hostLinkUp _ _ => 0
  | .hostLinkDown _ _ => 0
  | .powerstateWrite _ _ => 0
  | .atsInvalidation _ _ _ => 0
  | .hostReadCompletion _ _ _ _ => 0
  | .cplTimeout _ _ _ => 0
  | .msixUnmask _ _ => 0
  | .unsupportedRequest _ => 0
  | .malformedTlp _ => 0
  | .poisonedTlp _ => 0
  | .unexpectedCompletion _ => 0
  | .memrd _ _ _ _ => 0
  | .memwr _ _ _ _ => 0
  | .memwrptl _ _ _ _ _ => 0
  | .bisnpAck _ _ _ _ => 0
  | .dirtyWriteback _ _ _ _ => 0
  | .winSwitchGo => 0
  | .epochDrainEnd => 0
  | .hportRetrain _ => 0
  | .attGo => 0
  | .quoteReady => 0
  | .provision _ => 0
  | .enterField _ => 0
  | .leaveField _ => 0
  | .release _ => 0
  | .returnCmd _ => 0
  | .stage _ _ => 0
  | .svnCommit _ => 0
  | .revokeKey _ => 0
  | .reset _ _ => 0
  | .activate _ => 0
  | .moduleReset _ _ => 0
  | .locallyReady => 0
  | .debugOpen => 0
  | .recordCloseTimer => 0
  | .recordCommit => 0
  | .opSecondsCheckpoint => 0
  | .evtHold => 0
  | .holdExpiry => 0
  | .recSel _ => 0
  | .journalEnable _ => 0
  | .journalPageWrite _ => 0
  | .replayMode => 0
  | .replayAccept _ => 0
  | .standbyPowerApplied _ _ => 0
  | .inputGood => 0
  | .staggerSlotStart => 0
  | .railStep => 0
  | .railTimeout => 0
  | .inputLoss => 0
  | .overvoltage => 0
  | .overTemperature => 0
  | .coolantLoss => 0
  | .stopReturn _ => 0
  | .selfTestEnd _ => 0
  | .powerSample _ _ _ _ _ _ _ _ => 0
  | .sidebandChange _ _ => 0
  | .coalesceEnd _ => 0
  | .inputStuck _ => 0
  | .stuckExamine _ => 0
  | .scratchWrite _ _ _ => 0
  | .groupConfigure => 0
  | .registerWrite _ _ _ _ => 0
  | .controllerResetTimeout _ => 0
  | .stackTrainingEnd => 0
  | .memoryWipeEnd => 0
  | .standbyPowerLoss => 0
  | .programLoadEnd _ => 0
  | .registerApply _ => 0
  | .atsEnableClear _ => 0
  | .undefinedOpcode _ _ => 0
  | .completerAbort _ _ => 0

end Sys2Proof
end

