-- ==== Sys2Proof/Machine/Map.lean ====
section
/-! DEFINITION. Sparse tables: lookup, insertion, removal and the canonical put that lists no default
value, and byte stores built on them. Every memory, register file and table of the model goes through
these operations. The laws are in Sys2Proof/Laws/Map.lean. -/

namespace Sys2Proof

/-- The value listed at a key. -/
def Table.find {α : Type} (m : Table α) (k : Nat) : Option α :=
  match m with
  | [] => none
  | e :: r => if e.1 = k then some e.2 else Table.find r k

/-- The value at a key, `d` where none is listed. -/
def Table.get {α : Type} (d : α) (m : Table α) (k : Nat) : α :=
  match Table.find m k with
  | some v => v
  | none => d

/-- List `v` at key `k`, keeping the keys strictly rising: entries below `k` are passed, one at `k` is replaced. -/
def Table.set {α : Type} (m : Table α) (k : Nat) (v : α) : Table α :=
  match m with
  | [] => [(k, v)]
  | e :: r => if e.1 < k then e :: Table.set r k v else (k, v) :: (if e.1 = k then r else e :: r)

/-- Unlist a key. -/
def Table.del {α : Type} (m : Table α) (k : Nat) : Table α := m.filter (fun e => decide (e.1 ≠ k))

/-- Write `v` at `k` in a table whose unlisted keys read `d`: a default value is never listed. -/
def Table.put {α : Type} [DecidableEq α] (d : α) (m : Table α) (k : Nat) (v : α) : Table α :=
  if v = d then Table.del m k else Table.set m k v

/-- Change the value at a key. -/
def Table.modify {α : Type} [DecidableEq α] (d : α) (m : Table α) (k : Nat) (f : α → α) : Table α :=
  Table.put d m k (f (Table.get d m k))

/-- Change a listed value; an unlisted key stays unlisted. -/
def Table.update {α : Type} (m : Table α) (k : Nat) (f : α → α) : Table α :=
  match Table.find m k with
  | some v => Table.set m k (f v)
  | none => m

/-- Keep the entries that satisfy `p`. -/
def Table.keep {α : Type} (m : Table α) (p : Nat → α → Bool) : Table α :=
  m.filter (fun e => p e.1 e.2)

/-- Every key of the rest lies above `k`, in strictly rising order. -/
def Table.risingFrom {α : Type} (k : Nat) (m : Table α) : Bool :=
  match m with
  | [] => true
  | e :: r => decide (k < e.1) && Table.risingFrom e.1 r

/-- The canonical form: keys strictly rising. -/
def Table.rising {α : Type} (m : Table α) : Bool :=
  match m with
  | [] => true
  | e :: r => Table.risingFrom e.1 r

/-- The canonical form of a table with default `d`: keys strictly rising, no entry equal to `d`. -/
def Table.wf {α : Type} [DecidableEq α] (d : α) (m : Table α) : Bool :=
  Table.rising m && m.all (fun e => decide (e.2 ≠ d))

/-! ## Byte stores: unlisted bytes read 0 -/

/-- One byte of a store (R427: stores are zeroed at every module reset).
(DESIGN CHOICE, assumption 5.) -/
def Store.byte (m : Table Byte) (a : Nat) : Byte := Table.get 0 m a

/-- Write one byte. -/
def Store.setByte (m : Table Byte) (a : Nat) (b : Byte) : Table Byte := Table.put 0 m a b

/-- `n` bytes from address `a` up. -/
def Store.read (m : Table Byte) (a : Nat) : Nat → Bytes
  | 0 => []
  | n + 1 => Store.byte m a :: Store.read m (a + 1) n

/-- Write a run of bytes from address `a` up. -/
def Store.write (m : Table Byte) (a : Nat) (bs : Bytes) : Table Byte :=
  match bs with
  | [] => m
  | b :: r => Store.write (Store.setByte m a b) (a + 1) r

/-- Unlist every byte of [a, a + n): they read 0. -/
def Store.clear (m : Table Byte) (a n : Nat) : Table Byte :=
  Table.keep m (fun k _ => decide (k < a) || decide (a + n ≤ k))

/-- Replace the bytes of [a, a + bs.length) by `bs`, listing no zero. -/
def Store.replace (m : Table Byte) (a : Nat) (bs : Bytes) : Table Byte :=
  Store.write m a bs

/-! ## Numbers and bytes (R11: little-endian) -/

/-- The number a run of bytes spells, lowest byte first. -/
def leNat : Bytes → Nat
  | [] => 0
  | b :: r => b.toNat + 256 * leNat r

/-- The `n` bytes of a number, lowest first. -/
def leBytes : Nat → Nat → Bytes
  | 0, _ => []
  | n + 1, x => BitVec.ofNat 8 x :: leBytes n (x / 256)

/-- `n` bytes of a list from position `a`, 0 beyond its end. -/
def sliceBytes (bs : Bytes) (a n : Nat) : Bytes :=
  let l := (bs.drop a).take n
  l ++ List.replicate (n - l.length) 0

/-- The little-endian field of `n` bytes at position `a`. -/
def fieldAt (bs : Bytes) (a n : Nat) : Nat := leNat (sliceBytes bs a n)

/-- Bits [hi:lo] of a number. -/
def bitsOf (x hi lo : Nat) : Nat := (x / 2 ^ lo) % 2 ^ (hi - lo + 1)

/-- Bit `i` of a number. -/
def bitOf (x i : Nat) : Bool := (x / 2 ^ i) % 2 = 1

/-- 1 for true, 0 for false. -/
def natOf (b : Bool) : Nat := if b then 1 else 0

end Sys2Proof
end

