-- ==== Sys2Proof/Machine/Float.lean ====
section
/-! DEFINITION. Numbers of the narrow and FP32 formats (chapter 5): exact values, decoding, rounding,
FP32 arithmetic with its flags. Every operation converts to exact dyadic values, computes exactly and
rounds once. -/

namespace Sys2Proof.Machine

/-! ## Exact values -/

/-- The value of a floating-point datum: NaN, an infinity, or (−1)^neg × m × 2^e, zero with its sign. -/
inductive Fv where
  | nan
  | inf (neg : Bool)
  | fin (neg : Bool) (m : Nat) (e : Int)
  deriving DecidableEq, Repr

/-- An exact dyadic number n × 2^e. -/
structure Dy where
  n : Int
  e : Int
  deriving DecidableEq, Repr

/-- The integer of a dyadic at a lower exponent `e'`. -/
def Dy.at (x : Dy) (e' : Int) : Int := x.n * 2 ^ (x.e - e').toNat

def Dy.add (x y : Dy) : Dy :=
  let e := min x.e y.e
  ⟨x.at e + y.at e, e⟩

def Dy.mul (x y : Dy) : Dy := ⟨x.n * y.n, x.e + y.e⟩
def Dy.neg (x : Dy) : Dy := ⟨-x.n, x.e⟩
def Dy.abs (x : Dy) : Dy := ⟨(x.n.natAbs : Int), x.e⟩
def Dy.le (x y : Dy) : Bool :=
  let e := min x.e y.e
  decide (x.at e ≤ y.at e)
def Dy.sum (l : List Dy) : Dy := l.foldl Dy.add ⟨0, 0⟩

/-- The dyadic value of a finite datum. -/
def Fv.dy : Fv → Dy
  | .fin neg m e => ⟨if neg then -(m : Int) else m, e⟩
  | _ => ⟨0, 0⟩

def Fv.isNan : Fv → Bool | .nan => true | _ => false
def Fv.isInf : Fv → Bool | .inf _ => true | _ => false
def Fv.isZero : Fv → Bool | .fin _ m _ => decide (m = 0) | _ => false
def Fv.isNeg : Fv → Bool | .nan => false | .inf n => n | .fin n _ _ => n
def Fv.negate : Fv → Fv | .nan => .nan | .inf n => .inf (!n) | .fin n m e => .fin (!n) m e

/-- A dyadic as a datum, zero positive. -/
def Dy.fv (x : Dy) : Fv := .fin (decide (x.n < 0)) x.n.natAbs x.e

/-! ## Formats (R164) -/

/-- The parameters of a floating-point format: significand bits, bias, largest finite magnitude code,
canonical NaN, and the code of infinity where it has one. -/
structure Fmt where
  ebits : Nat
  mbits : Nat
  bias  : Nat
  top   : Nat
  nan   : Nat
  inf   : Option Nat
  deriving DecidableEq, Repr

def Fmt.fp32 : Fmt := ⟨8, 23, 127, 0x7F7FFFFF, 0x7FC00000, some 0x7F800000⟩
def Fmt.bf16 : Fmt := ⟨8, 7, 127, 0x7F7F, 0x7FC0, some 0x7F80⟩
def Fmt.fp16 : Fmt := ⟨5, 10, 15, 0x7BFF, 0x7E00, some 0x7C00⟩
def Fmt.e4m3 : Fmt := ⟨4, 3, 7, 0x7E, 0x7F, none⟩
def Fmt.e5m2 : Fmt := ⟨5, 2, 15, 0x7B, 0x7E, some 0x7C⟩
def Fmt.e2m1 : Fmt := ⟨2, 1, 1, 0x7, 0, none⟩

/-- Exponent of the lowest significand bit of the subnormals. -/
def Fmt.emin (f : Fmt) : Int := 1 - (f.bias : Int) - f.mbits

/-- Width of a format in bits. -/
def Fmt.width (f : Fmt) : Nat := 1 + f.ebits + f.mbits

/-- The value of a code. -/
def Fmt.decode (f : Fmt) (x : Nat) : Fv :=
  let neg := bitOf x (f.ebits + f.mbits)
  let mag := x % 2 ^ (f.ebits + f.mbits)
  if f.top < mag then (if some mag = f.inf then .inf neg else .nan)
  else
    let e := mag / 2 ^ f.mbits
    let m := mag % 2 ^ f.mbits
    if e = 0 then .fin neg m f.emin else .fin neg (2 ^ f.mbits + m) (f.emin + ((e : Int) - 1))

/-- The code of a magnitude with a sign. -/
def Fmt.signed (f : Fmt) (neg : Bool) (mag : Nat) : Nat := natOf neg * 2 ^ (f.ebits + f.mbits) + mag

/-! ## Flags (R182) -/

def flNX : BitVec 5 := 1
def flUF : BitVec 5 := 2
def flOF : BitVec 5 := 4
def flDZ : BitVec 5 := 8
def flNV : BitVec 5 := 16

/-! ## Rounding -/

/-- The roundings of R143: to nearest even, stochastic with the draw D (R176), toward zero. -/
inductive Round where
  | near | stoch (d : Nat) | zero
  deriving DecidableEq, Repr

/-- Round m / 2^k to an integer; with whether it was inexact. -/
def roundShift (r : Round) (m k : Nat) : Nat × Bool :=
  let fl := m / 2 ^ k
  let rem := m % 2 ^ k
  if rem = 0 then (fl, false)
  else
    let up : Bool := match r with
      | .zero => false
      | .stoch d => decide (2 ^ 24 ≤ d + rem * 2 ^ 24 / 2 ^ k)
      | .near => decide (2 ^ k < 2 * rem) || (decide (2 ^ k = 2 * rem) && decide (fl % 2 = 1))
    (if up then fl + 1 else fl, true)

/-- m × 2^e as an integer multiple of 2^q. -/
def quantize (r : Round) (m : Nat) (e q : Int) : Nat × Bool :=
  if q ≤ e then (m * 2 ^ (e - q).toNat, false) else roundShift r m (q - e).toNat

/-- A rounded magnitude: its code, which lies beyond `top` on overflow, whether it is inexact, and
whether the result is tiny, detected after rounding (R169). -/
structure Rounded where
  mag   : Nat
  inexact : Bool
  tiny  : Bool
  deriving DecidableEq, Repr

/-- Round m × 2^e once to a format, its exponent range unbounded above. -/
def Fmt.round (f : Fmt) (r : Round) (m : Nat) (e : Int) : Rounded :=
  if m = 0 then ⟨0, false, false⟩
  else
    let q' : Int := (Nat.log2 m : Int) + e - f.mbits
    let q := max q' f.emin
    let n := quantize r m e q
    let tiny := if f.emin ≤ q' then false
      else decide ((quantize r m e q').1 < 2 ^ (1 - (f.bias : Int) - q').toNat)
    ⟨(q - f.emin).toNat * 2 ^ f.mbits + n.1, n.2, tiny⟩

/-- UF and NX of a rounding that does not overflow (R173). -/
def Rounded.flags (x : Rounded) : BitVec 5 :=
  (if x.inexact then flNX else 0) ||| (if x.inexact && x.tiny then flUF else 0)

/-- A result with its flags. -/
structure Fr (w : Nat) where
  bits  : BitVec w
  flags : BitVec 5
  deriving DecidableEq, Repr

/-- An FP32 code. -/
abbrev F32 := BitVec 32

/-- The value of an FP32 code. -/
def f32 (x : F32) : Fv := Fmt.fp32.decode x.toNat

/-- The canonical NaN (R168). -/
def nan32 : F32 := 0x7FC00000

/-- ±infinity and ±0 in FP32. -/
def inf32 (neg : Bool) : F32 := if neg then 0xFF800000 else 0x7F800000
def zero32 (neg : Bool) : F32 := if neg then 0x80000000 else 0

/-- Round a finite value to FP32, to nearest even, with the flags of IEEE 754. -/
def round32 (neg : Bool) (m : Nat) (e : Int) : Fr 32 :=
  let x := Fmt.fp32.round .near m e
  if 0x7F7FFFFF < x.mag then ⟨inf32 neg, flOF ||| flNX⟩
  else ⟨BitVec.ofNat 32 (Fmt.fp32.signed neg x.mag), x.flags⟩

/-- A value as an FP32 result. -/
def Fv.to32 : Fv → Fr 32
  | .nan => ⟨nan32, 0⟩
  | .inf n => ⟨inf32 n, 0⟩
  | .fin n m e => round32 n m e

/-! ## FP32 arithmetic (R170) -/

/-- An exact product; NaN for zero times infinity (with NV by the caller). -/
def Fv.mul (x y : Fv) : Fv :=
  match x, y with
  | .nan, _ => .nan
  | _, .nan => .nan
  | .inf a, .inf b => .inf (a != b)
  | .inf a, .fin b m _ => if m = 0 then .nan else .inf (a != b)
  | .fin a m _, .inf b => if m = 0 then .nan else .inf (a != b)
  | .fin a m e, .fin b m' e' => .fin (a != b) (m * m') (e + e')

/-- Zero times infinity. -/
def Fv.zeroInf (x y : Fv) : Bool := (x.isZero && y.isInf) || (x.isInf && y.isZero)

/-- An exact sum with the zero signs of IEEE 754 in rounding to nearest. -/
def Fv.add (x y : Fv) : Fv :=
  match x, y with
  | .nan, _ => .nan
  | _, .nan => .nan
  | .inf a, .inf b => if a = b then .inf a else .nan
  | .inf a, .fin _ _ _ => .inf a
  | .fin _ _ _, .inf b => .inf b
  | .fin a m e, .fin b m' e' =>
    let z := Dy.add (Fv.dy (.fin a m e)) (Fv.dy (.fin b m' e'))
    if z.n = 0 then .fin (if m = 0 ∧ m' = 0 then a && b else false) 0 0 else z.fv

/-- Infinities of both signs meet. -/
def Fv.infClash (x y : Fv) : Bool :=
  match x, y with | .inf a, .inf b => a != b | _, _ => false

/-- FP32 sum. -/
def fadd (a b : F32) : Fr 32 :=
  let r := (Fv.add (f32 a) (f32 b)).to32
  if (f32 a).infClash (f32 b) then ⟨nan32, flNV⟩ else r

/-- Negated code; of a NaN the canonical NaN (R168). -/
def fneg (a : F32) : F32 := if (f32 a).isNan then nan32 else a ^^^ 0x80000000
def fabs (a : F32) : F32 := if (f32 a).isNan then nan32 else a &&& 0x7FFFFFFF

def fsub (a b : F32) : Fr 32 := fadd a (fneg b)

/-- FP32 product. -/
def fmul (a b : F32) : Fr 32 :=
  if (f32 a).zeroInf (f32 b) then ⟨nan32, flNV⟩ else (Fv.mul (f32 a) (f32 b)).to32

/-- VFMA: product `negP`-negated plus the addend, rounded once; zero times infinity is invalid whatever
the addend (R170). -/
def ffma (negP negC : Bool) (a b c : F32) : Fr 32 :=
  if (f32 a).zeroInf (f32 b) then ⟨nan32, flNV⟩
  else
    let p := Fv.mul (f32 a) (f32 b)
    let p := if negP then p.negate else p
    let z := if negC then (f32 c).negate else f32 c
    if p.infClash z then ⟨nan32, flNV⟩ else (Fv.add p z).to32

/-- FP32 quotient, correctly rounded. -/
def fdiv (a b : F32) : Fr 32 :=
  match f32 a, f32 b with
  | .nan, _ => ⟨nan32, 0⟩
  | _, .nan => ⟨nan32, 0⟩
  | .inf _, .inf _ => ⟨nan32, flNV⟩
  | .inf x, .fin y _ _ => ⟨inf32 (x != y), 0⟩
  | .fin x _ _, .inf y => ⟨zero32 (x != y), 0⟩
  | .fin x m e, .fin y m' e' =>
    if m' = 0 then (if m = 0 then ⟨nan32, flNV⟩ else ⟨inf32 (x != y), flDZ⟩)
    else if m = 0 then ⟨zero32 (x != y), 0⟩
    else
      let q := m * 2 ^ 64 / m'
      let st := natOf (decide (m * 2 ^ 64 % m' ≠ 0))
      round32 (x != y) (2 * q + st) (e - e' - 65)

/-- Integer square root of `n`, by its bits from `i − 1` down. -/
def isqrtFrom (n : Nat) : Nat → Nat → Nat
  | 0, r => r
  | i + 1, r =>
    let t := r + 2 ^ i
    isqrtFrom n i (if t * t ≤ n then t else r)

/-- Integer square root. -/
def isqrt (n : Nat) : Nat := isqrtFrom n (Nat.log2 n / 2 + 1) 0

/-- FP32 square root, correctly rounded. -/
def fsqrt (a : F32) : Fr 32 :=
  match f32 a with
  | .nan => ⟨nan32, 0⟩
  | .inf n => if n then ⟨nan32, flNV⟩ else ⟨inf32 false, 0⟩
  | .fin n m e =>
    if m = 0 then ⟨zero32 n, 0⟩
    else if n then ⟨nan32, flNV⟩
    else
      let odd := e % 2 ≠ 0
      let m' := (if odd then 2 * m else m) * 2 ^ 64
      let e' : Int := (if odd then e - 1 else e) - 64
      let r := isqrt m'
      round32 false (2 * r + natOf (decide (r * r ≠ m'))) (e' / 2 - 1)

/-- a < b on finite or infinite values, −0 equal to +0. -/
def Fv.lt (x y : Fv) : Bool :=
  match x, y with
  | .nan, _ => false
  | _, .nan => false
  | .inf a, .inf b => a && !b
  | .inf a, .fin _ _ _ => a
  | .fin _ _ _, .inf b => !b
  | .fin a m e, .fin b m' e' => !(Dy.le (Fv.dy (.fin b m' e')) (Fv.dy (.fin a m e)))

/-- a = b as numbers. -/
def Fv.eq (x y : Fv) : Bool := !x.isNan && !y.isNan && !x.lt y && !y.lt x

/-- VMIN and VMAX (R171): −0 below +0, one NaN gives the other operand. -/
def fmin (a b : F32) : F32 :=
  if (f32 a).isNan && (f32 b).isNan then nan32
  else if (f32 a).isNan then b
  else if (f32 b).isNan then a
  else if (f32 a).lt (f32 b) then a
  else if (f32 b).lt (f32 a) then b
  else if (f32 a).isNeg then a else b

def fmax (a b : F32) : F32 :=
  if (f32 a).isNan && (f32 b).isNan then nan32
  else if (f32 a).isNan then b
  else if (f32 b).isNan then a
  else if (f32 a).lt (f32 b) then b
  else if (f32 b).lt (f32 a) then a
  else if (f32 a).isNeg then b else a

/-- A comparison's lane (R140). -/
def mask32 (b : Bool) : BitVec 32 := if b then 0xFFFFFFFF else 0

/-- VCMPEQ, VCMPLT, VCMPLE (R171). -/
def fcmpeq (a b : F32) : Fr 32 := ⟨mask32 ((f32 a).eq (f32 b)), 0⟩
def cmpNv (a b : F32) : BitVec 5 := if (f32 a).isNan || (f32 b).isNan then flNV else 0
def fcmplt (a b : F32) : Fr 32 := ⟨mask32 ((f32 a).lt (f32 b)), cmpNv a b⟩
def fcmple (a b : F32) : Fr 32 :=
  ⟨mask32 ((f32 a).lt (f32 b) || (f32 a).eq (f32 b)), cmpNv a b⟩

/-! ## Approximate functions (R172) -/

/-- One ulp at a finite FP32 code, as a dyadic. -/
def ulp32 (a : F32) : Dy :=
  let e := (a.toNat / 2 ^ 23) % 256
  ⟨1, Fmt.fp32.emin + ((max e 1 : Nat) : Int) - 1⟩

/-- 2^(2^−i) in fixed point with 160 fraction bits, for i = 1 to n, first first. -/
def expRoots : Nat → Nat → List Nat
  | 0, _ => []
  | n + 1, x => let r := isqrt (x * 2 ^ 160); r :: expRoots n r

/-- 2^f for a fraction of 56 bits, in fixed point with 160 fraction bits. -/
def exp2Frac (f : Nat) : Nat :=
  ((expRoots 56 (2 ^ 161)).zipIdx).foldl
    (fun acc x => if bitOf f (55 - x.2) then acc * x.1 / 2 ^ 160 else acc) (2 ^ 160)

/-- The fraction bits of log2 y for y in [1, 2) in fixed point with 256 fraction bits, n of them. -/
def log2Bits : Nat → Nat → Nat → Nat
  | 0, _, acc => acc
  | n + 1, y, acc =>
    let y2 := y * y / 2 ^ 256
    if 2 ^ 257 ≤ y2 then log2Bits n (y2 / 2) (2 * acc + 1) else log2Bits n y2 (2 * acc)

/-- log2 (m × 2^e), m > 0, with 100 fraction bits. -/
def log2Dy (m : Nat) (e : Int) : Dy :=
  let l := Nat.log2 m
  ⟨((l : Int) + e) * 2 ^ 100 + log2Bits 100 (m * 2 ^ (256 - l)) 0, -100⟩

/-- 2^x for a finite x of magnitude 2^−30 to 2^9, as a dyadic with 160 fraction bits. -/
def exp2Dy (x : Dy) : Dy :=
  let fx := x.at (-56)
  ⟨exp2Frac (fx % 2 ^ 56).toNat, fx / 2 ^ 56 - 160⟩

/-- 2^x for a magnitude of at most 2^−30: 1 + x ln 2, whose error lies below x². -/
def exp2Tiny (x : Dy) : Dy := Dy.add ⟨1, 0⟩ (Dy.mul x ⟨0xB17217F7D1CF79AB, -64⟩)

/-- The result delivered: the implementation's where it is finite and `good` accepts it, else the
correctly rounded one. -/
def pick (cand rn : F32) (good : F32 → Bool) : F32 :=
  match f32 cand with
  | .fin _ _ _ => if good cand then cand else rn
  | _ => rn

/-- An accuracy of `k` ulps of the correctly rounded result against an approximation of the exact
value. -/
def within (k : Nat) (rn : F32) (exact : Dy) (cand : F32) : Bool :=
  Dy.le (Dy.abs (Dy.add (f32 cand).dy exact.neg)) (Dy.mul ⟨k, 0⟩ (ulp32 rn))

/-- VRCP. `cand` is what the implementation computes. -/
def frcp (cand a : F32) : Fr 32 :=
  match f32 a with
  | .nan => ⟨nan32, 0⟩
  | .inf n => ⟨zero32 n, 0⟩
  | .fin n m e =>
    if m = 0 then ⟨inf32 n, flDZ⟩
    else
      let rn := (fdiv 0x3F800000 a).bits
      let x := Fv.dy (.fin n m e)
      let good := fun c => Dy.le (Dy.abs (Dy.add (Dy.mul (f32 c).dy x) ⟨-1, 0⟩)) (Dy.mul (ulp32 rn) x.abs)
      let r := if (f32 rn).isInf then rn else pick cand rn good
      ⟨r, if (Dy.add (Dy.mul (f32 r).dy x) ⟨-1, 0⟩).n = 0 then 0 else flNX⟩

/-- VRSQRT. -/
def frsqrt (cand a : F32) : Fr 32 :=
  match f32 a with
  | .nan => ⟨nan32, 0⟩
  | .inf n => if n then ⟨nan32, flNV⟩ else ⟨zero32 false, 0⟩
  | .fin n m e =>
    if m = 0 then ⟨inf32 n, flDZ⟩
    else if n then ⟨nan32, flNV⟩
    else
      let odd := e % 2 ≠ 0
      let m' := if odd then 2 * m else m
      let e' : Int := if odd then e - 1 else e
      let r := isqrt (2 ^ 160 / m')
      let rn := (round32 false (2 * r + natOf (decide (m' * (r * r) ≠ 2 ^ 160))) (- (e' / 2) - 81)).bits
      let x : Dy := ⟨m, e⟩
      let sq := fun (y : Dy) => Dy.mul (Dy.mul y y) x
      let one : Dy := ⟨1, 0⟩
      let good := fun c =>
        let v := (f32 c).dy
        let lo := Dy.add v (ulp32 rn).neg
        (decide (lo.n ≤ 0) || Dy.le (sq lo) one) && Dy.le one (sq (Dy.add v (ulp32 rn))) && decide (0 < v.n)
      let c := pick cand rn good
      ⟨c, if (Dy.add (sq (f32 c).dy) ⟨-1, 0⟩).n = 0 then 0 else flNX⟩

/-- VEXP2. A result above the largest finite gives +inf and OF. Below −512 the exact value stands between 0 and every
FP32 number, and is compared as 2^−1000. -/
def fexp2 (cand a : F32) : Fr 32 :=
  match f32 a with
  | .nan => ⟨nan32, 0⟩
  | .inf n => ⟨if n then zero32 false else inf32 false, 0⟩
  | .fin n m e =>
    if m = 0 then ⟨0x3F800000, 0⟩
    else
      let x := Fv.dy (.fin n m e)
      let big := !(Dy.le x.abs ⟨512, 0⟩)
      if big then (if n then ⟨pick cand 0 (within 2 0 ⟨1, -1000⟩), flNX⟩ else ⟨inf32 false, flOF ||| flNX⟩)
      else
        let small := Dy.le x.abs ⟨1, -30⟩
        let y : Dy := if small then exp2Tiny x else exp2Dy x
        let r := round32 false y.n.natAbs y.e
        if (f32 r.bits).isInf then ⟨inf32 false, flOF ||| flNX⟩
        else
          let c := pick cand r.bits (within 2 r.bits y)
          let exact := decide (x.at (min x.e 0) % 2 ^ (0 - min x.e 0).toNat = 0) &&
            decide ((Dy.add (f32 c).dy y.neg).n = 0)
          ⟨c, if exact then 0 else flNX⟩

/-- VLOG2. -/
def flog2 (cand a : F32) : Fr 32 :=
  match f32 a with
  | .nan => ⟨nan32, 0⟩
  | .inf n => if n then ⟨nan32, flNV⟩ else ⟨inf32 false, 0⟩
  | .fin n m e =>
    if m = 0 then ⟨inf32 true, flDZ⟩
    else if n then ⟨nan32, flNV⟩
    else if a = 0x3F800000 then ⟨0, 0⟩
    else
      let y := log2Dy m e
      let rn := (round32 (decide (y.n < 0)) y.n.natAbs y.e).bits
      let near := Dy.le ⟨1, -1⟩ ⟨m, e⟩ && Dy.le ⟨m, e⟩ ⟨2, 0⟩
      let good := fun c =>
        if near then Dy.le (Dy.abs (Dy.add (f32 c).dy y.neg)) ⟨1, -22⟩ else within 2 rn y c
      let c := pick cand rn good
      let pow2 := decide (m = 2 ^ Nat.log2 m)
      ⟨c, if pow2 && decide ((Dy.add (f32 c).dy y.neg).n = 0) then 0 else flNX⟩

/-! ## Conversions (R142, R143, R173 to R176) -/

/-- Signed int32 to FP32. -/
def cvtIF (a : BitVec 32) : Fr 32 :=
  let r := round32 (decide (a.toInt < 0)) a.toInt.natAbs 0
  ⟨if a = 0 then 0 else r.bits, r.flags⟩

/-- FP32 to signed int32, toward zero, saturating. -/
def cvtFI (a : F32) : Fr 32 :=
  match f32 a with
  | .nan => ⟨0, flNV⟩
  | .inf n => ⟨if n then 0x80000000 else 0x7FFFFFFF, flNV⟩
  | .fin n m e =>
    let q := quantize .zero m e 0
    if n then (if 2 ^ 31 < q.1 then ⟨0x80000000, flNV⟩ else ⟨BitVec.ofInt 32 (-(q.1 : Int)), if q.2 then flNX else 0⟩)
    else if 2 ^ 31 ≤ q.1 then ⟨0x7FFFFFFF, flNV⟩ else ⟨BitVec.ofNat 32 q.1, if q.2 then flNX else 0⟩

/-- The format of a VCVT code 0 to 5. -/
def Fmt.ofCode : Nat → Fmt
  | 0 => .fp32 | 1 => .bf16 | 2 => .fp16 | 3 => .e4m3 | 4 => .e5m2 | _ => .e2m1

/-- Width in bits of the elements of a VCVT code. -/
def codeBits : Nat → Nat
  | 0 => 32 | 1 => 16 | 2 => 16 | 3 => 8 | 4 => 8 | 5 => 4 | 6 => 8 | _ => 4

/-- The codes that apply the scale X. -/
def scaled (code : Nat) : Bool := code = 3 || code = 4 || code = 5

/-- A narrowing conversion of one lane (R173): destination code 1 to 7, scale byte X. -/
def narrow (code : Nat) (x : Nat) (r : Round) (v : F32) : Nat × BitVec 5 :=
  if 6 ≤ code then
    let lo : Nat := if code = 6 then 128 else 8
    match f32 v with
    | .nan => (0, flNV)
    | .inf n => (if n then lo else lo - 1, flNV)
    | .fin n m e =>
      let q := quantize r m e 0
      if n then (if lo < q.1 then (lo, flNV) else ((2 * lo - q.1) % (2 * lo), if q.2 then flNX else 0))
      else if lo ≤ q.1 then (lo - 1, flNV) else (q.1, if q.2 then flNX else 0)
  else
    let f := Fmt.ofCode code
    if scaled code && x = 255 then (f.nan, flNV)
    else match f32 v with
      | .nan => (f.nan, if code = 5 then flNV else 0)
      | .inf n =>
        if code = 3 then (f.nan, flNV)
        else if code = 5 then (f.signed n f.top, flNV)
        else (f.signed n (f.inf.getD f.top), 0)
      | .fin n m e =>
        let e' : Int := if scaled code then e + 127 - x else e
        let q := f.round r m e'
        if f.top < q.mag then
          let sat := scaled code || (match r with | .zero => true | _ => false)
          (f.signed n (if sat then f.top else f.inf.getD f.top), flOF ||| flNX)
        else (f.signed n q.mag, q.flags)

/-- A widening conversion of one element (R174): source code 1 to 7. -/
def widen (code : Nat) (x : Nat) (v : Nat) : Fr 32 :=
  if 6 ≤ code then
    let w := codeBits code
    let i : Int := if bitOf v (w - 1) then (v : Int) - 2 ^ w else v
    let r := round32 (decide (i < 0)) i.natAbs 0
    ⟨r.bits, 0⟩
  else if scaled code then
    if x = 255 then ⟨nan32, flNV⟩
    else match (Fmt.ofCode code).decode v with
      | .fin n m e => round32 n m (e + x - 127)
      | z => z.to32
  else ((Fmt.ofCode code).decode v).to32

/-- One advance of a generator (R175). -/
def rngNext (x : DWord) : DWord := x * 0x5851F42D4C957F2D + 0x14057B7EF767814F

/-- The draw of a generator state (R175): bits [63:40]. -/
def rngDraw (x : DWord) : Nat := (x.extractLsb' 40 24).toNat

end Sys2Proof.Machine
end

