-- ==== Sys2Proof/Machine/State.lean ====
section
/-! DEFINITION. The state of the module: every register, counter, queue, table, mode and pin the
spec names, as plain data, with the queue of waiting commands; the reasons a step can stop; and the
state after reset. A structure's field defaults are its reset values, so `{}` of a substate is that
substate right after a module reset. Where a reset value is not the spec's, the assumption log names
it (INVENTORY.md, State). -/

namespace Sys2Proof.Machine

/-! ## Voted words -/

/-- A TV word: three copies read by majority (R17, R417, R506).
(DEDUCED, assumption 73.) -/
structure Tv (α : Type) where
  a : α
  b : α
  c : α
  deriving DecidableEq, Repr

/-! ## Extents and regions (chapters 1 and 10) -/

/-- Kinds of extent (R25). -/
inductive ExtKind where
  | pinnedNear | pinnedDeep | tiered
  deriving DecidableEq, Repr

/-- States of an extent (R300). -/
inductive ExtState where
  | owned | revoking | wiping | unassigned
  deriving DecidableEq, Repr

/-- The voted word of an extent: owner slot, kind and state (R417). -/
structure ExtWord where
  owner : Option (BitVec 8)
  kind  : ExtKind
  state : ExtState
  deriving DecidableEq, Repr

/-- A grant on a shared region (R296, R301): the grantee's GPID and its rights. -/
structure Grant where
  gpid    : Word
  read    : Bool
  publish : Bool
  deriving DecidableEq, Repr

/-- State of a version slot (R306). -/
inductive VSlotState where
  | free | writing | held
  deriving DecidableEq, Repr

/-- A version slot of a shared region (R306): its state, the version it holds, that version's
blocks, its reader count, and whether it was ever used (R307). For PEER publishes and readers, the
SRC DID and GPID that hold it (R339). -/
structure VSlot where
  state   : VSlotState := .free
  version : Word := 0
  blocks  : Nat := 0
  readers : Nat := 0
  used    : Bool := false
  writer  : Option (Nat × Word) := none
  remote  : List (Nat × Nat) := []
  deriving DecidableEq, Repr

/-- A publish whose last block has landed: a descriptor's, or a peer's COMMIT with its version slot (R307). -/
inductive Landed where
  | desc (d : Nat)
  | peer (p : Packet) (k : Nat)
  deriving DecidableEq, Repr

/-- An extent (R25, R300 to R306). `revokedAt` is the revocation point of OWNER and DESTROY,
`grantRevoked` the grants that a revocation ended, with their points; `revokeDesc` the EXTENT_REVOKE that waits for the drain,
`grantWaits` those of GRANT; `wipeDesc` the EXTENT_WIPE that waits for its wipe; `setOwnerWaits` the
SET_OWNER commands held until the wipe ends. `landed` are the publishes that commit
at the end of this count (R307); `wipeRun` is the count at which its wipe began to run; `wipeHold` marks a region whose wipe waits (R302); `runs`
are the tract locations of its tier that it draws, in tract order: first location and length (R22, R26).
(DESIGN CHOICE, assumption 111.) -/
structure Extent where
  word          : Tv ExtWord
  units         : Nat
  vslots        : Nat := 0
  current       : Word := 0
  slots         : List VSlot := []
  grants        : List Grant := []
  revokedAt     : Option Nat := none
  grantRevoked  : List (Grant × Nat) := []
  destroying    : Bool := false
  revokeDesc    : Option Nat := none
  grantWaits    : List (Nat × Word) := []
  wipeDesc      : Option Nat := none
  wipeStart     : Nat := 0
  setOwnerWaits : List (Nat × BitVec 8) := []
  readOnly      : Bool := false
  wipeRun       : Option Nat := none
  landed        : List Landed := []
  wipeHold      : Bool := false
  runs          : List (Nat × Nat) := []
  deriving DecidableEq, Repr

/-- Whose write is held or whose access waits (R36): a descriptor by its GO, a block request by its core and
order, a PEER request by its source DID and TXID, a load or save of a program by its launch-table entry. -/
inductive Who where
  | desc (go : Nat)
  | block (core order : Nat)
  | peer (src txid : Nat)
  | program (k : Nat)
  deriving DecidableEq, Repr

/-- A read of a tract that is spilled (R421): none under way; asked for, of `n` blocks from `lo`, by a requester; on its
way from the peer, by the TXIDs still out; come. -/
inductive SpillRead where
  | idle
  | ask (who : Who) (lo n : Nat)
  | out (who : Who) (txids : List (BitVec 32))
  | got
  deriving DecidableEq, Repr

/-- States of a tract of a TIERED extent (R36). -/
inductive TractState where
  | deep | promoting | near | evicting | nearHomed
  deriving DecidableEq, Repr

/-- The placement machine of a tract (R36, R37): state, dirty bits of its 512 blocks, promotion
pending, the descriptors that joined a copy or a write-back, the window position whose reservation
the near tract draws on, the regulation period its reads were counted in and those reads (R40), last access,
whether the tract-map entry is cached or being fetched, when it came, and the near location (R41), whether a reclaim move
is under way (R420), the spill target, the tract of its extent and
the read of it (R421), and the count at which its copy, write-back or move began (R303). -/
structure Tract where
  state     : TractState := .deep
  dirty     : BitVec 512 := 0
  pending   : Bool := false
  promoters : List Nat := []
  evicters  : List Nat := []
  window    : Option Nat := none
  reads     : Nat := 0
  period    : Nat := 0
  access    : Nat := 0
  near      : Option Nat := none
  cached    : Bool := false
  fetching  : Bool := false
  fetched   : Nat := 0
  moving    : Bool := false
  spilled   : Option Nat := none
  spillAt   : Nat := 0
  peer      : SpillRead := .idle
  began     : Nat := 0
  deriving DecidableEq, Repr

/-- One entry of a window program (R42). -/
structure WinEntry where
  source : Option (BitVec 8)
  handle : Word
  first  : Nat
  count  : Nat
  deriving DecidableEq, Repr

/-- Modes of a window program (R43). -/
inductive WinMode where
  | once | cycle | bounce
  deriving DecidableEq, Repr

/-- An installed layer window (R42 to R50): owner and class, the program, K, the next position to be
released, the number of positions requested, the number whose promotion has ended, whether the next one
is being promoted, the recorded SOURCE_GATE targets by position (R266), held releases with their
descriptors (R48), the tracts reserved,
and whether the next position waits for pins (R46). -/
structure LayerWindow where
  party     : BitVec 8
  cls       : BitVec 6
  entries   : List WinEntry
  depth     : Nat
  mode      : WinMode
  arrival   : Option (BitVec 8)
  released  : Nat := 0
  requested : Nat := 0
  done      : Nat := 0
  promoting : Bool := false
  targets   : List (Nat × Word) := []
  held      : List (Nat × Nat) := []
  reserved  : Nat := 0
  pinWait   : Bool := false
  pinLogged : Option Nat := none
  deriving DecidableEq, Repr

/-- Stall counters of one window and cause (R52). -/
structure StallCount where
  events : Word := 0
  counts : BitVec 48 := 0
  deriving DecidableEq, Repr

/-- A stall in progress (R52): the awaited tract's key, the window, the cause, the start count, and the earliest
effective deadline among the reads that wait (R283). -/
structure Stall where
  tract  : Nat
  window : Nat
  cause  : Nat
  start  : Nat
  urgent : Option Nat := none
  deriving DecidableEq, Repr

/-- A held write (R36): its source by R283 (ports and units as `Src` numbers them), whose it is and its tract. -/
structure HeldWrite where
  src : Nat
  who : Who
  key : Nat
  deriving DecidableEq, Repr

/-- A block of a BPUT whose pod has been reset and that waits for its tract (R36, R414): extent block, word, bytes. -/
structure HeldPut where
  handle : Word
  blk    : Nat
  word   : Word
  bytes  : Bytes
  deriving DecidableEq, Repr

/-- The placement engine and its TIER registers (R27, R31, R39 to R55). `line` holds the writes held by R36, oldest
first, `puts` those of block requests whose pod has been reset. -/
structure Placement where
  nearUsable : Nat := 491520
  deepUsable : Nat := 2752512
  tracts     : Table Tract := []
  pins       : Table Nat := []
  pinLimit   : Table Nat := []
  windows    : Table LayerWindow := []
  stallCount : Table StallCount := []
  stalls     : List Stall := []
  line       : List HeldWrite := []
  puts       : List HeldPut := []
  pressure   : Bool := false
  lowPm      : BitVec 10 := 10
  highPm     : BitVec 10 := 20
  hotThresh  : BitVec 16 := 0
  partySel   : BitVec 8 := 0
  stallCause : BitVec 3 := 0
  stallWin   : BitVec 6 := 0
  tmapMisses : Word := 0
  spillOut   : List Nat := []
  deriving DecidableEq, Repr

/-! ## Table store, banks and encoders (chapters 2 and 3) -/

/-- A table id that is not FREE (R76, R78, R83): LOADED while it holds its load reference, DRAINING
afterwards; owner, the 128-byte code-length list, husk reference count and queued count. -/
structure TableEnt where
  owner   : BitVec 8
  list    : Bytes
  loadRef : Bool
  refs    : Nat := 0
  queued  : Nat := 0
  deriving DecidableEq, Repr

/-- A histogram context (R86, R118): its owner, its 256 counters of 48 bits, and the counts held
aside for blocks of ENCODEs accepted after a waiting BUILD. -/
structure Hctx where
  owner  : Option (BitVec 8) := none
  counts : Table Nat := []
  aside  : Table Nat := []
  asideBy : Option (BitVec 8) := none
  deriving DecidableEq, Repr

/-- A block that waits for an encoder engine or is in one (R115): the descriptor or core request it
belongs to, its index within it, its plain bytes, the destination (an extent block or a pod
position), the table, element format and histogram context, and its acceptance order (R118). -/
structure EncJob where
  desc    : Option Nat
  core    : Option Nat
  index   : Nat
  bytes   : Bytes
  toPod   : Bool
  dst     : Nat
  tableId : BitVec 16
  elem    : BitVec 4
  hctx    : Option (BitVec 8)
  order   : Nat
  deriving DecidableEq, Repr

/-- The canonical code of a list: count, first and sym by length, 0 to 12. -/
structure Canon where
  count : List Nat
  first : List Nat
  syms  : List (List Nat)
  deriving DecidableEq, Repr

/-- What reading a block gives: its plain bytes, or why there are none (R90, R70). -/
inductive BlkRead where
  | bytes (b : Bytes)
  | poisoned
  | invalid
  deriving DecidableEq, Repr

/-- Phase of a block at a decode bank (R95, R102, R105). -/
inductive BankPhase where
  | queued | checked | stopped (code : Nat)
  deriving DecidableEq, Repr

/-- A block queued at a bank (R102, R107): the core it is for (pod banks) or the DECODE (egress), the address of its
position or the block's index; at an egress bank that expands for another request, that request and the block's
key; its metadata word as read when queued, the sectors in its husk buffer once checked (R95), and whether it was
read once more after a CRC failure (R91). -/
structure BankBlock where
  owner : Nat
  addr  : Nat
  word  : Word
  phase : BankPhase := .queued
  retried : Bool := false
  reader : Option Who := none
  data  : Bytes := []
  deriving DecidableEq, Repr

/-- A table slot of a bank or an engine (R106): the id, whether its fill is in progress, its last use, and once
filled the list with its arrays and CRC. -/
structure BankSlot where
  id      : BitVec 16
  filling : Bool
  used    : Nat
  list    : Bytes := []
  arrays  : Canon := ⟨[], [], []⟩
  crc     : Nat := 0
  deriving DecidableEq, Repr

/-- A block that an egress bank has delivered to a request (R112): the request, the block's key, what it gave. -/
structure Expanded where
  reader : Who
  key    : Nat
  read   : BlkRead
  deriving DecidableEq, Repr

/-- A decode bank (R95 to R108, R119). After reset core 0's turn is first.
(DESIGN CHOICE, assumption 126.) -/
structure Bank where
  slots  : List BankSlot := []
  queue  : List BankBlock := []
  clock  : Nat := 0
  lastCore : Nat := 3
  husks  : Word := 0
  raws   : Word := 0
  misses : Word := 0
  deriving DecidableEq, Repr

/-- Stage of the recovery of a damaged block (R89); `scrub` is a rebuild that scrub began (R397). -/
inductive CrcStage where
  | reread | rebuild | scrub
  deriving DecidableEq, Repr

/-- The table store, the coding units and the COMP registers (R76 to R93, R106 to R120). `expanded` are the blocks
that egress banks have delivered to requests still waiting for others, `taker` the request that takes them up,
`named` the ids that requests without a descriptor have named (R78); `engSlots` and `engBuild` are the engines' table
slots and the BUILDs that occupy one. -/
structure Comp where
  tables    : Table TableEnt := []
  hctx      : Table Hctx := []
  banks     : Table Bank := []
  encQueue  : List EncJob := []
  engines   : Table (List EncJob) := []
  engSlots  : Table (List BankSlot) := []
  engBuild  : Table Nat := []
  expanded  : List Expanded := []
  taker     : Option Who := none
  named     : List (Who × BitVec 16) := []
  recovering : List (Nat × CrcStage) := []
  tableSel  : BitVec 16 := 0
  hctxSel   : BitVec 8 := 0
  bankEgress : Bool := false
  bankSel   : BitVec 8 := 0
  coreSel   : BitVec 10 := 0
  crcFail   : Word := 0
  rereadOk  : Word := 0
  rebuildOk : Word := 0
  poisonCnt : Word := 0
  invalidCnt : Word := 0
  rawEsc    : Word := 0
  huskWr    : Word := 0
  deriving DecidableEq, Repr

/-! ## Pods and cores (chapters 4 and 6) -/

/-- A segment (R125): kind code, base, limit, and for EXT the extent handle. -/
structure Segment where
  kind   : BitVec 2 := 0
  base   : BitVec 48 := 0
  limit  : BitVec 48 := 0
  handle : Word := 0
  deriving DecidableEq, Repr

/-- An open stream (R123, R150): pod-store address of the next block to queue, blocks not yet queued,
bytes the stream still has, and the byte position of the next byte within the stream. -/
structure Stream where
  next   : Nat
  blocks : Nat
  left   : Nat
  pos    : Nat
  deriving DecidableEq, Repr

/-- Kinds of block request (R153). -/
inductive BlkKind where
  | get | put | pute
  deriving DecidableEq, Repr

/-- A block request of a core (R153 to R155): pod-store address, extent handle and block, count, the
fields of BPUTE, blocks not yet stored, whether its transfer has run, and the count of its issue (R303). -/
structure BlkReq where
  kind    : BlkKind
  addr    : Nat
  handle  : Word
  blk     : Nat
  count   : Nat
  tableId : BitVec 16
  left    : Nat
  done    : Bool
  pc      : Word
  order   : Nat
  issued  : Nat
  deriving DecidableEq, Repr

/-- Kinds of matrix-unit operation (R147, R148). -/
inductive MatrixKind where
  | mma | tzero | trsc
  deriving DecidableEq, Repr

/-- What of a core an instruction changes for that core alone: registers, PC, flags, generator, INSTRET, and the
stream's bytes left and position (R123, R149). -/
structure CoreRegs where
  s       : Table DWord := []
  v       : Table (BitVec 512) := []
  t       : Table (BitVec 8192) := []
  pc      : Word := 0
  fflags  : BitVec 5 := 0
  rng     : DWord := 0
  instret : DWord := 0
  left    : Nat := 0
  pos     : Nat := 0
  deriving DecidableEq, Repr

/-- An operation in the matrix unit (R147): its tile, the register operands sampled at issue (A and
B in memory order, vs), the scratch address for AM = 1, whether it has started, and, until it has, the core as it was
before a streamed MMA, to which a fault of its tile returns it (R152, R160). -/
structure MatrixOp where
  kind    : MatrixKind
  td      : BitVec 3
  fmt     : BitVec 3
  a       : BitVec 4096
  b       : BitVec 4096
  vs      : BitVec 512
  m       : Bool
  sb      : Bool
  tb      : Bool
  z       : Bool
  aAddr   : Option Nat
  pc      : Word
  started : Bool := false
  before  : CoreRegs := {}
  deriving DecidableEq, Repr

/-- What a core waits for (R150, R155 to R157, R202). -/
inductive CoreWait where
  | none
  | gwaitc (gate : BitVec 8) (value : Word)
  | waitl (count : DWord)
  | pbar (mask : BitVec 8) (k : Nat)
  | bwait (n : Nat)
  | halt
  | stream
  deriving DecidableEq, Repr

/-- A core (R123): registers (absent entries read 0), PC, flags, generator, counters, the stream and
operand buffer (decoded blocks in order, with the bytes already taken of the first), block requests
oldest first, matrix-unit places, what it waits for, whether it runs or has halted, its instruction
buffer lines (most recently used first), GCOMPs per gate of this execution and those already added by
an earlier one (R196), PBARs per mask, GCOMPs that wait for earlier block requests with the order
number each was issued at (R156), and the next order number. `cycle` counts up to the last count's end; `phase` is the
clock of this count that CYCLE last showed. -/
structure Core where
  s        : Table DWord := []
  v        : Table (BitVec 512) := []
  t        : Table (BitVec 8192) := []
  pc       : Word := 0
  fflags   : BitVec 5 := 0
  rng      : DWord := 0
  cycle    : DWord := 0
  phase    : Nat := 0
  instret  : DWord := 0
  dMiss    : DWord := 0
  dBusy    : DWord := 0
  stream   : Option Stream := none
  obuf     : List Bytes := []
  taken    : Nat := 0
  blks     : List BlkReq := []
  mu       : List MatrixOp := []
  wait     : CoreWait := .none
  running  : Bool := false
  halted   : Bool := false
  ibuf     : List Nat := []
  gcomps   : Table Nat := []
  gadded   : Table Nat := []
  pbars    : Table Nat := []
  gwait    : List (BitVec 8 × Nat) := []
  ord      : Nat := 0
  deriving DecidableEq, Repr

/-- State of a pod (R203); `resetting` while a pod reset runs (R414), `out` once it has left service
(R424). -/
inductive PodState where
  | free | loading | running | saving | resetting | out
  deriving DecidableEq, Repr

/-- A pod (R121, R122, R203). `party` is the party of its program or last program; `moving` says that its share waits
for a free pod after a failed self-check (R414). -/
structure Pod where
  state    : PodState := .free
  party    : Option (BitVec 8) := none
  index    : BitVec 7 := 0
  prog     : Option Nat := none
  segs     : Table Segment := []
  preempts : Word := 0
  reexecs  : Word := 0
  switch   : Word := 0
  resets   : Nat := 0
  checkFails : Nat := 0
  moving   : Bool := false
  deriving DecidableEq, Repr

/-- A program fault (R159): code, core number, FAULT_PC and faulting address (or TRAP code). -/
structure ProgFault where
  code : BitVec 8
  core : Nat
  pc   : Word
  addr : DWord
  deriving DecidableEq, Repr

/-- Progress of a program (R191, R198 to R202). -/
inductive ProgState where
  | waiting | loading | running | saving | ending
  deriving DecidableEq, Repr

/-- What a save keeps of one pod beside the bytes of its slot (R201): position words, scratch and
shared bytes, cores and segments. -/
structure PodSave where
  words : Table Word
  bytes : Table Byte
  cores : List Core
  deriving DecidableEq, Repr

/-- A launch-table entry (R189, R191): the descriptor, party and class, the image, the arguments, the
bound segments 1 to 15, the context extent, its pods in ascending pod index, its place in the wait
queue, the end of its quantum and the count its present phase began, its fault, the status of a load
failure (R190), and its saved context; `combine` marks a REDUCE's combine program. -/
structure Program where
  desc      : Nat
  chan      : Nat
  party     : BitVec 8
  cls       : BitVec 6
  pods      : Nat
  image     : Word
  page      : Nat
  codeBytes : Nat
  entry     : Word
  args      : Bytes
  saveScratch : Nat
  saveShared  : Nat
  ctx       : Option (Word × Nat)
  segs      : List Segment
  state     : ProgState := .waiting
  on        : List Nat := []
  eligible  : Nat := 0
  quantum   : Nat := 0
  since     : Nat := 0
  fault     : Option ProgFault := none
  loadFail  : Option (BitVec 16) := none
  saved     : List PodSave := []
  restored  : Bool := false
  combine   : Bool := false
  deriving DecidableEq, Repr

/-- The pods, the scheduler and the POD registers (R186 to R203). `mem` is the pod stores: byte
`pod × 4 MiB + offset`; `words` the position words: key `pod × 1024 + position`, absent = 0x3F. -/
structure Pods where
  pods     : Table Pod := []
  cores    : Table Core := []
  mem      : Table Byte := []
  words    : Table Word := []
  programs : Table Program := []
  queue    : List Nat := []
  quantum  : BitVec 22 := 0x61A8
  podSel   : BitVec 7 := 0
  deriving DecidableEq, Repr

/-! ## Channels and descriptors (chapter 7) -/

/-- States of a channel (R213). -/
inductive ChanState where
  | disabled | running | draining | stopped
  deriving DecidableEq, Repr

/-- A channel (R212 to R225, R244): its CHAN registers, the indexes last read from the doorbell line,
its party, buffers held and asked for (the count of
each ask and the descriptor that asked, none for the journal), and its MSI-X holdoff (R238). `stale` says that the line
was invalidated while it was being read (R218), `leaving` that ENABLE has been applied as 0 and STOPPED may be left
(R213), `waitsLaunch` that its next descriptor is a LAUNCH that found the launch table full (R220). -/
structure Chan where
  state    : ChanState := .disabled
  enable   : Bool := false
  port     : BitVec 2 := 0
  watch    : Bool := false
  sqLog2   : BitVec 5 := 4
  sqBase   : DWord := 0
  cqBase   : DWord := 0
  dbAddr   : DWord := 0
  poll     : BitVec 15 := 25
  pasidEn  : Bool := false
  pasid    : BitVec 20 := 0
  holdoff  : BitVec 16 := 0
  vector   : BitVec 11 := 0
  xmax     : BitVec 12 := 0x800
  xmin     : BitVec 12 := 0
  outMax   : BitVec 16 := 0x100
  sqHead   : Word := 0
  cqTail   : Word := 0
  sqTail   : Word := 0
  cqHead   : Word := 0
  party    : Option (BitVec 8) := none
  held     : Nat := 0
  asks     : List (Nat × Option Nat) := []
  accepted : Word := 0
  xwaits   : Word := 0
  holdEnd  : Option Nat := none
  owed     : Bool := false
  watched  : Bool := false
  reading  : Bool := false
  lastRead : Nat := 0
  stale    : Bool := false
  leaving  : Bool := false
  waitsLaunch : Bool := false
  deriving DecidableEq, Repr

/-- Progress of an accepted descriptor: accepted and not started, handed to its unit (R260), its work
under way, or ended and awaiting its completion entry (R236). -/
inductive DescPhase where
  | accepted | started | working | ended
  deriving DecidableEq, Repr

/-- A descriptor-table entry (R220, R226, R228, R259, R266): channel, ring index, its 64 bytes, the
party and PASID in force, acceptance count and order GO (R464), start count S once known and the
count it became known, the recorded gate target, its progress, the status and details it will
complete with, buffers held, the tracts, encodings and peer answers it still waits for, what these
found, and whether it adds no gate completion (R228). `done` counts blocks or bytes written, `bad`
the first failing one; `aux` and `aux2` are the opcode's own notes (a
version slot, the next block), `data` the bytes of a PEER publish that await its slot. -/
structure Desc where
  chan     : Nat
  index    : Word
  bits     : BitVec 512
  party    : Option (BitVec 8)
  pasid    : Option (BitVec 20)
  accept   : Nat
  go       : Nat
  start    : Option Nat
  known    : Nat
  target   : Word
  phase    : DescPhase := .accepted
  decided  : Bool := false
  status   : BitVec 16 := 0
  d0       : DWord := 0
  d1       : DWord := 0
  noGate   : Bool := false
  bufs     : Nat := 0
  tracts   : List Nat := []
  jobs     : Nat := 0
  peers    : List Word := []
  poisoned : Bool := false
  retained : Bool := false
  done     : Nat := 0
  bad      : Option Nat := none
  refused  : Option DWord := none
  stop     : Option (BitVec 16) := none
  aux      : Nat := 0
  aux2     : Nat := 0
  named    : List (BitVec 16) := []
  cut      : Bool := false
  data     : Bytes := []
  deriving DecidableEq, Repr

/-- What the module has put on a host port, oldest first (R236 to R238, R258): a write of bytes, as a translated request
or an untranslated one (R230), an MSI-X message, a PME message, an answer to a request.
(DESIGN CHOICE, assumption 9.) -/
inductive HostTx where
  | write (port : Nat) (addr : DWord) (pasid : Option (BitVec 20)) (translated : Bool) (bytes : Bytes)
  | msix (port : Nat) (vector : BitVec 11)
  | pme (port : Nat)
  | invCompletion (port : Nat)
  | ur (port : Nat)
  | ca (port : Nat)
  | memData (port : Nat) (spid : Nat) (dpa : BitVec 39) (data : BitVec 512) (poison : Bool)
  | memCmp (port : Nat) (spid : Nat) (dpa : BitVec 39)
  | bisnp (port : Nat) (spid : Nat) (dpa : BitVec 39)
  | dbRead (ch : Nat)
  deriving DecidableEq, Repr

/-- The channels, the descriptor table and the CHAN registers that belong to no channel. `count` is
the number of descriptors accepted in the current count and `turn` the channel whose turn it is with
the descriptors it has taken (R222); `go` the module-wide acceptance count (R464). -/
structure Channels where
  chans  : Table Chan := []
  descs  : Table Desc := []
  next   : Nat := 0
  go     : Nat := 0
  count  : Nat := 0
  countAt : Nat := 0
  turn   : Option (Nat × Nat) := none
  sel    : BitVec 10 := 0
  reject : Bool := false
  hostTx : List HostTx := []
  deriving DecidableEq, Repr

/-! ## Clocks, sleep and gates (chapter 8) -/

/-- Module states (R250). -/
inductive MState where
  | active | idle | doze
  deriving DecidableEq, Repr

/-- A gate (R262 to R265): C, T, OPEN_AT, owner, whether it was open at the end of the last count, and of the current
count the completions added, the local ARMs started (channel, GO, value) and the remote ARMs arrived; `wild` that an ADD
of 2^31 or more was performed (R267). -/
structure Gate where
  c      : Word := 0
  t      : Word := 1
  openAt : DWord := 0
  owner  : Option (BitVec 8) := none
  wasOpen : Bool := false
  adds   : Word := 0
  starts : List (Nat × Nat × Word) := []
  arms   : List Word := []
  wild   : Bool := false
  deriving DecidableEq, Repr

/-- The always-on domain's clock and sleep state (R246 to R253, R270) and the gates (R262, R271). `syncs` counts the
resynchronizations of a pod's local copy of LCNT (R249). -/
structure Clk where
  lcnt      : DWord := 0
  refSel    : Bool := false
  refFault  : Bool := false
  mstate    : MState := .active
  idleDelay : BitVec 16 := 0x00FA
  dozeEn    : Bool := true
  idleEn    : Bool := true
  dozeDelay : BitVec 24 := 0x61A8
  wakeAt    : Word := 0
  wakeCause : BitVec 7 := 0
  wakes     : Word := 0
  idleCounts : Nat := 0
  dozeCounts : Nat := 0
  quietFor  : Nat := 0
  idleFor   : Nat := 0
  waking    : Option Nat := none
  syncs     : Table Nat := []
  gates     : Table Gate := []
  gateSel   : BitVec 8 := 0
  launchLate : Word := 0
  deriving DecidableEq, Repr

/-! ## QOS (chapter 9) -/

/-- A class (R273, R278, R279, R290). -/
structure QClass where
  owned    : Bool := false
  party    : BitVec 8 := 0
  zn       : BitVec 16 := 0
  zd       : BitVec 16 := 0
  host     : BitVec 16 := 0
  fabric   : BitVec 16 := 0
  movers   : BitVec 16 := 0
  issued   : Word := 0
  demoted  : Word := 0
  late     : Word := 0
  demNow   : Bool := false
  demLast  : Bool := false
  deriving DecidableEq, Repr

/-- A regulated resource (R276 to R280): the D taken at the last boundary (none: nominal), G′ by class, outstanding
transactions, guaranteed by class and background by party (256 for none), whether it was scaled, and how far its
rounds have been served since the boundary, in the bus times of a sector (R311). -/
structure Res where
  d     : Option Nat := none
  eff   : Table Nat := []
  guar  : Table Nat := []
  bg    : Table Nat := []
  scaled : Bool := false
  clock : Nat := 0
  deriving DecidableEq, Repr

/-- QOS state (R273 to R291). -/
structure Qos where
  classes  : Table QClass := []
  res      : Table Res := []
  reject   : Bool := false
  classSel : BitVec 6 := 0
  resSel   : BitVec 8 := 0
  t1       : BitVec 16 := 0x0A00
  t2       : BitVec 16 := 0x0280
  t3       : BitVec 16 := 0x00A0
  latSel   : BitVec 5 := 0
  latTarget : Table (BitVec 16) := []
  scaleEvents : Word := 0
  deriving DecidableEq, Repr

/-! ## Tenancy (chapter 10) -/

/-- A bound party slot (R297, R298): its GPID as a voted word and its keys K1 and K2.
(DESIGN CHOICE, assumption 111.) -/
structure Party where
  gpid : Tv Word
  k1   : BitVec 256
  k2   : BitVec 256
  deriving DecidableEq, Repr

/-- Tenancy state and TEN registers (R292 to R315). -/
structure Ten where
  parties  : Table Party := []
  extents  : Table Extent := []
  nextHandle : Nat := 1
  mem      : Table Byte := []
  metas    : Table Word := []
  force    : Bool := false
  isSealed : Bool := false
  sealWaits : List Nat := []
  bootNonce : BitVec 128 := 0
  fmSeq    : DWord := 0
  cmdAccepted : Word := 0
  cmdRejected : Word := 0
  partySel : BitVec 8 := 0
  extSel   : Word := 0
  vconflicts : Word := 0
  revokedReqs : Word := 0
  deriving DecidableEq, Repr

/-! ## Fabric (chapter 11) -/

/-- States of a fabric port (R323); ABSENT is the variant's (R5). -/
inductive PortState where
  | down | training | auth | up | sleep
  deriving DecidableEq, Repr

/-- A partner's hello (R324): part code, its port, UID, nonce, ephemeral key and identity key. -/
structure Hello where
  part  : Byte
  port  : Byte
  uid   : DWord
  nonce : BitVec 128
  eph   : BitVec 256
  idKey : BitVec 256
  bits  : BitVec 1824
  deriving DecidableEq, Repr

/-- A numbered flit as its sender keeps it until it is acknowledged (R318, R320): FSEQ, TYPE, VC, PKT_OFF and
the payload in plaintext. -/
structure Flit where
  seq     : BitVec 12
  type    : Nat
  vc      : Nat
  off     : Nat
  payload : Bytes
  tries   : Nat := 0
  deriving DecidableEq, Repr

/-- A packet that has come whole in a port's buffer (R318): its first and last flit, the count, and the packet. -/
structure RxPkt where
  first : Nat
  last  : Nat
  at_   : Nat
  pkt   : Packet
  deriving DecidableEq, Repr

/-- What a port's buffer holds of a VC (R318, R322): the flits accepted so far, the bytes of the packet under way and its
first flit, whether the stream skips to the next PKT_OFF (R326), the packets not yet consumed, and the flits of packets
that wait to leave. -/
structure RxVc where
  count   : Nat := 0
  part    : Bytes := []
  first   : Nat := 0
  skip    : Bool := false
  pkts    : List RxPkt := []
  passing : List (Nat × Nat) := []
  deriving DecidableEq, Repr

/-- A fabric port (R316 to R327, R351). `rate` is the rate code of R329; `credits` are those held for sending
by VC, `rxFill` those freed and not yet returned to the partner, `rx` the buffer; `own` this end's hello and `ephKey` its ephemeral private
key, `peer` the partner's hello, `certs` the certificates received, `verified` that its chain was accepted;
`txSeq` the next FSEQ to send, `acked` the last one acknowledged, `rxSeq` the next one expected, `nak` that a NAK
is due, `replaying` the ACK of the last replay, `linkWait` LINK payloads that wait for room among the unacknowledged
flits; `trainFrom` the count at which training began; `asked` that a SLEEP_REQ awaits its answer, `waking` when WAKE was sent; `txPos`, `rxPos` the flit
positions P of R319; `backoff` the end of an AUTH or DEGRADED back-off; `violAt` the violations of the last
second, `degrAt` the degradations of the last hour. -/
structure FabPort where
  enable   : Bool := true
  maxSpeed : Bool := false
  allowX2  : Bool := true
  sleepEn  : Bool := true
  state    : PortState := .down
  rate     : Nat := 0
  rtt      : BitVec 16 := 0
  peerUid  : DWord := 0
  own      : Option Hello := none
  peer     : Option Hello := none
  ephKey   : BitVec 256 := 0
  certs    : List Bytes := []
  verified : Bool := false
  txKey    : BitVec 256 := 0
  rxKey    : BitVec 256 := 0
  txPos    : Nat := 0
  rxPos    : Nat := 0
  rxSeq    : BitVec 12 := 0
  txSeq    : BitVec 12 := 0
  acked    : BitVec 12 := 0xFFF
  unacked  : List Flit := []
  nak      : Bool := false
  replaying : Option (BitVec 12) := none
  linkWait : List Bytes := []
  credits  : Table Nat := []
  rxFill   : Table Nat := []
  rx       : Table RxVc := []
  trainFrom : Nat := 0
  asked    : Bool := false
  waking   : Option Nat := none
  backoff  : Option Nat := none
  violAt   : List Nat := []
  degrAt   : List Nat := []
  degraded : Bool := false
  viol     : Word := 0
  replays  : Word := 0
  retrains : Word := 0
  deriving DecidableEq, Repr

/-- A packet that waits for credits (R321, R322, R333): its VC, its port where it has only one (MGMT), the count it
began to wait, for a packet that is passing through the counts already spent here, whether it has just moved to VC 2 and
may still take a minimal port, and the flits it holds of a buffer: port, VC, first and last. -/
structure FabWait where
  vc    : Nat
  port  : Option Nat
  pkt   : Packet
  since : Nat
  spent : Option Nat
  esc   : Bool := false
  held  : Option (Nat × Nat × Nat × Nat) := none
  deriving DecidableEq, Repr

/-- One link of an LSA (R329). -/
structure LsaLink where
  uid   : DWord
  own   : Byte
  port  : Byte
  rate  : Byte
  deriving DecidableEq, Repr

/-- A link-state advertisement (R329) and the count it arrived. -/
structure Lsa where
  uid   : DWord
  did   : Option (BitVec 12)
  part  : Byte
  seq   : DWord
  links : List LsaLink
  stamp : Nat
  deriving DecidableEq, Repr

/-- The routes of one DID (R332): minimal set, UPDOWN next hop and whether it is a down hop, DOWN next
hop. -/
structure Route where
  minimal : List Nat
  updown  : Option (Nat × Bool)
  down    : Option Nat
  deriving DecidableEq, Repr

/-- A slot that a transaction holds at a resource (R280): its class and marking, and the party's slot (256: none). -/
structure SlotMark where
  res   : Nat
  cls   : Nat
  guar  : Bool
  party : Nat
  deriving DecidableEq, Repr

/-- What an outstanding PEER request is for (R340): the descriptor, the block or byte index it
carries, the packet, how often it has been sent (0: it waits for slots, R280), when last, and the slots it holds at the
movers and its port. -/
structure PeerReq where
  desc    : Option Nat
  index   : Nat
  bytes   : Nat
  pkt     : Packet
  sends   : Nat
  last    : Nat
  marks   : List SlotMark := []
  deriving DecidableEq, Repr

/-- A deduplication entry (R341): the response once sent, and when. -/
structure DedupEnt where
  src   : Nat
  txid  : Word
  resp  : Option Packet
  sent  : Nat
  deriving DecidableEq, Repr

/-- A request of another module that is being performed or held (R339): the packet, the count of its last HOLD or, before
one, of its arrival, and the count of its arrival (R303). -/
structure Serving where
  pkt     : Packet
  since   : Nat
  arrived : Nat
  deriving DecidableEq, Repr

/-- A collective group (R343, R345): as configured, the index k of the next REDUCE accepted and the
RED_READY packets kept until theirs. -/
structure Group where
  valid   : Bool := false
  party   : BitVec 8 := 0
  members : BitVec 13 := 0
  rank    : BitVec 12 := 0
  dids    : Table (BitVec 12) := []
  k       : Nat := 0
  ready   : List (Nat × Packet) := []
  deriving DecidableEq, Repr

/-- A REDUCE in progress (R344 to R350): its descriptor, group and k, the body of the successor's RED_READY, the
DST blocks (relative to DST_PAGE) whose WRITE has landed, the blocks summed, the DST blocks of the successor sent,
the ranks whose RED_COUNTS have been added, the counts of its own finished chunk and whether it sent them, and the
last count anything arrived from the predecessor. Its combine program is launch-table entry `desc`. -/
structure Reduce where
  desc    : Nat
  group   : Nat
  k       : Nat
  ready   : Option Bytes
  arrived : List Nat := []
  summed  : List Nat := []
  sent    : List Nat := []
  counted : List Nat := []
  counts  : Table Nat := []
  sentCounts : Bool := false
  heard   : Nat
  deriving DecidableEq, Repr

/-- Fabric state and FAB registers (R316 to R352). `tx` is what the module has sent on each port, oldest
first: (port, VC, packet); `links` the LINK payloads and signals sent, `flits` every flit; `waiting` what waits for
credits, `landing` the answers whose data wait for a tract (R36). `changed` is the count of the database's last change, `released` the DIDs released and when, `assigns` the
DID_ASSIGNs passed on (coordinator, target, DID). -/
structure Fab where
  ports    : Table FabPort := []
  did      : Option (BitVec 12) := none
  lsas     : List Lsa := []
  changed  : Nat := 0
  released : List (BitVec 12 × Nat) := []
  routes   : Table Route := []
  routesValid : Bool := false
  assigns  : List (DWord × DWord × BitVec 12) := []
  tx       : List (Nat × Nat × Packet) := []
  waiting  : List FabWait := []
  links    : List (Nat × BitVec 1824) := []
  flits    : List (Nat × BitVec 2048) := []
  reqs     : Table PeerReq := []
  landing  : List (PeerReq × Packet) := []
  nextTxid : Word := 0
  dedup    : List DedupEnt := []
  serving  : List Serving := []
  groups   : Table Group := []
  reduces  : List Reduce := []
  life     : BitVec 13 := 0x09C4
  e2eWait  : BitVec 18 := 0x30D4
  tries    : BitVec 3 := 4
  escWait  : BitVec 8 := 1
  reduceWait : Word := 0x017D7840
  portSel  : BitVec 4 := 0
  grpSel   : BitVec 10 := 0
  memSel   : BitVec 12 := 0
  resends  : Word := 0
  expired  : Word := 0
  unreach  : Word := 0
  deriving DecidableEq, Repr

/-! ## Host ports and Z7 windows (chapter 12) -/

/-- A host port (R353 to R365, R378). STATE: down, training or up; `kept` says that the link was up when it began to
train again, so that it has not been lost (R214). `masked`, `pend` and `vecAddr` are
the MSI-X mask bits, pending bits and table addresses by vector.
(DESIGN CHOICE, assumption 51.) -/
structure HostPort where
  up        : Bool := false
  training  : Bool := false
  kept      : Bool := false
  d3hot     : Bool := false
  link      : Option HostLink := none
  regsOff   : Bool := false
  maxGen    : BitVec 2 := 0
  cxlEn     : Bool := true
  cxlMax    : Bool := false
  cacheEn   : Bool := true
  memEn     : Bool := false
  cplTo     : BitVec 24 := 0x1312D0
  atsEn     : Bool := false
  atc       : List DWord := []
  hdmEn     : Bool := false
  pmeEn     : Bool := false
  pmeStatus : Bool := false
  wakeOut   : Bool := false
  aspmL1    : Bool := false
  inL1      : Bool := false
  perst     : Bool := false
  msixEn    : Bool := false
  masked    : List Nat := []
  pend      : List Nat := []
  vecAddr   : Table DWord := []
  vecData   : Table Word := []
  severe    : List AerErr := []
  aer       : List (AerErr × Bool) := []
  linkDowns : Word := 0
  urSent    : Word := 0
  caSent    : Word := 0
  protoErr  : Word := 0
  cplTimeouts : Word := 0
  atsInvs   : Word := 0
  deriving DecidableEq, Repr

/-- A Z7 window's registers (R367, R379). -/
structure ZWin where
  en       : Bool := false
  port     : BitVec 2 := 0
  log2     : BitVec 5 := 0x1C
  party    : BitVec 8 := 0
  cls      : BitVec 6 := 0x3F
  base     : BitVec 39 := 0
  handle   : Word := 0
  off      : BitVec 16 := 0
  deriving DecidableEq, Repr

/-- A directory entry (R370): port and DPA of the line, the extent location it was granted from, the
epoch of the grant, exclusive or shared holders (least recently granted first), the holders whose
back-invalidation is due and those whose back-invalidation is outstanding, its order of grant. -/
structure DirEnt where
  port    : Nat
  dpa     : BitVec 39
  handle  : Word
  off     : Nat
  epoch   : Word
  excl    : Bool
  holders : List Nat
  due     : List Nat := []
  snooped : List Nat := []
  order   : Nat
  deriving DecidableEq, Repr

/-- A window request that waits for an acknowledgment (R371, R375); `order` numbers a write (R373). -/
structure ZReq where
  port  : Nat
  spid  : Nat
  dpa   : BitVec 39
  write : Option (BitVec 512)
  excl  : Bool
  epoch : Word
  order : Nat := 0
  deriving DecidableEq, Repr

/-- A host request that waits until the module is ACTIVE (R255): a register write, one of a scratch register (its
number), a request answered UR, one answered CA, an ATS invalidation, a window request answered UR. -/
inductive HostAsk where
  | write (port : Nat) (addr : BitVec 24) (be : BitVec 4) (value : Word)
  | scratch (port : Nat) (n : BitVec 2) (be : BitVec 4) (value : Word)
  | unsupported (port : Nat)
  | abort (port : Nat) (write : Bool)
  | invalidate (port : Nat) (page : DWord) (pages : Nat)
  | window (r : ZReq)
  deriving DecidableEq, Repr

/-- The port a held request came by. -/
def HostAsk.port : HostAsk → Nat
  | .write p _ _ _ => p
  | .scratch p _ _ _ => p
  | .unsupported p => p
  | .abort p _ => p
  | .invalidate p _ _ => p
  | .window r => r.port

/-- Host ports, Z7 windows and the HOST and WIN registers (R353 to R380). `old` are mappings of older
epochs still in use. `asks` are the requests held by R255. `natives` are the open brackets: window,
channel, order number at BEGIN_NATIVE. `grants` numbers the grants and the writes in their order. -/
structure HostSide where
  ports   : Table HostPort := []
  lock    : Tv Bool := ⟨false, false, false⟩
  asks    : List HostAsk := []
  portSel : BitVec 2 := 0
  wins    : Table ZWin := []
  epoch   : Word := 0
  switching : Bool := false
  reject  : Bool := false
  goWait  : Bool := false
  winSel  : BitVec 3 := 0
  dir     : List DirEnt := []
  waits   : List ZReq := []
  old     : List (Word × Table ZWin) := []
  natives : List (Nat × Nat × Nat) := []
  grants  : Nat := 0
  dirOvf  : Word := 0
  bisnps  : Word := 0
  winUr   : Word := 0
  formErr : Word := 0
  deriving DecidableEq, Repr

/-! ## Stack controllers and reliability (chapters 13 and 14) -/

/-- States of a stack (R402); ABSENT is the variant's. -/
inductive StkState where
  | training | ready | selfRefresh | reset | failed
  deriving DecidableEq, Repr

/-- A queued, running or held request of a stack controller, with its arrival order and count, the class that
regulates it and its marking (R278), whether it has started (R387), and whether a controller reset delayed it
(R416). -/
structure StkEnt where
  req     : StackReq
  arrive  : Nat
  count   : Nat
  cls     : Nat
  guar    : Bool
  started : Bool := false
  delayed : Bool := false
  deriving DecidableEq, Repr

/-- A merge-buffer entry (R398). -/
structure MergeEnt where
  slot   : Nat
  sector : Nat
  data   : BitVec 512
  mask   : BitVec 64
  source : Nat
  merged : Nat
  flushing : Bool := false
  deriving DecidableEq, Repr

/-- A stack and its controller (R381 to R402, R405 to R413, R425). `waits` are the requests that wait for a slot or for
room in their queue, oldest first (R280, R281); `mdc` holds the cached metadata
lines, last used first; `retraining`, `fails`, `lost`, `trig` (held triggers) and `trainTemp` are by
pseudo-channel; `postponed` counts postponed refreshes by pseudo-channel and bank; `remap` is the remap table
(slot, spare row) as a voted word; `copies` are the memory path's copies of the merge entries that a reset
cleared; `trainedAt` is when a pseudo-channel's last interval trigger was taken, `acts` the count of its last
activation and the activations in that count, `scrubAt` when scrub last read; `corrected` holds the last write-back of each corrected sector, `corrAt` the corrections of the last
millisecond by pseudo-channel. -/
structure Stack where
  state    : StkState := .training
  temp     : Byte := 0
  hot      : Bool := false
  queues   : Table (List StkEnt) := []
  waits    : List StkEnt := []
  arrivals : Nat := 0
  mdc      : List Nat := []
  merge    : List MergeEnt := []
  copies   : List MergeEnt := []
  mergeWait : List MergeEnt := []
  postponed : Table Nat := []
  retraining : List Nat := []
  trig     : List Nat := []
  fails    : Table Nat := []
  lost     : Tv (BitVec 32) := ⟨0, 0, 0⟩
  remap    : Tv (List (Nat × Nat)) := ⟨[], [], []⟩
  remapping : List Nat := []
  corrected : List (Nat × Nat) := []
  corrAt   : List (Nat × Nat) := []
  heldWrites : List StkEnt := []
  resetAt  : List Nat := []
  resetting : Option Nat := none
  resetCause : Nat := 0
  scrubEn  : Bool := true
  scrubHours : Byte := 0x18
  scrubPos : Nat := 0
  scrubAt  : Nat := 0
  passes   : BitVec 16 := 0
  tempDelta : Byte := 5
  trainTemp : Table Byte := []
  trainedAt : Table Nat := []
  acts     : Table (Nat × Nat) := []
  retrainInt : BitVec 16 := 0x03E8
  mergeHold : BitVec 10 := 0x100
  ceSectors : Word := 0
  ueSectors : Word := 0
  scrubCe  : Word := 0
  scrubUe  : Word := 0
  retrains : Word := 0
  refForced : Word := 0
  mdcMisses : Word := 0
  mergeFlush : Word := 0
  mergeRmw : Word := 0
  mergeWaits : Word := 0
  resets   : Word := 0
  deriving DecidableEq, Repr

/-- A spill target (R421, R425). -/
structure Spill where
  valid  : Bool := false
  party  : BitVec 8 := 0
  did    : BitVec 12 := 0xFFF
  handle : Word := 0
  tracts : BitVec 22 := 0
  used   : BitVec 22 := 0
  deriving DecidableEq, Repr

/-- A rebuild in progress or due (R409, R410): the stack, the lost pseudo-channel or all of it, whether it
has begun (at a regulation boundary) and ended (awaiting the next boundary), the reserve stripes it still
lacks, and the number of the free choice of which extents those stripes hold blocks of (R422), and whether it ended for want of
reserve and waits for more. -/
structure Rebuild where
  stack : Nat
  pc    : Option Nat
  begun : Bool := false
  start : Nat := 0
  ended : Bool := false
  lacks : Nat := 0
  draw  : Nat := 0
  parked : Bool := false
  deriving DecidableEq, Repr

/-- A stripe retirement due or under way (R406): whether it has its reserve stripe, has begun and ended. -/
structure Retire where
  tier   : Tier
  stripe : Nat
  got    : Bool
  begun  : Bool := false
  ended  : Bool := false
  deriving DecidableEq, Repr

/-- A unit that is resetting (R415): kind, instance, start count, cause. -/
structure UnitReset where
  unit  : UnitKind
  inst  : Nat
  start : Nat
  cause : Nat
  deriving DecidableEq, Repr

/-- Stacks, the repair record and the REL registers (R402 to R425). `resNear` and `resDeep` are the reserve
states of TIER_RES (R418), voted words. `voteDone` are the voted words (kind, index)
whose three-way disagreement has been recorded (R506). -/
structure Rel where
  stks     : Table Stack := []
  stkSel   : BitVec 6 := 0
  changed  : Bool := false
  nearRes  : Nat := 0x200000
  deepRes  : Nat := 0x300000
  resNear  : Tv Nat := ⟨0, 0, 0⟩
  resDeep  : Tv Nat := ⟨0, 0, 0⟩
  retiredNear : Tv (List Nat) := ⟨[], [], []⟩
  retiredDeep : Tv (List Nat) := ⟨[], [], []⟩
  rebuilds : List Rebuild := []
  retires  : List Retire := []
  reclaim  : List Tier := []
  gaveUp   : List Tier := []
  unitResets : List UnitReset := []
  ctrlResets : Word := 0
  podResets : Word := 0
  unitResetCnt : Word := 0
  excursions : Word := 0
  excursionMax : BitVec 16 := 0
  voteFix  : Word := 0
  voteFatal : Word := 0
  voteDone : List (Nat × Nat) := []
  migrated : Word := 0
  spillSel : BitVec 4 := 0
  spills   : Table Spill := []
  deriving DecidableEq, Repr

/-! ## Security and life cycle (chapter 15) -/

/-- Life-cycle states as stored (R444); UNREADABLE is a three-way disagreement. -/
inductive LcState where
  | blank | provisioned | field | returned
  deriving DecidableEq, Repr

/-- A firmware slot (R434): the image's bytes (none: empty) and its STAGED mark. -/
structure FwSlot where
  image  : Option Bytes := none
  staged : Bool := false
  deriving DecidableEq, Repr

/-- A firmware kind (R433 to R435): slots A and B, the active one, whether it booted from a slot other
than the first tried, the digest measured, its SVN, and SVN_MIN. -/
structure FwKind where
  a        : FwSlot := {}
  b        : FwSlot := {}
  activeB  : Bool := false
  fallback : Bool := false
  digest   : BitVec 512 := 0
  svn      : Nat := 0
  svnMin   : Nat := 0
  deriving DecidableEq, Repr

/-- Security state and SEC registers (R426 to R447). `deviceSeed` is the fused seed; the life-cycle
state and the FM key (none: not installed) are voted words; `building` holds the nonce and start of the quote being
built, `quote` the quote readable; `resetDue` the cause of a module reset that is to follow (R426: 1 the return from
D3cold, 2 a life-cycle transition). `runBytes` and `runData` are the lengths in force at GO; `activating` the kind that
ACTIVATE brings in and its unit that resets now (R443).
(DESIGN CHOICE, assumption 114.) -/
structure Sec where
  uid       : DWord := 0
  deviceSeed : BitVec 256 := 0
  rootKeys  : List (BitVec 256) := []
  fwKeys    : List (BitVec 256) := []
  rootRevoked : BitVec 4 := 0
  fwRevoked : BitVec 4 := 0
  returnedFuse : Bool := false
  certInt   : Bytes := []
  certDev   : Bytes := []
  fw        : Table FwKind := []
  lc        : Tv LcState := ⟨.blank, .blank, .blank⟩
  fmKey     : Tv (Option (BitVec 256)) := ⟨none, none, none⟩
  acorn     : BitVec 512 := 0
  activated : Bool := false
  lcLock    : Tv Bool := ⟨false, false, false⟩
  fwLock    : Tv Bool := ⟨false, false, false⟩
  dbgLock   : Tv Bool := ⟨false, false, false⟩
  debugOpen : Bool := false
  dropped   : Bool := false
  attReady  : Bool := false
  building  : Option (BitVec 256 × Nat) := none
  quote     : Bytes := []
  cmdBusy   : Bool := false
  cmdPort   : BitVec 2 := 0
  cmdAddr   : DWord := 0
  cmdBytes  : BitVec 9 := 0
  dataAddr  : DWord := 0
  dataBytes : BitVec 24 := 0
  lastOp    : Byte := 0
  cmdStatus : BitVec 16 := 0
  nonce     : BitVec 256 := 0
  outObj    : BitVec 2 := 0
  outWord   : BitVec 7 := 0
  resetDue  : Option Nat := none
  runBytes  : Nat := 0
  runData   : Nat := 0
  activating : Option (Nat × Nat) := none
  deriving DecidableEq, Repr

/-! ## Event recorder and journal (chapter 16) -/

/-- An event record (R449) without its CRC, which is a function of the rest. -/
structure EvRec where
  code : BitVec 16
  sev  : BitVec 3
  unit : BitVec 5
  inst : Byte
  seq  : Word
  secs : Word
  cyc  : BitVec 16
  rep  : BitVec 16
  p0   : Word
  p1   : Word
  p2   : Word
  deriving DecidableEq, Repr

/-- A channel's journal (R462 to R466). `staged` are the units of the page being filled,
`full` the pages that wait to be written, `bufs` the transit buffers that hold both; `newest` is the newest descriptor,
by GO, that the staged page records, with its class, and `classes` are those of the full pages (R465). -/
structure Journal where
  en      : Bool := false
  handle  : Word := 0
  page    : Word := 0
  pages   : Word := 0
  active  : Bool := false
  stopped : Bool := false
  start   : DWord := 0
  pos     : Nat := 0
  wraps   : Word := 0
  waits   : Word := 0
  jseq    : Word := 0
  staged  : Bytes := []
  full    : List Bytes := []
  bufs    : Nat := 0
  newest  : Option (Nat × BitVec 6) := none
  classes : List (BitVec 6) := []
  deriving DecidableEq, Repr

/-- An event as a unit raises it, with its count (R449, R452). -/
structure EvIn where
  now  : Nat
  code : BitVec 16
  sev  : BitVec 3
  unit : BitVec 5
  inst : Nat
  p0   : Nat
  p1   : Nat
  p2   : Nat
  deriving DecidableEq, Repr

/-- The event recorder, the journals and the EVT registers (R448 to R471). `arrived` holds the events of the count, which
enter the queue at its end (R452); `opened` is the open record
with the count it opened; `queue` the closed ones; the two flash areas hold committed records, a
record torn by a power loss with `true` (DAMAGED). `commitAt` are the commits of the last second; `replayGo` the GO
of the next acceptance replayed, `replayBase` the bench start and the recorded count it stands for, `injected` the
recorded faults (channel and JSEQ) injected so far (R469). -/
structure Evt where
  arrived  : List EvIn := []
  opened   : Option (EvRec × Nat) := none
  queue    : List EvRec := []
  fatal    : List (EvRec × Bool) := []
  gen      : List (EvRec × Bool) := []
  seq      : Word := 0
  opSecs   : Word := 0
  checkpoint : Option Word := none
  cycles   : BitVec 16 := 0
  lost     : Word := 0
  filtered : Word := 0
  hold     : Option Nat := none
  minSev   : BitVec 3 := 0
  recSel   : Word := 0
  recState : BitVec 2 := 0
  recData  : BitVec 256 := 0
  reject   : Bool := false
  commitAt : List Nat := []
  jrnSel   : BitVec 10 := 0
  journals : Table Journal := []
  replay   : Bool := false
  replayGo : Nat := 0
  replayBase : Option (Nat × Nat) := none
  diverge  : Word := 0
  injected : List (Nat × Nat) := []
  deriving DecidableEq, Repr

/-! ## Power and sideband (chapter 17) -/

/-- A sideband input (R487 to R491): the filtered level acted on, the present filtered level, the end
of its coalescing time, whether masked, the next examination and its interval, counters, and when it
was last asserted. -/
structure Side where
  level   : Bool := false
  present : Bool := false
  until_  : Option Nat := none
  masked  : Bool := false
  exam    : Nat := 0
  examInt : Nat := 0
  since   : Nat := 0
  events  : Word := 0
  ignored : Word := 0
  deriving DecidableEq, Repr

/-- Start-up phases (R336) and the special states: D3cold or unpowered input, stopped (R486), recovery
(R436). -/
inductive Boot where
  | unpowered | inputWait | stagger | ramp (step tries : Nat) | training | wiping | selfTest
  | tested | ready | d3cold | stopped (cause : Nat) | recovery
  deriving DecidableEq, Repr

/-- Power, throttling, cooling and sideband state with their CLK registers (R472 to R494). `level` is L and
`cause` what sets it; `loop` the power-cap loop's level; `dieLvl`, `stackLvl`, `inletLvl` the demands of the
temperature causes, which fall with hysteresis; `sum` and `samples` the power samples of this period, in units of
0.1 mW; `flowBad` that the last reading was
below the minimum flow and `flowLow` the counts in a row that it was below half of it; `goodAt` when 36 V became good;
`railAt` when the rail step under way began; `inRange` since when the samples lie within 30.0 to 40.0 V; `goneAt` when the
36 V input was last taken away; `flashBad` that Pip's flash can no longer be written (a fault that no command makes). -/
structure Power where
  standby  : Bool := true
  feed12   : Bool := true
  feed36   : Bool := true
  boot     : Boot := .training
  readyAt  : Nat := 0
  goodAt   : Nat := 0
  railAt   : Nat := 0
  inRange  : Option Nat := none
  goneAt   : Option Nat := none
  flashBad : Bool := false
  testFails : Nat := 0
  level    : BitVec 2 := 0
  cause    : BitVec 3 := 0
  loop     : BitVec 2 := 0
  lowPeriods : Nat := 0
  dieLvl   : BitVec 2 := 0
  stackLvl : BitVec 2 := 0
  volts    : BitVec 16 := 0
  amps     : BitVec 16 := 0
  avg      : BitVec 16 := 0
  sum      : Nat := 0
  samples  : Nat := 0
  cap      : BitVec 16 := 0x05DC
  thrLevel : BitVec 2 := 2
  thrPeriods : Word := 0
  tVr      : Byte := 0
  tStack   : Byte := 0
  tDie     : Byte := 0
  flow     : BitVec 16 := 0
  outlet   : Byte := 0
  inlet    : Byte := 0
  inletLvl : BitVec 2 := 0
  flowBad  : Bool := false
  flowLow  : Nat := 0
  alert    : Bool := false
  sides    : Table Side := []
  sbSel    : BitVec 3 := 0
  alertEn  : Bool := false
  alertPort : BitVec 2 := 0
  alertVec : BitVec 11 := 0
  deriving DecidableEq, Repr

/-! ## The register file (chapter 18) -/

/-- A write in a shadow (R18, R499, R500): the block, the register offset, the instance the select
named on arrival, the value, and the bits whose boundary has not come. -/
structure PendWrite where
  block : Nat
  off   : Nat
  inst  : Nat
  value : Word
  mask  : Word
  deriving DecidableEq, Repr

/-- IDENT state and the shadows of every block (R495 to R509). -/
structure Regs where
  scratch : Table (BitVec 16) := []
  dieStep : Byte := 0x10
  boardStep : Byte := 0x02
  acornVer : Byte := 0x01
  shadows : List PendWrite := []
  deriving DecidableEq, Repr

/-! ## Why a step can stop -/

/-- The machine stops with a fault. No command of this hardware does: the spec gives every one of them
an effect (a completion status, a program fault, an answer on a link, or no effect where its event
does not occur). Nobody raises `unreachable`; it keeps the type inhabited. Safe. -/
inductive Fault where
  | unreachable
  deriving DecidableEq, Repr

/-- The model refuses a command. `notModelled` names a row without a meaning (raised by Dispatch only;
safe: nothing is claimed of it). -/
inductive Refusal where
  | notModelled (mnemonic : String)
  deriving DecidableEq, Repr

/-! ## The state -/

/-- The state of one module. `free` numbers the free values taken so far (the model's own field);
`pending` is the queue of commands waiting, first in, first out. -/
structure State where
  variant  : Variant := .t
  place    : Placement := {}
  comp     : Comp := {}
  pods     : Pods := {}
  chan     : Channels := {}
  clk      : Clk := {}
  qos      : Qos := {}
  ten      : Ten := {}
  fab      : Fab := {}
  host     : HostSide := {}
  rel      : Rel := {}
  sec      : Sec := {}
  evt      : Evt := {}
  power    : Power := {}
  regs     : Regs := {}
  free     : Nat := 0
  pending  : List Instr := []
  deriving DecidableEq, Repr

/-- A module of the given part number right after a module reset: every field at its reset value, the
values that differ between part numbers as R21, R53, R425 and R494 give them.
(DESIGN CHOICE, assumption 1.) -/
def State.resetOf (v : Variant) : State :=
  match v with
  | .t => { variant := .t }
  | .s => { variant := .s
            place := { deepUsable := 0 }
            rel := { deepRes := 0 }
            power := { cap := 0x03E8 } }
  | .e => { variant := .e
            place := { nearUsable := 196608, deepUsable := 0 }
            rel := { nearRes := 0x400000, deepRes := 0 }
            power := { cap := 0x0258 } }

/-- The machine right after reset: a ZX9-T (DESIGN CHOICE, assumption 1). -/
def State.reset : State := State.resetOf .t

end Sys2Proof.Machine
end

