-- ==== Sys2Proof/Machine/Flags.lean ====
section
/-! DEFINITION. The exception flags FFLAGS (R182): recording flags, and the FP32 lane operations with the
flags they raise. -/

namespace Sys2Proof.Machine

/-- Lane `i` of a vector register (R123). -/
def lane (v : BitVec 512) (i : Nat) : BitVec 32 := v.extractLsb' (32 * i) 32

/-- The vector register whose lane i is `f i`, lanes `n` − 1 down to 0 (higher lanes 0). -/
def ofLanes (f : Nat → BitVec 32) : Nat → BitVec 512
  | 0 => 0
  | n + 1 => ofLanes f n ||| ((f n).setWidth 512 <<< (32 * n))

/-- Sixteen lanes. -/
def lanes (f : Nat → BitVec 32) : BitVec 512 := ofLanes f 16

/-- The union of the flags of sixteen lanes. -/
def laneFlags (f : Nat → BitVec 5) : BitVec 5 := (List.range 16).foldl (fun a i => a ||| f i) 0

/-- FFLAGS are sticky: flags are only added (R182). -/
def Core.flag (x : Core) (f : BitVec 5) : Core := { x with fflags := x.fflags ||| f }

/-- A lane-wise operation on two vector registers, with its flags. -/
def vzip (f : F32 → F32 → Fr 32) (a b : BitVec 512) : BitVec 512 × BitVec 5 :=
  (lanes (fun i => (f (lane a i) (lane b i)).bits), laneFlags (fun i => (f (lane a i) (lane b i)).flags))

/-- A lane-wise operation on one vector register, with its flags. -/
def vmap (f : F32 → Fr 32) (a : BitVec 512) : BitVec 512 × BitVec 5 :=
  (lanes (fun i => (f (lane a i)).bits), laneFlags (fun i => (f (lane a i)).flags))

/-- A result without flags. -/
def quiet (x : BitVec 32) : Fr 32 := ⟨x, 0⟩

end Sys2Proof.Machine
end

