-- ==== Sys2Proof/Config.lean ====
section
/-! DEFINITION. What an implementation fixes or the spec leaves open: constants without a body, so that
no proof can rest on a value of theirs. Assumption 10 lists where each is used. -/

namespace Sys2Proof.Config

/-- The clock within a count at which CYCLE is read (R158, R162), taken modulo the clocks that are left of it. -/
opaque clockPhase : Nat → BitVec 64

/-- What an approximate function (0 VRCP, 1 VRSQRT, 2 VEXP2, 3 VLOG2) delivers for an input; taken
where it meets the accuracy of R172, else the correctly rounded result is delivered. -/
opaque approx : Nat → BitVec 32 → BitVec 32

/-- A unit's copy of LCNT differs from Pip's (R249): by unit and resynchronization; and whether those that differ are a
count ahead or a count behind, since no two copies differ by more than one (R157). -/
opaque lcntSkew : Nat → Nat → Bool
opaque lcntAhead : Bool

/-- The order in which an unordered sum combines its terms (R144, R185): which two of those left are
added at each step, by free-value number and step. -/
opaque sumOrder : Nat → Nat → Nat × Nat

/-- How an MMA element is summed, by free-value number, element (16 i + j) and step: the two terms added, and the
significand and exponent bits beyond FP32's of their sum's format (R179). -/
opaque sumPlan : Nat → Nat → Nat → (Nat × Nat) × (Nat × Nat)

/-- The status of a descriptor whose host accesses ended with its port's link (R214), by GO. -/
opaque cutStatus : Nat → BitVec 16

/-- A word the spec leaves undefined, by free-value number. -/
opaque freeWord : Nat → BitVec 64

/-- A byte the spec leaves undefined, by free-value number and position: bytes beyond a husk's
sectors (R137), a block that reads POISONED. -/
opaque freeByte : Nat → Nat → BitVec 8

/-- A choice the spec leaves open, by free-value number. -/
opaque freeBool : Nat → Bool

/-- A comparison at a gate after an ADD of 2^31 or more (R267): gate, value compared, LCNT. -/
opaque gateOpen : Nat → Nat → Nat → Bool

/-- The cause that UNIT_RESET records for a reset of ACTIVATE (R415, R443, R461). -/
opaque resetCause : Nat

/-- The word kind VOTE_FATAL records in P0 (R461), by the model's own number of the kind (Vote.lean). -/
opaque voteWord : Nat → BitVec 32

/-- An extent holds a block of a stripe of a lost part that could not be rebuilt (R422): by rebuild and handle. -/
opaque strandedIn : Nat → Nat → Bool

/-- Rhonel's vendor id (R356): the spec names it and gives no number. -/
opaque rhonelVendor : BitVec 16

/-- Random draws of the on-die random source: link nonces and ephemeral keys (R324). -/
opaque randomKey : Nat → BitVec 256

end Sys2Proof.Config
end

