-- ==== Sys2Proof/Machine/Status.lean ====
section
/-! DEFINITION. The completion statuses (R240), program fault codes (R159), event severities and unit
kinds (R449, R450) and unit counts of the part numbers (R1), as named constants. -/

namespace Sys2Proof.Machine

/-- A completion status (R240). -/
abbrev Status := BitVec 16

namespace St

def ok : Status := 0x0000
def retained : Status := 0x0001
def capacityReduced : Status := 0x0002
def malformed : Status := 0x0010
def unsupported : Status := 0x0011
def accessDenied : Status := 0x0012
def outOfBounds : Status := 0x0013
def revoked : Status := 0x0014
def translationFault : Status := 0x0015
def peerUnreachable : Status := 0x0016
def signatureInvalid : Status := 0x0017
def readOnly : Status := 0x0018
def cancelled : Status := 0x0019
def notTiered : Status := 0x0020
def notPinned : Status := 0x0021
def pinLimit : Status := 0x0022
def noSpace : Status := 0x0023
def windowBusy : Status := 0x0024
def malformedProgram : Status := 0x0025
def malformedTable : Status := 0x0026
def tableBusy : Status := 0x0027
def tableUnloaded : Status := 0x0028
def versionConflict : Status := 0x0029
def poisoned : Status := 0x0030
def huskInvalid : Status := 0x0031
def programFault : Status := 0x0032
/-- The RESEND answer of R337, a status of packets only. -/
def resend : Status := 0xF001

end St

namespace Fc

def illegal : BitVec 8 := 0x01
def misaligned : BitVec 8 := 0x02
def bounds : BitVec 8 := 0x03
def segKind : BitVec 8 := 0x04
def streamState : BitVec 8 := 0x05
def table : BitVec 8 := 0x06
def blkForm : BitVec 8 := 0x07
def gateAccess : BitVec 8 := 0x08
def trap : BitVec 8 := 0x09
def poison : BitVec 8 := 0x10
def invalid : BitVec 8 := 0x11
def revoked : BitVec 8 := 0x12

/-- The LAUNCH status of a fault (R159). -/
def status (code : BitVec 8) : Status :=
  if code = poison then St.poisoned
  else if code = invalid then St.huskInvalid
  else if code = revoked then St.revoked
  else St.programFault

end Fc

namespace Sev

def info : BitVec 3 := 0
def notice : BitVec 3 := 1
def warning : BitVec 3 := 2
def error : BitVec 3 := 3
def fatal : BitVec 3 := 4

end Sev

namespace Uk

def module : BitVec 5 := 0
def pod : BitVec 5 := 1
def stack : BitVec 5 := 2
def hostPort : BitVec 5 := 3
def fabPort : BitVec 5 := 4
def mover : BitVec 5 := 5
def encoder : BitVec 5 := 6
def egress : BitVec 5 := 7
def placement : BitVec 5 := 8
def scanner : BitVec 5 := 9
def pip : BitVec 5 := 10
def qos : BitVec 5 := 11
def tableStore : BitVec 5 := 12
def window : BitVec 5 := 13
def security : BitVec 5 := 14
def sideband : BitVec 5 := 15
def power : BitVec 5 := 16
def fm : BitVec 5 := 17
def mempath : BitVec 5 := 18

end Uk

end Sys2Proof.Machine

namespace Sys2Proof

/-! ## Units of the part numbers (R1, R5) -/

def Variant.pods : Variant → Nat | .t => 100 | .s => 50 | .e => 25
def Variant.znStacks : Variant → Nat | .t => 12 | .s => 12 | .e => 6
def Variant.zdStacks : Variant → Nat | .t => 32 | .s => 0 | .e => 0
def Variant.fabPorts : Variant → Nat | .t => 16 | .s => 8 | .e => 4
def Variant.hostPorts : Variant → Nat | .t => 4 | .s => 4 | .e => 2
def Variant.code : Variant → Nat | .t => 0 | .s => 1 | .e => 2
/-- Data slots of a near stripe (R21). -/
def Variant.nearData : Variant → Nat | .t => 11 | .s => 11 | .e => 5
/-- The part has a deep tier, and with it layer windows (R4). -/
def Variant.deep : Variant → Bool | .t => true | .s => false | .e => false
/-- Design maximum input power in watts (R479). -/
def Variant.maxWatts : Variant → Nat | .t => 1500 | .s => 1000 | .e => 600
/-- Minimum coolant flow in mL/min (R483). -/
def Variant.minFlow : Variant → Nat | .t => 1500 | .s => 1000 | .e => 600

/-- Stack number `n` of R276 exists on the part: 0 to 11 ZN, 16 to 47 ZD. -/
def Variant.hasStack (v : Variant) (n : Nat) : Bool :=
  decide (n < v.znStacks) || (decide (16 ≤ n) && decide (n < 16 + v.zdStacks))

/-- The resource numbers of R276 that are stacks of a tier. -/
def Variant.stacksOf (v : Variant) : Tier → List Nat
  | .near => List.range v.znStacks
  | .deep => (List.range v.zdStacks).map (· + 16)

/-- Every stack number of the part. -/
def Variant.stackList (v : Variant) : List Nat := v.stacksOf .near ++ v.stacksOf .deep

end Sys2Proof
end

