-- ==== Sys2Proof/Machine/Ops.lean ====
section
/-! DEFINITION. The shared operations over the state: voted words, events, gates, host-port output,
descriptors, table references, extents and their reach, block metadata, wakes. Commands are written
over these. -/

namespace Sys2Proof.Machine

/-- What a command's meaning answers. -/
abbrev Outcome := Host.Outcome State Fault Refusal

/-! ## Voted words (R417) -/

/-- The majority of three copies; `d` where all three disagree. -/
def Tv.vote {α : Type} [DecidableEq α] (d : α) (t : Tv α) : α :=
  if t.a = t.b then t.a else if t.a = t.c then t.a else if t.b = t.c then t.b else d

/-- Three equal copies. -/
def Tv.all {α : Type} (v : α) : Tv α := ⟨v, v, v⟩

/-- Some copy disagrees with another. -/
def Tv.split {α : Type} [DecidableEq α] (t : Tv α) : Bool := decide (¬ (t.a = t.b ∧ t.a = t.c))

/-- All three copies disagree. -/
def Tv.broken {α : Type} [DecidableEq α] (t : Tv α) : Bool :=
  decide (t.a ≠ t.b ∧ t.a ≠ t.c ∧ t.b ≠ t.c)

/-! ## Time -/

/-- LCNT as a number. -/
def State.now (s : State) : Nat := s.clk.lcnt.toNat

/-! ## Power and start-up (R336, R436, R477) -/

/-- Every main rail is in regulation (R477): PWR_OK reads high. -/
def State.railsUp (s : State) : Bool :=
  match s.power.boot with
  | .training => true
  | .wiping => true
  | .selfTest => true
  | .tested => true
  | .ready => true
  | _ => false

/-- The module is locally ready (R336). -/
def State.isReady (s : State) : Bool := decide (s.power.boot = .ready)

/-- The host ports' rail is up: they can train, in recovery too (R436, R477).
(DEDUCED, assumption 83.) -/
def State.hostRails (s : State) : Bool := s.railsUp || decide (s.power.boot = .recovery)

/-! ## Events (R452 to R455) -/

/-- The sequence number after `q`, skipping 0 (R452). -/
def nextSeq (q : Word) : Word := if q + 1 = 0 then 1 else q + 1

/-- Lowest severity in a nonempty list of records. -/
def lowestSev (l : List EvRec) : Nat := l.foldl (fun m r => Nat.min m r.sev.toNat) 7

/-- Remove the newest record of severity `v` (the last such). -/
def dropNewest (v : Nat) (l : List EvRec) : List EvRec :=
  match (l.reverse).span (fun r => decide (r.sev.toNat ≠ v)) with
  | (a, _ :: b) => (a ++ b).reverse
  | (a, []) => a.reverse

/-- Close the open record: it joins the queue (R453). -/
def Evt.close (e : Evt) : Evt :=
  match e.opened with
  | some (r, _) => { e with queue := e.queue ++ [r], opened := none }
  | none => e

/-- Records in the queue, the open one among them. -/
def Evt.queued (e : Evt) : Nat := e.queue.length + (match e.opened with | some _ => 1 | none => 0)

/-- Make room in a full queue for an event of severity `sev`, or drop it (R454). `none`: dropped. -/
def Evt.makeRoom (e : Evt) (sev : BitVec 3) : Option Evt :=
  if e.queued < 4096 then some e
  else if sev.toNat ≤ lowestSev e.queue then none
  else
    let v := lowestSev e.queue
    some { e with queue := dropNewest v e.queue, lost := e.lost + 1 }

/-- An event enters the queue (R452 to R455): filtered by MIN_SEV, counted as a repetition of the open record,
or opening a record of its own. -/
def Evt.enter (e : Evt) (a : EvIn) : Evt :=
  if a.sev.toNat < e.minSev.toNat then { e with filtered := e.filtered + 1 }
  else
    let fresh : Evt :=
      match Evt.makeRoom (Evt.close e) a.sev with
      | none => { Evt.close e with lost := e.lost + 1 }
      | some e1 =>
        let q := nextSeq e1.seq
        { e1 with seq := q
                  opened := some ({ code := a.code, sev := a.sev, unit := a.unit, inst := BitVec.ofNat 8 a.inst,
                                    seq := q, secs := e1.opSecs, cyc := e1.cycles, rep := 1,
                                    p0 := BitVec.ofNat 32 a.p0, p1 := BitVec.ofNat 32 a.p1,
                                    p2 := BitVec.ofNat 32 a.p2 }, a.now) }
    match e.opened with
    | some (r, t) =>
      if r.code = a.code ∧ r.sev = a.sev ∧ r.unit = a.unit ∧ r.inst = BitVec.ofNat 8 a.inst ∧
          r.p0 = BitVec.ofNat 32 a.p0 ∧ a.now < t + 25000000 then
        let r' := { r with rep := r.rep + 1 }
        if r'.rep = 0xFFFF then Evt.close { e with opened := some (r', t) }
        else { e with opened := some (r', t) }
      else fresh
    | none => fresh

/-- An event is raised: it enters the queue at the end of its count. -/
def Evt.raise (e : Evt) (now : Nat) (code : BitVec 16) (sev : BitVec 3) (unit : BitVec 5) (inst : Nat)
    (p0 p1 p2 : Nat) : Evt :=
  { e with arrived := e.arrived ++ [⟨now, code, sev, unit, inst, p0, p1, p2⟩] }

/-- A unit of the module raises an event. -/
def State.raise (s : State) (code : BitVec 16) (sev : BitVec 3) (unit : BitVec 5) (inst : Nat)
    (p0 p1 p2 : Nat) : State :=
  { s with evt := s.evt.raise s.now code sev unit inst p0 p1 p2 }

/-! ## Gates (R262 to R265) -/

/-- Gate `g`. -/
def State.gate (s : State) (g : BitVec 8) : Gate := Table.get {} s.clk.gates g.toNat

/-- Replace gate `g`. -/
def State.setGate (s : State) (g : BitVec 8) (x : Gate) : State :=
  { s with clk := { s.clk with gates := Table.put {} s.clk.gates g.toNat x } }

/-- `C ≥ value` as R262 compares them. -/
def geq32 (c v : Word) : Bool := decide ((c - v).toNat < 2 ^ 31)

/-- A comparison of gate number `g` with a value: open after an ADD of 2^31 or more (R262, R267).
(DESIGN CHOICE, assumption 60.) -/
def Gate.geq (x : Gate) (g now : Nat) (c v : Word) : Bool :=
  if x.wild then Config.gateOpen g v.toNat now else geq32 c v

/-- Gate `g` has reached a value. -/
def State.gateMet (s : State) (g : BitVec 8) (v : Word) : Bool := (s.gate g).geq g.toNat s.now (s.gate g).c v

/-- Add completions to a gate; they are applied at the end of the count (R265). -/
def State.addGate (s : State) (g : BitVec 8) (n : Word) : State :=
  s.setGate g { s.gate g with adds := (s.gate g).adds + n, wild := (s.gate g).wild || decide (2 ^ 31 ≤ n.toNat) }

/-- A 16-bit gate field with enable in bit 15 (R226, R42). -/
def gateField (v : Nat) : Option (BitVec 8) := if bitOf v 15 then some (BitVec.ofNat 8 v) else none

/-! ## Host ports -/

/-- Host port `p`. -/
def State.hport (s : State) (p : Nat) : HostPort := Table.get {} s.host.ports p

/-- Replace host port `p`. -/
def State.setHport (s : State) (p : Nat) (x : HostPort) : State :=
  { s with host := { s.host with ports := Table.put {} s.host.ports p x } }

/-- Put something on a host port. -/
def State.send (s : State) (x : HostTx) : State :=
  { s with chan := { s.chan with hostTx := s.chan.hostTx ++ [x] } }

/-- Send an MSI-X message under R359: nothing with MSI-X disabled, pending when masked, dropped with an
event when the table entry holds address 0. -/
def State.msix (s : State) (port : Nat) (vector : BitVec 11) (ch : Nat) : State :=
  let h := s.hport port
  if !h.msixEn then s
  else if h.masked.contains vector.toNat then
    s.setHport port { h with pend := if h.pend.contains vector.toNat then h.pend else h.pend ++ [vector.toNat] }
  else if Table.get 0 h.vecAddr vector.toNat = 0 then
    s.raise 0x0101 Sev.notice Uk.hostPort port vector.toNat ch 0
  else s.send (.msix port vector)

/-! ## Units (R415) -/

/-- The unit is resetting. -/
def State.unitDown (s : State) (u : UnitKind) (inst : Nat) : Bool :=
  s.rel.unitResets.any (fun r => decide (r.unit = u) && decide (r.inst = inst))

/-! ## Wakes (R252, R253) -/

/-- Counts from a wake's start to ACTIVE (R250). -/
def MState.wakeCounts : MState → Nat
  | .active => 0
  | .idle => 50
  | .doze => 1000

/-- The sleep sequencer takes a wake source. -/
def Clk.wake (k : Clk) (now : Nat) (src : BitVec 7) : Clk :=
  if k.mstate = .active then k
  else match k.waking with
    | some t => if t = now + k.mstate.wakeCounts then { k with wakeCause := k.wakeCause ||| src } else k
    | none => { k with waking := some (now + k.mstate.wakeCounts), wakeCause := k.wakeCause ||| src
                       wakes := k.wakes + (if k.mstate = .doze then 1 else 0) }

/-- Start a wake, or add a source that is present in the count a wake started (R253): later none is added.
(DESIGN CHOICE, assumption 12.) -/
def State.wake (s : State) (src : BitVec 7) : State :=
  { s with clk := s.clk.wake s.now src }

/-- LCNT as unit `u` holds it (R249): pods by number, the movers as `moverUnit`.
(DESIGN CHOICE, assumption 134.) -/
def State.lcntOf (s : State) (u : Nat) : DWord :=
  let n := s.clk.lcnt
  if Config.lcntSkew u (Table.get 0 s.clk.syncs u) then (if Config.lcntAhead then n + 1 else if n = 0 then 0 else n - 1) else n
def moverUnit : Nat := 128

/-- The module can start work: ACTIVE and not waking. -/
def State.active (s : State) : Bool := decide (s.clk.mstate = .active)

namespace Wk

def doorbell : BitVec 7 := 0x01
def host : BitVec 7 := 0x02
def fabric : BitVec 7 := 0x04
def launch : BitVec 7 := 0x08
def timer : BitVec 7 := 0x10
def wakeIn : BitVec 7 := 0x20
def internal : BitVec 7 := 0x40

end Wk

/-! ## Security commands (R443, R447) -/

/-- A security command ends with a status.
(DEDUCED, assumption 88.) -/
def State.secEnd (s : State) (op : Nat) (st : BitVec 16) : State :=
  { s with sec := { s.sec with cmdBusy := false, lastOp := BitVec.ofNat 8 op, cmdStatus := st, activating := none } }

/-- An image of a kind is in service. -/
def State.fwActivated (s : State) (k : Nat) : State :=
  let x := Table.get {} s.sec.fw k
  s.raise 0x0008 Sev.info Uk.security 0 k (natOf x.activeB) x.svn

/-! ## Channels and descriptors (chapter 7) -/

/-- Channel `n`. -/
def State.ch (s : State) (n : Nat) : Chan := Table.get {} s.chan.chans n

/-- Replace channel `n`. -/
def State.setCh (s : State) (n : Nat) (x : Chan) : State :=
  { s with chan := { s.chan with chans := Table.put {} s.chan.chans n x } }

/-- Descriptor-table entry `d`. -/
def State.desc (s : State) (d : Nat) : Option Desc := Table.find s.chan.descs d

/-- Replace entry `d`. -/
def State.setDesc (s : State) (d : Nat) (x : Desc) : State :=
  { s with chan := { s.chan with descs := Table.set s.chan.descs d x } }

/-- Change entry `d` if it exists. -/
def State.modDesc (s : State) (d : Nat) (f : Desc → Desc) : State :=
  { s with chan := { s.chan with descs := Table.update s.chan.descs d f } }

/-- `n` bytes of the descriptor from byte `lo`, little-endian (R226). -/
def Desc.field (x : Desc) (lo n : Nat) : Nat := (x.bits.toNat / 2 ^ (8 * lo)) % 2 ^ (8 * n)

/-- OPCODE and SUBOP (R226). -/
def Desc.opcode (x : Desc) : Nat := x.field 0 1
def Desc.subop (x : Desc) : Nat := x.field 1 1
/-- Class label (R226). -/
def Desc.cls (x : Desc) : BitVec 6 := BitVec.ofNat 6 (x.field 2 1)
/-- Deadline count (R226), none without one. -/
def Desc.deadline (x : Desc) : Option Nat :=
  if x.field 4 2 = 0 then none else some (x.accept + 64 * x.field 4 2)

/-- The descriptor's work ends with a status and details; its completion entry comes with
DESCRIPTOR_COMPLETE (R236). -/
def State.endDesc (s : State) (d : Nat) (st : Status) (d0 d1 : DWord) : State :=
  s.modDesc d (fun x => { x with phase := .ended, status := st, d0 := d0, d1 := d1 })

/-- All ones, the DETAIL1 of R239 where nothing failed. -/
def allOnes : DWord := 0xFFFFFFFFFFFFFFFF

/-- DETAIL1 of a descriptor of which no block or byte failed (R239). -/
def Desc.noFail (x : Desc) : DWord :=
  if x.opcode = 0x01 ∨ x.opcode = 0x02 ∨ x.opcode = 0x03 ∨ x.opcode = 0x18 ∨ x.opcode = 0x19 then allOnes else 0

/-- What the host's reads have brought a descriptor: nothing once its channel has lost its port (R214). -/
def Desc.got (x : Desc) (h : HostData) : HostData := if x.cut then ⟨[], none⟩ else h

/-- The status of a host access that does not take place: refused, or ended with the port's link (R214, R230). The spec
gives no status for the latter.
(DESIGN CHOICE, assumption 133.) -/
def Desc.short (x : Desc) : Status := if x.cut then Config.cutStatus x.go else St.translationFault

/-! ## Parties -/

/-- The GPID of a party slot (R297), none when free. -/
def State.gpid (s : State) (slot : BitVec 8) : Option Word :=
  (Table.find s.ten.parties slot.toNat).map (fun p => p.gpid.vote 0)

/-- The slot bound to a GPID. -/
def State.slotOf (s : State) (gpid : Word) : Option (BitVec 8) :=
  (s.ten.parties.find? (fun e => decide (e.2.gpid.vote 0 = gpid))).map (fun e => BitVec.ofNat 8 e.1)

/-! ## Table ids (R76 to R83, R109) -/

/-- The entry of an id that is not FREE. -/
def State.table (s : State) (id : BitVec 16) : Option TableEnt := Table.find s.comp.tables id.toNat

/-- Change the entry of an id. -/
def State.modTable (s : State) (id : BitVec 16) (f : TableEnt → TableEnt) : State :=
  { s with comp := { s.comp with tables := Table.update s.comp.tables id.toNat f } }

/-- The table id of a metadata word and its POISON bit and TAG (R56). -/
def mwId (w : Word) : BitVec 16 := w.extractLsb' 16 16
def mwPoison (w : Word) : Bool := w.getLsbD 7
def mwTag (w : Word) : Nat := (w.extractLsb' 0 6).toNat

/-- A metadata word. -/
def mkMeta (id : BitVec 16) (poison : Bool) (tag : Nat) : Word :=
  BitVec.ofNat 32 (id.toNat * 65536 + natOf poison * 128 + tag % 64)

/-- The word of a raw block (R56, R57). -/
def rawMeta : Word := 0x3F

/-- A bank slot that holds the id is pinned: a block queued there names it (R79). -/
def Comp.pinned (c : Comp) (id : BitVec 16) : Bool :=
  c.banks.any (fun b => b.2.slots.any (fun t => decide (t.id = id)) &&
    b.2.queue.any (fun q => decide (mwId q.word = id ∧ mwTag q.word ≠ 0x3F)))

/-- The id is in use (R78). -/
def Comp.inUse (c : Comp) (id : BitVec 16) : Bool :=
  (match Table.find c.tables id.toNat with
   | some e => e.loadRef || decide (e.refs ≠ 0) || decide (e.queued ≠ 0)
   | none => false) || c.pinned id

/-- An id that is no longer in use becomes FREE, and every slot that holds it is invalidated (R83,
R109). -/
def Comp.freeIfUnused (c : Comp) (id : BitVec 16) : Comp :=
  match Table.find c.tables id.toNat with
  | none => c
  | some _ =>
    if c.inUse id then c
    else { c with tables := Table.del c.tables id.toNat
                  banks := c.banks.map (fun b => (b.1, { b.2 with slots := b.2.slots.filter (fun x => decide (x.id ≠ id)) }))
                  engSlots := c.engSlots.map (fun b => (b.1, b.2.filter (fun x => decide (x.id ≠ id)))) }

/-- Add a husk reference (R78). -/
def State.addRef (s : State) (id : BitVec 16) : State := s.modTable id (fun e => { e with refs := e.refs + 1 })

/-- Release a husk reference (R78, R83). -/
def State.dropRef (s : State) (id : BitVec 16) : State :=
  let s1 := s.modTable id (fun e => { e with refs := e.refs - 1 })
  { s1 with comp := s1.comp.freeIfUnused id }

/-- A request first names an id (R78). -/
def State.addQueued (s : State) (id : BitVec 16) : State := s.modTable id (fun e => { e with queued := e.queued + 1 })

/-- A request that named an id completes (R78, R83). -/
def State.dropQueued (s : State) (id : BitVec 16) : State :=
  let s1 := s.modTable id (fun e => { e with queued := e.queued - 1 })
  { s1 with comp := s1.comp.freeIfUnused id }

/-- A word is replaced by another: the old husk's reference is released and the new one's taken, a
poisoned husk keeping its own (R78, R80). -/
def State.moveRef (s : State) (old new : Word) : State :=
  let s1 := if mwId new ≠ 0 then s.addRef (mwId new) else s
  if mwId old ≠ 0 then s1.dropRef (mwId old) else s1

/-! ## Extents and their blocks -/

/-- The extent of a handle. -/
def State.extent (s : State) (h : Word) : Option Extent := Table.find s.ten.extents h.toNat

/-- Replace the extent of a handle. -/
def State.setExtent (s : State) (h : Word) (e : Extent) : State :=
  { s with ten := { s.ten with extents := Table.set s.ten.extents h.toNat e } }

/-- Owner, kind and state as voted; three different copies leave it without an owner (R417). -/
def Extent.voted (e : Extent) : ExtWord := e.word.vote { e.word.a with owner := none }
def Extent.owner (e : Extent) : Option (BitVec 8) := e.voted.owner
def Extent.kind (e : Extent) : ExtKind := e.voted.kind
def Extent.state (e : Extent) : ExtState := e.voted.state
/-- Size in bytes and blocks and tracts (R25). -/
def Extent.size (e : Extent) : Nat := e.units * 268435456
def Extent.blocks (e : Extent) : Nat := e.units * 65536
def Extent.tracts (e : Extent) : Nat := e.units * 128

/-- Write the voted word's three copies (R506). -/
def Extent.setWord (e : Extent) (f : ExtWord → ExtWord) : Extent := { e with word := Tv.all (f e.voted) }

/-- Key of an extent's byte, block metadata and tract. -/
def extByteKey (h : Word) (off : Nat) : Nat := h.toNat * 2 ^ 48 + off
def extBlkKey (h : Word) (blk : Nat) : Nat := h.toNat * 2 ^ 36 + blk
def tractKey (h : Word) (t : Nat) : Nat := h.toNat * 2 ^ 20 + t
def pinKey (tr : Nat) (p : BitVec 8) : Nat := tr * 256 + p.toNat

/-- Slot metadata word of a block (R56); every slot is a raw block of zeros after the wipe (R427). -/
def State.blkMeta (s : State) (h : Word) (blk : Nat) : Word := Table.get rawMeta s.ten.metas (extBlkKey h blk)

/-- The stored bytes of a block: its 64 × S sectors' bytes, or 4,096 (R57, R58). -/
def State.blkBytes (s : State) (h : Word) (blk : Nat) : Bytes :=
  let w := s.blkMeta h blk
  Store.read s.ten.mem (extByteKey h (4096 * blk)) (if mwTag w = 0x3F then 4096 else 64 * mwTag w)

/-- Write a block whole: metadata word and bytes, with the references of R78; POISON is what the word
says (R73). -/
def State.putBlk (s : State) (h : Word) (blk : Nat) (w : Word) (bytes : Bytes) : State :=
  let s1 := s.moveRef (s.blkMeta h blk) w
  let a := extByteKey h (4096 * blk)
  { s1 with ten := { s1.ten with
      metas := Table.put rawMeta s1.ten.metas (extBlkKey h blk) w
      mem := Store.write (Store.clear s1.ten.mem a 4096) a bytes } }

/-- Set only the metadata word of a block, with its references. -/
def State.putMeta (s : State) (h : Word) (blk : Nat) (w : Word) : State :=
  let s1 := s.moveRef (s.blkMeta h blk) w
  { s1 with ten := { s1.ten with metas := Table.put rawMeta s1.ten.metas (extBlkKey h blk) w } }

/-- Merge plain bytes into a raw block (R73). -/
def State.mergeBlk (s : State) (h : Word) (off : Nat) (bytes : Bytes) : State :=
  { s with ten := { s.ten with mem := Store.write s.ten.mem (extByteKey h off) bytes } }

/-! ## Reach of an extent (R30, R301, R303) -/

/-- What a request does with the extent it names (R301). -/
inductive Use where
  | data      -- COPY, ENCODE, DECODE, REDUCE, images, contexts, segments, block requests
  | place     -- PROMOTE, EVICT, PIN, UNPIN, window entries
  | publish
  | fetch
  deriving DecidableEq, Repr

/-- The grant of GPID `g` that a request accepted at count `at_` goes by: the one held, or one that a later revocation
ended (R303). -/
def Extent.grantAt (e : Extent) (g : Word) (at_ : Nat) : Option Grant :=
  match e.grants.find? (fun x => decide (x.gpid = g)) with
  | some x => some x
  | none => (e.grantRevoked.find? (fun x => decide (x.1.gpid = g ∧ at_ < x.2))).map Prod.fst

/-- The requester of GPID `g` may use the extent so, by a request accepted at count `at_` (R301). -/
def State.mayUse (s : State) (e : Extent) (g : Word) (u : Use) (at_ : Nat) : Bool :=
  let isOwner := match e.owner with | some o => decide (s.gpid o = some g) | none => false
  let gr := e.grantAt g at_
  let canRead := match gr with | some x => x.read | none => false
  let canPub := match gr with | some x => x.publish | none => false
  if e.vslots = 0 then isOwner && decide (u ≠ .publish) && decide (u ≠ .fetch)
  else match u with
    | .data => false
    | .place => isOwner || canRead
    | .fetch => isOwner || canRead
    | .publish => isOwner || canPub

/-- The revocation point that affects GPID `g` on the extent (R303). -/
def Extent.pointFor (e : Extent) (g : Word) : Option Nat :=
  match e.revokedAt with
  | some p => some p
  | none => (e.grantRevoked.find? (fun x => decide (x.1.gpid = g))).map (·.2)

/-- The status that reach gives a request accepted at count `at_` (R241 step 4): REVOKED, then
ACCESS_DENIED, then OUT_OF_BOUNDS, then READ_ONLY for a write; none when it may go on. -/
def State.reach (s : State) (g : Option Word) (h : Word) (off len : Nat) (u : Use) (wr : Bool)
    (at_ : Nat) : Option Status :=
  match s.extent h, g with
  | none, _ => some St.accessDenied
  | _, none => some St.accessDenied
  | some e, some g =>
    if (match e.pointFor g with | some p => decide (p ≤ at_) | none => false) then some St.revoked
    else if !(s.mayUse e g u at_) then some St.accessDenied
    else if e.size < off + len then some St.outOfBounds
    else if wr && e.readOnly then some St.readOnly
    else none

/-! ## Pods and cores -/

/-- Pod `p` and core `c`. -/
def State.pod (s : State) (p : Nat) : Pod := Table.get {} s.pods.pods p
def State.setPod (s : State) (p : Nat) (x : Pod) : State :=
  { s with pods := { s.pods with pods := Table.put {} s.pods.pods p x } }
def State.core (s : State) (c : Nat) : Core := Table.get {} s.pods.cores c
def State.setCore (s : State) (c : Nat) (x : Core) : State :=
  { s with pods := { s.pods with cores := Table.put {} s.pods.cores c x } }

/-- The pod of a core (R94). -/
def podOf (c : Nat) : Nat := c / 8

/-- Pod-store byte key and position key (R121). -/
def podKey (pod off : Nat) : Nat := pod * 4194304 + off
def posKey (pod off : Nat) : Nat := pod * 1024 + off / 4096

/-- Position word of a pod-store byte address (pod × 4 MiB + offset) (R104). -/
def State.posWord (s : State) (a : Nat) : Word := Table.get rawMeta s.pods.words (a / 4096)

/-- Set a position word, with its references (R80). -/
def State.setPos (s : State) (a : Nat) (w : Word) : State :=
  let s1 := s.moveRef (s.posWord a) w
  { s1 with pods := { s1.pods with words := Table.put rawMeta s1.pods.words (a / 4096) w } }

/-- Write a block into a pod position: word and sectors (R104). -/
def State.putPos (s : State) (a : Nat) (w : Word) (bytes : Bytes) : State :=
  let s1 := s.setPos a w
  { s1 with pods := { s1.pods with mem := Store.write (Store.clear s1.pods.mem (a / 4096 * 4096) 4096) (a / 4096 * 4096) bytes } }

/-- The stored bytes of a pod position. -/
def State.posBytes (s : State) (a : Nat) : Bytes :=
  let w := s.posWord a
  Store.read s.pods.mem (a / 4096 * 4096) (if mwTag w = 0x3F then 4096 else 64 * mwTag w)

/-- Write plain bytes into a pod store; every position they touch becomes raw (R104, R137). -/
def State.writePod (s : State) (a : Nat) (bytes : Bytes) : State :=
  let first := a / 4096
  let n := (a + bytes.length - 1) / 4096 - first + 1
  let s1 := if bytes.isEmpty then s
    else (List.range n).foldl (fun st i => st.setPos ((first + i) * 4096) rawMeta) s
  { s1 with pods := { s1.pods with mem := Store.write s1.pods.mem a bytes } }

/-- Set every position word of a pod to 0x3F, releasing its references (R80). -/
def State.clearWords (s : State) (pod : Nat) : State :=
  (s.pods.words.filter (fun e => decide (e.1 / 1024 = pod))).foldl
    (fun st e => st.setPos (e.1 * 4096) rawMeta) s

/-- The ids of a list that nothing uses any longer become FREE (R83). -/
def Comp.freeAll (c : Comp) (ids : List (BitVec 16)) : Comp := ids.foldl Comp.freeIfUnused c

/-- Empty a bank's queue: the slots its blocks pinned unpin, and an id that was in use only there becomes FREE
(R79, R83). -/
def State.emptyBank (s : State) (b : Nat) : State :=
  let ids := ((Table.get {} s.comp.banks b).queue.map (fun q => mwId q.word)).filter (fun i => decide (i ≠ 0))
  { s with comp := { s.comp with
      banks := Table.update s.comp.banks b (fun x => { x with queue := [] }) }.freeAll ids }

/-- Invalidate a bank's slots and clear its queue (R110). -/
def State.clearBank (s : State) (b : Nat) : State :=
  let s1 := s.emptyBank b
  { s1 with comp := { s1.comp with banks := Table.update s1.comp.banks b (fun x => { x with slots := [] }) } }

/-- The wiping and clearing of R110 and R122 on a pod: store zeroed, words 0x3F, registers, tiles,
buffers, streams and generators cleared; the DEC_STALL counters stay (R119). -/
def State.wipePod (s : State) (pod : Nat) : State :=
  let s1 := s.clearWords pod
  let s2 := { s1 with pods := { s1.pods with mem := Store.clear s1.pods.mem (podKey pod 0) 4194304 } }
  let s3 := (s2.clearBank (2 * pod)).clearBank (2 * pod + 1)
  (List.range 8).foldl (fun st i =>
    let c := 8 * pod + i
    st.setCore c { dMiss := (st.core c).dMiss, dBusy := (st.core c).dBusy }) s3

/-- The program running on a pod. -/
def State.progOf (s : State) (pod : Nat) : Option (Nat × Program) :=
  match (s.pod pod).prog with
  | some k => (Table.find s.pods.programs k).map (fun p => (k, p))
  | none => none

/-- Change a program. -/
def State.modProg (s : State) (k : Nat) (f : Program → Program) : State :=
  { s with pods := { s.pods with programs := Table.update s.pods.programs k f } }

/-- A program fault (R159, R160): the first stands (of one clock, the lowest core's); every core of the
program stops, and the program is ending.
(DEDUCED, assumption 64; DESIGN CHOICE, assumption 66.) -/
def State.fault (s : State) (c : Nat) (code : BitVec 8) (addr : DWord) : State :=
  match s.progOf (podOf c) with
  | none => s
  | some (k, p) =>
    let f : ProgFault := { code := code, core := c, pc := (s.core c).pc, addr := addr }
    let s1 := s.modProg k (fun q => { q with state := .ending, fault := some (q.fault.getD f) })
    { s1 with pods := { s1.pods with cores := s1.pods.cores.map (fun e =>
        if p.on.contains (podOf e.1) then (e.1, { e.2 with running := false }) else e) } }

end Sys2Proof.Machine
end

