-- ==== Sys2Proof/Machine/Operands.lean ====
section
/-! DEFINITION. Operands of the core instructions: registers, issue, segments and addresses, local
memory (chapter 4). -/

namespace Sys2Proof.Machine

/-! ## Registers (R123) -/

/-- Scalar register: s0 reads 0 and discards writes. -/
def Core.sreg (x : Core) (r : BitVec 5) : DWord := if r = 0 then 0 else Table.get 0 x.s r.toNat
def Core.setS (x : Core) (r : BitVec 5) (v : DWord) : Core :=
  if r = 0 then x else { x with s := Table.put 0 x.s r.toNat v }

/-- Vector register by number. -/
def Core.vregN (x : Core) (r : Nat) : BitVec 512 := Table.get 0 x.v r
def Core.vreg (x : Core) (r : BitVec 5) : BitVec 512 := x.vregN r.toNat
def Core.setV (x : Core) (r : BitVec 5) (v : BitVec 512) : Core :=
  { x with v := Table.put 0 x.v r.toNat v }

/-- Tile register; row `r` is bits [512 r + 511 : 512 r]. -/
def Core.tile (x : Core) (t : BitVec 3) : BitVec 8192 := Table.get 0 x.t t.toNat
def Core.setT (x : Core) (t : BitVec 3) (v : BitVec 8192) : Core :=
  { x with t := Table.put 0 x.t t.toNat v }
def tileRow (t : BitVec 8192) (r : Nat) : BitVec 512 := t.extractLsb' (512 * r) 512
def setTileRow (t : BitVec 8192) (r : Nat) (v : BitVec 512) : BitVec 8192 :=
  (t &&& ~~~(((BitVec.allOnes 512).setWidth 8192) <<< (512 * r))) ||| (v.setWidth 8192 <<< (512 * r))

/-- The tile whose row r is `f r`. -/
def ofRows (f : Nat → BitVec 512) : Nat → BitVec 8192
  | 0 => 0
  | n + 1 => ofRows f n ||| ((f n).setWidth 8192 <<< (512 * n))

/-- Bytes of a bit vector, lowest first, and back. -/
def bvBytes {w : Nat} (n : Nat) (v : BitVec w) : Bytes := leBytes n v.toNat
def bytesBv (w : Nat) (bs : Bytes) : BitVec w := BitVec.ofNat w (leNat bs)

/-! ## Issue (R161, R163) -/

/-- The line of the instruction buffer that holds a PC (R163: 1 KiB lines). -/
def lineOf (pc : Word) : Nat := pc.toNat / 1024

/-- A fetch uses its line: it becomes the most recently used. -/
def touchLine (l : List Nat) (n : Nat) : List Nat := n :: l.filter (fun k => decide (k ≠ n))

/-- The core runs and waits for nothing. -/
def Core.ready (x : Core) : Bool := x.running && !x.halted && decide (x.wait = .none)

/-- An instruction has retired; the next is at `pc`. -/
def Core.goto (x : Core) (pc : Word) : Core :=
  { x with pc := pc, instret := x.instret + 1, ibuf := touchLine x.ibuf (lineOf x.pc) }
def Core.retire (x : Core) : Core := x.goto (x.pc + 4)

/-- Segment `n` of the pod of core `c`. -/
def State.segOf (s : State) (c n : Nat) : Segment := Table.get {} (s.pod (podOf c)).segs n

/-- The word at PC lies within segment 0 (R135). -/
def State.fetchable (s : State) (c : Nat) : Bool :=
  decide ((s.core c).pc.toNat + 4 ≤ (s.segOf c 0).limit.toNat)

/-- The core can issue the instruction at PC: it runs, waits for nothing, and its instruction buffer
holds the line (R163). -/
def State.canIssue (s : State) (c : Nat) : Bool :=
  (s.core c).ready && (s.core c).ibuf.contains (lineOf (s.core c).pc)

/-- Bytes of an operand by MMA format (R146). -/
def fmtBytes (f : BitVec 3) : Nat :=
  if f.toNat ≤ 1 then 512 else if f.toNat ≤ 4 then 256 else 128

/-- The registers of a core, and a core with them put back. -/
def Core.regs (x : Core) : CoreRegs :=
  { s := x.s, v := x.v, t := x.t, pc := x.pc, fflags := x.fflags, rng := x.rng, instret := x.instret
    left := (x.stream.map Stream.left).getD 0, pos := (x.stream.map Stream.pos).getD 0 }
def Core.restore (x : Core) (r : CoreRegs) : Core :=
  { x with s := r.s, v := r.v, t := r.t, pc := r.pc, fflags := r.fflags, rng := r.rng, instret := r.instret
           stream := x.stream.map (fun t => { t with left := r.left, pos := r.pos }) }

/-- An MMA in the unit still waits for bytes of the stream that are not readable, so that it may fault (R147, R152). -/
def Core.unsure (x : Core) : Bool :=
  decide ((x.obuf.map List.length).sum - x.taken <
    ((x.mu.filter (fun o => o.sb && !o.started)).map (fun o => fmtBytes o.fmt)).sum)

/-- Core clocks in one count: 3.0 GHz over 25 MHz (R9). -/
def clocksPerCount : Nat := 120

/-- A core as others see it, and the state with core `c` seen so. -/
def Core.outer (x : Core) : Core :=
  { x with s := [], v := [], t := [], pc := 0, fflags := 0, rng := 0, instret := 0, mu := [], ibuf := [], phase := 0
           stream := x.stream.map (fun t => { t with left := 0, pos := 0 }) }
def State.outer (s : State) (c : Nat) : State := State.setCore { s with free := 0 } c (s.core c).outer

/-- The effect `t` of an instruction of core `c`. While an earlier MMA may yet fault, only an effect on the core's own
registers and matrix unit takes place; any other waits, so that the fault is precise (R152, R160).
(DESIGN CHOICE, assumption 66.) -/
def State.precise (s : State) (c : Nat) (t : State) : State :=
  if (s.core c).unsure && decide (t.outer c ≠ s.outer c) then s else t

/-- Issue an instruction at core `c`: nothing happens unless the core can issue; a PC outside segment 0
raises BOUNDS when it is fetched (R135); otherwise `f` of the core.
(DESIGN CHOICE, assumption 7.) -/
def State.issue (s : State) (c : Nat) (f : Core → State) : State :=
  if !((s.core c).ready) then s
  else if !(s.fetchable c) then s.precise c (s.fault c Fc.bounds ((s.core c).pc.setWidth 64))
  else if !(s.canIssue c) then s
  else s.precise c (f (s.core c))

/-! ## Segments and addresses (R124 to R127) -/

def segNum (a : DWord) : Nat := (a.extractLsb' 60 4).toNat
def segOff (a : DWord) : Nat := (a.extractLsb' 0 48).toNat

def kScratch : BitVec 2 := 1
def kPod : BitVec 2 := 2
def kExt : BitVec 2 := 3

/-- The three checks of R126 in their order, for an access of `size` bytes whose offset must be a
multiple of `align`: the segment, or the fault. -/
def State.checkSeg (s : State) (c : Nat) (a : DWord) (size align : Nat) (kinds : List (BitVec 2)) :
    Except (BitVec 8) Segment :=
  let g := s.segOf c (segNum a)
  if !(kinds.contains g.kind) then .error Fc.segKind
  else if segOff a % align ≠ 0 then .error Fc.misaligned
  else if (a.extractLsb' 48 12 : BitVec 12) ≠ 0 ∨ g.limit.toNat < segOff a + size then .error Fc.bounds
  else .ok g

/-- Pod-store byte key of an offset in a local segment (R121, R125). -/
def localKey (c : Nat) (g : Segment) (o : Nat) : Nat :=
  if g.kind = kScratch then podKey (podOf c) (c % 8 * 262144 + g.base.toNat + o)
  else podKey (podOf c) (2097152 + g.base.toNat + o)

/-- The pod-store key of a local access, or its fault. -/
def State.localAt (s : State) (c : Nat) (a : DWord) (size align : Nat) (kinds : List (BitVec 2)) :
    Except (BitVec 8) Nat :=
  match s.checkSeg c a size align kinds with
  | .error e => .error e
  | .ok g => .ok (localKey c g (segOff a))

/-- Position numbers that the bytes [k, k + n) touch. -/
def positions (k n : Nat) : List Nat :=
  (List.range ((k + n - 1) / 4096 - k / 4096 + 1)).map (· + k / 4096)

/-- Some position touched is poisoned (R137). -/
def State.poisonAt (s : State) (k n : Nat) : Bool :=
  (positions k n).any (fun p => mwPoison (s.posWord (p * 4096)))

/-- Two byte ranges overlap. -/
def overlap (a n b m : Nat) : Bool := decide (a < b + m) && decide (b < a + n)

/-- An incomplete block request of the pod reads or writes bytes of the range (R129).
(DESIGN CHOICE, assumption 8.) -/
def State.racy (s : State) (pod k n : Nat) : Bool :=
  (List.range 8).any (fun i => (s.core (8 * pod + i)).blks.any (fun r =>
    !r.done && overlap k n r.addr (r.count * 4096)))

/-- The range lies in positions that an open stream of the pod reads (R129).
(DESIGN CHOICE, assumption 8.) -/
def State.liveSource (s : State) (pod k n : Nat) : Bool :=
  (List.range 8).any (fun i => match (s.core (8 * pod + i)).stream with
    | some t => overlap k n (t.next + 4096 * t.blocks - (t.pos + t.left)) (t.pos + t.left)
    | none => false)

/-- The byte at a key has no meaning: it lies beyond the sectors of a husk (R137). -/
def State.beyond (s : State) (k : Nat) : Bool :=
  let t := mwTag (s.posWord k)
  decide (t ≠ 0x3F) && decide (64 * t ≤ k % 4096)

/-- A load's bytes: the stored bytes whatever the tag (R137); bytes without meaning and bytes a block
request races for (R129) are free values. -/
def State.loadBytes (s : State) (pod k n : Nat) : Bytes :=
  let r := s.racy pod k n
  (List.range n).map (fun i =>
    if r || s.beyond (k + i) then Config.freeByte s.free i else Store.byte s.pods.mem (k + i))

/-- Take a free-value number. -/
def State.took (s : State) : State := { s with free := s.free + 1 }

/-- A core store: every position it writes becomes raw (R104, R137). The bytes it does not write of a
position that held a husk, and all of them where a block request races or an open stream reads there (R129),
are free values. The store is visible to the pod's other cores at once.
(DESIGN CHOICE, assumption 131.) -/
def State.storeBytes (s : State) (pod k : Nat) (bytes : Bytes) : State :=
  let n := bytes.length
  let husky := (positions k n).filter (fun p => decide (mwTag (s.posWord (p * 4096)) ≠ 0x3F))
  let open_ := fun p => (List.range 4096).map (fun i => Config.freeByte (s.free + p) i)
  let mem := husky.foldl (fun m p => Store.write m (p * 4096) (open_ p)) s.pods.mem
  let s1 := { s with pods := { s.pods with mem := mem } }
  let lost := s.racy pod k n || s.liveSource pod k n
  let s2 := s1.writePod k (if lost then (List.range n).map (Config.freeByte s.free) else bytes)
  if husky.isEmpty && !lost then s2 else { s2 with free := s2.free + k / 4096 + 3 }

/-- An operation in the matrix unit writes tile `t` (R148). -/
def Core.tileBusy (x : Core) (t : BitVec 3) : Bool := x.mu.any (fun o => decide (o.td = t))

/-- An MMA in the unit has yet to read bytes of the range from scratch (R147). -/
def Core.amPending (x : Core) (k n : Nat) : Bool :=
  x.mu.any (fun o => !o.started && (match o.aAddr with
    | some a => overlap k n a (fmtBytes o.fmt)
    | none => false))

end Sys2Proof.Machine
end

