-- ==== Sys2Proof/Machine/Alu.lean ====
section
/-! DEFINITION. The scalar instructions: ALU, immediates, branches and jumps (R133 to R135). -/

namespace Sys2Proof.Machine

/-! ## The operations of R133 -/

def shamt (b : DWord) : Nat := (b.extractLsb' 0 6).toNat
def one64 (b : Bool) : DWord := if b then 1 else 0
def opMulh (a b : DWord) : DWord := ((a.signExtend 128) * (b.signExtend 128)).extractLsb' 64 64
def opMulhu (a b : DWord) : DWord := ((a.setWidth 128) * (b.setWidth 128)).extractLsb' 64 64
def opDivu (a b : DWord) : DWord := if b = 0 then allOnes else a / b
def opRemu (a b : DWord) : DWord := if b = 0 then a else a % b
def opMin (a b : DWord) : DWord := if a.slt b then a else b
def opMax (a b : DWord) : DWord := if a.slt b then b else a
def opMinu (a b : DWord) : DWord := if a.ult b then a else b
def opMaxu (a b : DWord) : DWord := if a.ult b then b else a

/-- Number of 1 bits among the low `n`. -/
def popFrom (a : DWord) : Nat → Nat
  | 0 => 0
  | n + 1 => popFrom a n + natOf (a.getLsbD n)

/-- Number of 0 bits from bit n − 1 down to the highest 1. -/
def clzFrom (a : DWord) : Nat → Nat
  | 0 => 0
  | n + 1 => if a.getLsbD n then 0 else clzFrom a n + 1

/-- Number of 0 bits from bit 64 − n up to the lowest 1. -/
def ctzFrom (a : DWord) : Nat → Nat
  | 0 => 0
  | n + 1 => if a.getLsbD (63 - n) then 0 else ctzFrom a n + 1

/-- A register-register ALU operation. -/
def alu (f : DWord → DWord → DWord) (c : Nat) (rd ra rb : BitVec 5) (s : State) : Outcome :=
  .next (s.issue c (fun x => s.setCore c ((x.setS rd (f (x.sreg ra) (x.sreg rb))).retire)))

def execAdd (c : Nat) (rd ra rb : BitVec 5) (s : State) : Outcome := alu (· + ·) c rd ra rb s
def execSub (c : Nat) (rd ra rb : BitVec 5) (s : State) : Outcome := alu (· - ·) c rd ra rb s
def execAnd (c : Nat) (rd ra rb : BitVec 5) (s : State) : Outcome := alu (· &&& ·) c rd ra rb s
def execOr (c : Nat) (rd ra rb : BitVec 5) (s : State) : Outcome := alu (· ||| ·) c rd ra rb s
def execXor (c : Nat) (rd ra rb : BitVec 5) (s : State) : Outcome := alu (· ^^^ ·) c rd ra rb s
def execSll (c : Nat) (rd ra rb : BitVec 5) (s : State) : Outcome :=
  alu (fun a b => a <<< shamt b) c rd ra rb s
def execSrl (c : Nat) (rd ra rb : BitVec 5) (s : State) : Outcome :=
  alu (fun a b => a >>> shamt b) c rd ra rb s
def execSra (c : Nat) (rd ra rb : BitVec 5) (s : State) : Outcome :=
  alu (fun a b => a.sshiftRight (shamt b)) c rd ra rb s
def execSlt (c : Nat) (rd ra rb : BitVec 5) (s : State) : Outcome :=
  alu (fun a b => one64 (a.slt b)) c rd ra rb s
def execSltu (c : Nat) (rd ra rb : BitVec 5) (s : State) : Outcome :=
  alu (fun a b => one64 (a.ult b)) c rd ra rb s
def execMin (c : Nat) (rd ra rb : BitVec 5) (s : State) : Outcome := alu opMin c rd ra rb s
def execMax (c : Nat) (rd ra rb : BitVec 5) (s : State) : Outcome := alu opMax c rd ra rb s
def execMinu (c : Nat) (rd ra rb : BitVec 5) (s : State) : Outcome := alu opMinu c rd ra rb s
def execMaxu (c : Nat) (rd ra rb : BitVec 5) (s : State) : Outcome := alu opMaxu c rd ra rb s
def execMul (c : Nat) (rd ra rb : BitVec 5) (s : State) : Outcome := alu (· * ·) c rd ra rb s
def execMulh (c : Nat) (rd ra rb : BitVec 5) (s : State) : Outcome := alu opMulh c rd ra rb s
def execMulhu (c : Nat) (rd ra rb : BitVec 5) (s : State) : Outcome := alu opMulhu c rd ra rb s
def execDivu (c : Nat) (rd ra rb : BitVec 5) (s : State) : Outcome := alu opDivu c rd ra rb s
def execRemu (c : Nat) (rd ra rb : BitVec 5) (s : State) : Outcome := alu opRemu c rd ra rb s

/-- A one-operand ALU operation. -/
def alu1 (f : DWord → DWord) (c : Nat) (rd ra : BitVec 5) (s : State) : Outcome :=
  .next (s.issue c (fun x => s.setCore c ((x.setS rd (f (x.sreg ra))).retire)))

def execClz (c : Nat) (rd ra : BitVec 5) (s : State) : Outcome :=
  alu1 (fun a => BitVec.ofNat 64 (clzFrom a 64)) c rd ra s
def execPopc (c : Nat) (rd ra : BitVec 5) (s : State) : Outcome :=
  alu1 (fun a => BitVec.ofNat 64 (popFrom a 64)) c rd ra s
def execCtz (c : Nat) (rd ra : BitVec 5) (s : State) : Outcome :=
  alu1 (fun a => BitVec.ofNat 64 (ctzFrom a 64)) c rd ra s

/-! ## Immediates and constants (R134) -/

def sext (imm : BitVec 16) : DWord := imm.signExtend 64
def zext (imm : BitVec 16) : DWord := imm.setWidth 64

def execAddi (c : Nat) (rd ra : BitVec 5) (imm : BitVec 16) (s : State) : Outcome :=
  alu1 (fun a => a + sext imm) c rd ra s
def execAndi (c : Nat) (rd ra : BitVec 5) (imm : BitVec 16) (s : State) : Outcome :=
  alu1 (fun a => a &&& zext imm) c rd ra s
def execOri (c : Nat) (rd ra : BitVec 5) (imm : BitVec 16) (s : State) : Outcome :=
  alu1 (fun a => a ||| zext imm) c rd ra s
def execXori (c : Nat) (rd ra : BitVec 5) (imm : BitVec 16) (s : State) : Outcome :=
  alu1 (fun a => a ^^^ zext imm) c rd ra s
def execSlti (c : Nat) (rd ra : BitVec 5) (imm : BitVec 16) (s : State) : Outcome :=
  alu1 (fun a => one64 (a.slt (sext imm))) c rd ra s
def execSltiu (c : Nat) (rd ra : BitVec 5) (imm : BitVec 16) (s : State) : Outcome :=
  alu1 (fun a => one64 (a.ult (sext imm))) c rd ra s

/-- The shift of SHI by its type: 0 SLL, 1 SRL, 2 SRA. -/
def shiftBy (t : BitVec 2) (n : Nat) (a : DWord) : DWord :=
  if t = 0 then a <<< n else if t = 1 then a >>> n else a.sshiftRight n

/-- The encoding of SHI's immediate is defined: bits [15:8] are 0 and the type is not 3. -/
def shiOk (imm : BitVec 16) : Bool :=
  decide (imm.extractLsb' 8 8 = 0) && decide (imm.extractLsb' 6 2 ≠ 3)

def execShi (c : Nat) (rd ra : BitVec 5) (imm : BitVec 16) (s : State) : Outcome :=
  if shiOk imm then
    alu1 (fun a => shiftBy (imm.extractLsb' 6 2) (imm.extractLsb' 0 6).toNat a) c rd ra s
  else .next (s.issue c (fun _ => s.fault c Fc.illegal 0))

def execMovz (c : Nat) (rd : BitVec 5) (hw : BitVec 2) (imm : BitVec 16) (s : State) : Outcome :=
  alu1 (fun _ => zext imm <<< (16 * hw.toNat)) c rd 0 s

/-- `a` with its halfword `hw` replaced. -/
def movk (a : DWord) (hw : BitVec 2) (imm : BitVec 16) : DWord :=
  (a &&& ~~~((0xFFFF : DWord) <<< (16 * hw.toNat))) ||| (zext imm <<< (16 * hw.toNat))

def execMovk (c : Nat) (rd : BitVec 5) (hw : BitVec 2) (imm : BitVec 16) (s : State) : Outcome :=
  alu1 (fun a => movk a hw imm) c rd rd s

/-! ## Branches and jumps (R135) -/

/-- A word offset in bytes, sign-extended to the 32 bits of PC. -/
def wordOff {n : Nat} (off : BitVec n) : Word := off.signExtend 32 <<< 2

/-- A conditional branch. -/
def branch (p : DWord → DWord → Bool) (c : Nat) (ra rb : BitVec 5) (off : BitVec 16) (s : State) :
    Outcome :=
  .next (s.issue c (fun x => s.setCore c
    (if p (x.sreg ra) (x.sreg rb) then x.goto (x.pc + wordOff off) else x.retire)))

def execBeq (c : Nat) (ra rb : BitVec 5) (off : BitVec 16) (s : State) : Outcome :=
  branch (fun a b => decide (a = b)) c ra rb off s
def execBne (c : Nat) (ra rb : BitVec 5) (off : BitVec 16) (s : State) : Outcome :=
  branch (fun a b => decide (a ≠ b)) c ra rb off s
def execBlt (c : Nat) (ra rb : BitVec 5) (off : BitVec 16) (s : State) : Outcome :=
  branch (fun a b => a.slt b) c ra rb off s
def execBge (c : Nat) (ra rb : BitVec 5) (off : BitVec 16) (s : State) : Outcome :=
  branch (fun a b => !(a.slt b)) c ra rb off s
def execBltu (c : Nat) (ra rb : BitVec 5) (off : BitVec 16) (s : State) : Outcome :=
  branch (fun a b => a.ult b) c ra rb off s
def execBgeu (c : Nat) (ra rb : BitVec 5) (off : BitVec 16) (s : State) : Outcome :=
  branch (fun a b => !(a.ult b)) c ra rb off s

/-- The return address that JAL and JALR write. -/
def Core.link (x : Core) : DWord := (x.pc + 4).setWidth 64

def execJal (c : Nat) (off : BitVec 26) (s : State) : Outcome :=
  .next (s.issue c (fun x => s.setCore c ((x.setS 31 x.link).goto (x.pc + wordOff off))))

/-- JALR's target (R135). -/
def jalrTarget (a : DWord) (imm : BitVec 16) : DWord := (a + sext imm) &&& ~~~3

/-- JALR. A target beyond the 32 bits of PC lies outside segment 0: its fetch raises BOUNDS. -/
def execJalr (c : Nat) (rd ra : BitVec 5) (imm : BitVec 16) (s : State) : Outcome :=
  .next (s.issue c (fun x =>
    let t := jalrTarget (x.sreg ra) imm
    let s1 := s.setCore c ((x.setS rd x.link).goto (t.setWidth 32))
    if t.toNat < 2 ^ 32 then s1 else s1.fault c Fc.bounds t))

end Sys2Proof.Machine
end

