-- ==== Sys2Proof/Machine/Husk.lean ====
section
/-! DEFINITION. Husks (chapter 2): CRC-32C, code-length lists, canonical codes, encoding and decoding of
a block, and the package-merge of BUILD. -/

namespace Sys2Proof.Machine

/-! ## CRC-32C (R64) -/

/-- One bit of the reflected CRC. -/
def crcBit (c : Nat) : Nat := if c % 2 = 1 then (c / 2) ^^^ 0x82F63B78 else c / 2

/-- One byte. -/
def crcByte (c : Nat) (b : Byte) : Nat :=
  crcBit (crcBit (crcBit (crcBit (crcBit (crcBit (crcBit (crcBit (c ^^^ b.toNat))))))))

/-- CRC-32C of a byte sequence. -/
def crc32c (bs : Bytes) : Nat := (bs.foldl crcByte 0xFFFFFFFF) ^^^ 0xFFFFFFFF

/-! ## Code-length lists (R67 to R69) -/

/-- Length of a symbol. -/
def symLen (list : Bytes) (sym : Nat) : Nat :=
  let b := (list.getD (sym / 2) 0).toNat
  if sym % 2 = 0 then b % 16 else b / 16

/-- The 256 lengths. -/
def symLens (list : Bytes) : List Nat := (List.range 256).map (symLen list)

/-- A valid list (R68). -/
def listOk (list : Bytes) : Bool :=
  let l := symLens list
  l.all (fun n => decide (n ≤ 12)) && l.any (fun n => decide (n ≠ 0)) &&
    decide ((l.map (fun n => if n = 0 then 0 else 2 ^ (12 - n))).foldl (· + ·) 0 ≤ 4096)

/-- The symbols of length n, ascending. -/
def symsOf (list : Bytes) (n : Nat) : List Nat :=
  (List.range 256).filter (fun s => decide (symLen list s = n))

/-- first[n + 1], from first[1] = 0 (R69). -/
def firstCode (counts : List Nat) : Nat → Nat
  | 0 => 0
  | n + 1 => (firstCode counts n + counts.getD (n + 1) 0) * 2

/-- The canonical code of a list (R69). -/
def canon (list : Bytes) : Canon :=
  let syms := (List.range 13).map (fun n => if n = 0 then [] else symsOf list n)
  let count := syms.map List.length
  { count := count, syms := syms
    first := (List.range 13).map (fun n => if n = 0 then 0 else firstCode count (n - 1)) }

/-- The code of a symbol: its length and value; length 0 for none. -/
def symCode (list : Bytes) (k : Canon) (sym : Nat) : Nat × Nat :=
  let n := symLen list sym
  (n, k.first.getD n 0 + ((k.syms.getD n []).filter (fun x => decide (x < sym))).length)

/-! ## Sub-streams (R65, R66) -/

/-- Element size and number of coded sub-streams of an ELEM code; none for a reserved one. -/
def elemShape (elem : Nat) : Option (Nat × Nat) :=
  if elem ≤ 3 ∨ elem = 7 then some (1, 32)
  else if elem = 4 ∨ elem = 5 then some (2, 16)
  else if elem = 6 then some (4, 8)
  else none

/-- Block byte that byte `t` of sub-stream `k` maps onto, for element size `e`. -/
def blockIndex (e k t : Nat) : Nat :=
  if e = 1 then 128 * k + t
  else if e = 2 then (if k < 16 then 2 * (128 * k + t) + 1 else 2 * (128 * (k - 16) + t))
  else if k < 8 then 4 * (128 * k + t) + 3
  else 4 * (128 * ((k - 8) % 8) + t) + (k - 8) / 8

/-- The 128 bytes of sub-stream `k`. -/
def subBytes (e : Nat) (block : Bytes) (k : Nat) : Bytes :=
  (List.range 128).map (fun t => block.getD (blockIndex e k t) 0)

/-- The sub-stream and place of block byte `i`. -/
def subPlace (e i : Nat) : Nat × Nat :=
  if e = 1 then (i / 128, i % 128)
  else if e = 2 then (if i % 2 = 1 then (i / 2 / 128, i / 2 % 128) else (16 + i / 2 / 128, i / 2 % 128))
  else if i % 4 = 3 then (i / 4 / 128, i / 4 % 128)
  else (8 + 8 * (i % 4) + i / 4 / 128, i / 4 % 128)

/-- The n bits of a number, most significant first. -/
def msbBits (x : Nat) : Nat → List Bool
  | 0 => []
  | n + 1 => bitOf x n :: msbBits x n

/-- Pack eight bits into each byte, bit 7 first, padding with 0 (R63). The first argument bounds the
bytes written. -/
def packBits : Nat → List Bool → Bytes
  | 0, _ => []
  | n + 1, l =>
    if l.isEmpty then []
    else
      let b := (List.range 8).foldl (fun a i => 2 * a + natOf (l.getD i false)) 0
      BitVec.ofNat 8 b :: packBits n (l.drop 8)

/-- The bits of a run of bytes, bit 7 of each first. -/
def byteBits (bs : Bytes) : List Bool := bs.flatMap (fun b => msbBits b.toNat 8)

/-- A coded sub-stream's bits, none where a byte has no code. -/
def codeBits128 (list : Bytes) (k : Canon) (bs : Bytes) : Option (List Bool) :=
  bs.foldr (fun b acc =>
    match acc with
    | none => none
    | some l => let c := symCode list k b.toNat; if c.1 = 0 then none else some (msbBits c.2 c.1 ++ l)) (some [])

/-! ## Encoding (R60 to R64, R72) -/

/-- The sub-streams of a block: lengths in bits and padded bytes; none where a coded byte has no code. -/
def encodeSubs (list : Bytes) (k : Canon) (e c : Nat) (block : Bytes) : Nat → Option (List (Nat × Bytes))
  | 0 => some []
  | n + 1 =>
    match encodeSubs list k e c block n with
    | none => none
    | some l =>
      let bs := subBytes e block n
      if n < c then
        match codeBits128 list k bs with
        | none => none
        | some bits => some (l ++ [(bits.length, packBits 192 bits)])
      else some (l ++ [(1024, bs)])

/-- Bytes of zeros. -/
def zeros (n : Nat) : Bytes := List.replicate n 0

/-- The husk of a block, or none where it is stored raw (R72). -/
def encodeHusk (list : Bytes) (elem : Nat) (id : BitVec 16) (block : Bytes) : Option Bytes :=
  match elemShape elem with
  | none => none
  | some (e, c) =>
    match encodeSubs list (canon list) e c block 32 with
    | none => none
    | some subs =>
      let payload := subs.flatMap (·.2)
      let sec := 1 + (payload.length + 63) / 64
      if 60 < sec then none
      else
        let lens := (subs.foldr (fun x a => x.1 + 4096 * a) 0)
        let head := [0x10, BitVec.ofNat 8 elem] ++ leBytes 2 id.toNat ++ leBytes 48 lens ++
          leBytes 4 (crc32c list) ++ [BitVec.ofNat 8 sec] ++ zeros 3
        let body := payload ++ zeros (64 * (sec - 1) - payload.length)
        some (head ++ leBytes 4 (crc32c (head ++ body)) ++ body)

/-- Stored form of an encoded block: tag and bytes (R72). -/
def encodeBlock (list : Bytes) (elem : Nat) (id : BitVec 16) (block : Bytes) : Nat × Bytes :=
  match encodeHusk list elem id block with
  | some h => (h.length / 64, h)
  | none => (0x3F, block)

/-! ## Decoding (R70, R71) -/

/-- The lane procedure over the first L bits of a sub-stream: the symbols, none for HUSK_INVALID. -/
def laneDecode (k : Canon) : List Bool → Nat → Nat → List Nat → Option (List Nat)
  | [], _, n, out => if n = 0 ∧ out.length = 128 then some out.reverse else none
  | b :: r, code, n, out =>
    if out.length = 128 then none
    else
      let code' := 2 * code + natOf b
      let n' := n + 1
      let f := k.first.getD n' 0
      let c := k.count.getD n' 0
      if f ≤ code' ∧ code' - f < c then
        laneDecode k r 0 0 ((k.syms.getD n' []).getD (code' - f) 0 :: out)
      else if n' = 12 then none
      else laneDecode k r code' n' out

/-- One sub-stream's 128 bytes; none for HUSK_INVALID. -/
def subDecode (k : Canon) (coded : Bool) (len : Nat) (bs : Bytes) : Option Bytes :=
  if coded then
    let bits := byteBits bs
    if (bits.drop len).any (· = true) then none
    else (laneDecode k (bits.take len) 0 0 []).map (fun l => l.map (BitVec.ofNat 8))
  else if len = 1024 then some bs else none

/-- The length of sub-stream i (R61). -/
def subLen (h : Bytes) (i : Nat) : Nat := (fieldAt h 4 48 / 2 ^ (12 * i)) % 4096

/-- Payload bytes before sub-stream i (R62). -/
def subStart (h : Bytes) (i : Nat) : Nat :=
  (List.range i).foldl (fun a j => a + (subLen h j + 7) / 8) 0

/-- Every check of R70 that needs no stream decode: the header, the tail, the raw lengths. `crc` is the CRC-32C of
the stored list of the id. -/
def huskHeadOk (crc : Nat) (id : BitVec 16) (tag : Nat) (h : Bytes) : Bool :=
  match elemShape ((h.getD 1 0).toNat) with
  | none => false
  | some (_, c) =>
    let p := subStart h 32
    decide (h.getD 0 0 = 0x10) && decide (fieldAt h 57 3 = 0) &&
      decide ((h.getD 56 0).toNat = tag) && decide (tag = 1 + (p + 63) / 64) &&
      (sliceBytes h (64 + p) (64 * tag - (64 + p))).all (fun b => decide (b = 0)) &&
      (List.range 32).all (fun i => decide (i < c) || decide (subLen h i = 1024)) &&
      decide (fieldAt h 2 2 = id.toNat) && decide (fieldAt h 52 4 = crc)

/-- The CRC field agrees with the husk's bytes (R64). -/
def huskCrcOk (h : Bytes) : Bool := decide (fieldAt h 60 4 = crc32c (h.take 60 ++ h.drop 64))

/-- The sub-streams of a husk, decoded. -/
def decodeSubs (k : Canon) (c : Nat) (h : Bytes) : Nat → Option (List Bytes)
  | 0 => some []
  | n + 1 =>
    match decodeSubs k c h n with
    | none => none
    | some l =>
      match subDecode k (decide (n < c)) (subLen h n)
          (sliceBytes h (64 + subStart h n) ((subLen h n + 7) / 8)) with
      | none => none
      | some b => some (l ++ [b])

/-- Expand a husk with the arrays of its table: its 4,096 bytes, none for HUSK_INVALID (R70, R71). -/
def decodeWith (k : Canon) (crc : Nat) (id : BitVec 16) (tag : Nat) (h : Bytes) : Option Bytes :=
  if !(huskHeadOk crc id tag h) then none
  else
    match elemShape ((h.getD 1 0).toNat) with
    | none => none
    | some (e, c) =>
      match decodeSubs k c h 32 with
      | none => none
      | some subs => some ((List.range 4096).map (fun i =>
          (subs.getD (subPlace e i).1 []).getD (subPlace e i).2 0))

/-- Expand a husk with its list. -/
def decodeHusk (list : Bytes) (id : BitVec 16) (tag : Nat) (h : Bytes) : Option Bytes :=
  decodeWith (canon list) (crc32c list) id tag h

/-! ## Building a table (R87) -/

/-- An item of a level's list: its weight and the leaves within it. -/
structure Pkg where
  w    : Nat
  syms : List Nat
  deriving DecidableEq, Repr

/-- Insert a leaf after every leaf of equal or lower weight. -/
def insLeaf (p : Pkg) : List Pkg → List Pkg
  | [] => [p]
  | q :: r => if p.w < q.w then p :: q :: r else q :: insLeaf p r

/-- The leaves in ascending weight, equal weights in ascending byte value. -/
def leaves (h : Nat → Nat) : List Pkg :=
  (List.range 256).foldl (fun l s => insLeaf ⟨h s + 1, [s]⟩ l) []

/-- Packages of consecutive pairs; an odd item at the end is dropped. -/
def pairUp : List Pkg → List Pkg
  | a :: b :: r => ⟨a.w + b.w, a.syms ++ b.syms⟩ :: pairUp r
  | _ => []

/-- Merge two ascending lists, leaves first on a tie. The first argument bounds the length. -/
def mergePkg : Nat → List Pkg → List Pkg → List Pkg
  | 0, _, _ => []
  | _ + 1, [], q => q
  | _ + 1, p, [] => p
  | n + 1, a :: p, b :: q => if a.w ≤ b.w then a :: mergePkg n p (b :: q) else b :: mergePkg n (a :: p) q

/-- The list of level `n` + 1. -/
def levelList (lv : List Pkg) : Nat → List Pkg
  | 0 => lv
  | n + 1 => mergePkg 1024 lv (pairUp (levelList lv n))

/-- The code lengths BUILD derives from the counters h. -/
def buildLens (h : Nat → Nat) : List Nat :=
  let chosen := ((levelList (leaves h) 11).take 510).flatMap (·.syms)
  (List.range 256).map (fun s => chosen.count s)

/-- The 128-byte list of 256 lengths (R67). -/
def packLens (l : List Nat) : Bytes :=
  (List.range 128).map (fun k => BitVec.ofNat 8 (l.getD (2 * k) 0 + 16 * l.getD (2 * k + 1) 0))

end Sys2Proof.Machine
end

