-- ==== Sys2Proof/Machine/Tier.lean ====
section
/-! DEFINITION. Tracts as accesses meet them (R36, R41, R49, R52): placement state, the tract-map cache,
held accesses, stalls, and the near pool's accounts (R27). -/

namespace Sys2Proof.Machine

/-! ## Tracts and pins -/

/-- Blocks of a tract (R22). -/
def tractBlocks : Nat := 512

def State.tract (s : State) (h : Word) (t : Nat) : Tract := Table.get {} s.place.tracts (tractKey h t)

def State.setTract (s : State) (h : Word) (t : Nat) (x : Tract) : State :=
  { s with place := { s.place with tracts := Table.put {} s.place.tracts (tractKey h t) x } }

/-- The extent is TIERED (R26). -/
def State.tiered (s : State) (h : Word) : Bool :=
  match s.extent h with | some e => decide (e.kind = .tiered) | none => false

/-- NEAR, or NEAR_HOMED, which satisfies every rule that asks for NEAR (R36). -/
def Tract.isNear (x : Tract) : Bool := decide (x.state = .near ∨ x.state = .nearHomed)

/-- The tract occupies a near-pool tract. -/
def Tract.occupies (x : Tract) : Bool := decide (x.state ≠ .deep)

/-- Pin count of a party on a tract, and the total over parties (R31). -/
def State.pin (s : State) (h : Word) (t : Nat) (p : BitVec 8) : Nat :=
  Table.get 0 s.place.pins (pinKey (tractKey h t) p)

def State.setPin (s : State) (h : Word) (t : Nat) (p : BitVec 8) (n : Nat) : State :=
  { s with place := { s.place with pins := Table.put 0 s.place.pins (pinKey (tractKey h t) p) n } }

def State.totalPins (s : State) (k : Nat) : Nat :=
  (s.place.pins.filter (fun e => decide (e.1 / 256 = k))).foldl (fun a e => a + e.2) 0

/-- Pin-directory entries of a party, and its limit (R31). -/
def State.pinEntries (s : State) (p : BitVec 8) : Nat :=
  (s.place.pins.filter (fun e => decide (e.1 % 256 = p.toNat))).length
def State.pinLimitOf (s : State) (p : BitVec 8) : Nat := Table.get 0x100000 s.place.pinLimit p.toNat

/-! ## The near pool (R27) -/

/-- The tract has left the tier its extent draws on: spilled to a peer, or NEAR_HOMED (R419, R421). -/
def Tract.away (x : Tract) : Bool := (x.spilled.isSome && !x.moving) || decide (x.state = .nearHomed)

/-- Tracts that the extents of a kind draw. -/
def State.kindTracts (s : State) (k : ExtKind) : Nat :=
  let l := s.ten.extents.filter (fun e => decide (e.2.kind = k))
  let away := (s.place.tracts.filter (fun t => t.2.away && l.any (fun e => decide (e.1 = t.1 / 1048576)))).length
  l.foldl (fun a (e : Nat × Extent) => a + e.2.tracts) 0 - away

/-- Reservations of the installed windows. -/
def State.reservedTracts (s : State) : Nat := s.place.windows.foldl (fun a w => a + w.2.reserved) 0

/-- The near pool. -/
def State.nearPool (s : State) : Nat :=
  s.place.nearUsable - s.kindTracts .pinnedNear - s.reservedTracts

/-- Near-pool tracts occupied: near copies that draw on no window's reservation. -/
def State.poolUsed (s : State) : Nat :=
  (s.place.tracts.filter (fun e => e.2.occupies && decide (e.2.window = none))).length

/-- Free near-pool tracts. -/
def State.poolFree (s : State) : Nat := s.nearPool - s.poolUsed

/-- Deep tracts drawn by extents (R26), and those free. -/
def State.deepFree (s : State) : Nat :=
  s.place.deepUsable - s.kindTracts .pinnedDeep - s.kindTracts .tiered

/-- Insert into a list kept in rising order of `f`, after its equals. -/
def insBy {α : Type} (f : α → Nat) (e : α) (l : List α) : List α :=
  let upTo : α → Bool := fun q => decide (f q ≤ f e)
  l.takeWhile upTo ++ e :: l.dropWhile upTo

/-- A list in rising order of `f`, equals in their order. -/
def sortBy {α : Type} (f : α → Nat) (l : List α) : List α := l.foldl (fun acc e => insBy f e acc) []

/-- The events of a count enter the queue in ascending unit kind and then ascending instance (R452). -/
def Evt.enterAll (e : Evt) : Evt :=
  (sortBy (fun (a : EvIn) => 256 * a.unit.toNat + a.inst % 256) e.arrived).foldl Evt.enter { e with arrived := [] }

/-- NEAR tracts that eviction may take, least recently accessed first (R32, R39): their keys. -/
def State.evictable (s : State) : List Nat :=
  let l := s.place.tracts.filter (fun e => decide (e.2.state = .near) && !e.2.moving && decide (s.totalPins e.1 = 0))
  (sortBy (fun e => e.2.access) l).map (·.1)

/-- Change a tract by its key. -/
def State.modTract (s : State) (k : Nat) (f : Tract → Tract) : State :=
  { s with place := { s.place with tracts := Table.modify {} s.place.tracts k f } }

/-- The placement engine needs a tract's map entry: one that is neither cached nor on its way is fetched, a miss
(R41). -/
def State.needEntry (s : State) (k : Nat) : State :=
  let x := Table.get {} s.place.tracts k
  if x.cached || x.fetching then s
  else
    let s1 := s.modTract k (fun y => { y with fetching := true })
    { s1 with place := { s1.place with tmapMisses := s1.place.tmapMisses + 1 } }

/-- Start writing back the first `n` tracts eviction may take; a write-back whose tract-map entry is not cached
fetches it first. -/
def State.evictSome (s : State) (n : Nat) (except : List Nat) : State :=
  ((s.evictable.filter (fun k => !(except.contains k))).take n).foldl
    (fun st k => (st.modTract k (fun x => { x with state := .evicting, pending := false, began := s.now })).needEntry k) s

/-! ## Window positions (R43, R45) -/

/-- The entry of position `p` of a window; none past the end of a ONCE sequence. -/
def LayerWindow.entryOf (w : LayerWindow) (p : Nat) : Option WinEntry :=
  let n := w.entries.length
  match w.mode with
  | .once => w.entries[p]?
  | .cycle => w.entries[p % n]?
  | .bounce => let q := p % (2 * n); w.entries[if q < n then q else 2 * n - 1 - q]?

/-- Positions held whose promotion has not ended (R49). -/
def LayerWindow.undone (w : LayerWindow) : List Nat :=
  let lo := max w.done w.released
  (List.range (w.requested - lo)).map (· + lo)

/-- Entry `e` holds tract `t` of extent `h`. -/
def WinEntry.holds (e : WinEntry) (h : Word) (t : Nat) : Bool :=
  decide (e.handle = h) && decide (e.first ≤ t) && decide (t < e.first + e.count)

/-- The window and position whose undone promotion makes a read of the tract wait (R49). -/
def State.winHold (s : State) (h : Word) (t : Nat) : Option (Nat × Nat) :=
  s.place.windows.findSome? (fun w =>
    (w.2.undone.find? (fun p => match w.2.entryOf p with | some e => e.holds h t | none => false)).map
      (fun p => (w.1, p)))

/-- The gate of a position is enabled and not open for the target it recorded (R45, R266). -/
def State.sourceClosed (s : State) (w : LayerWindow) (p : Nat) : Bool :=
  match w.entryOf p with
  | some e =>
    match e.source with
    | some g =>
      match w.targets.find? (fun x => decide (x.1 = p)) with
      | some x => !(s.gateMet g x.2)
      | none => !(s.gateMet g (s.gate g).t)
    | none => false
  | none => false

/-- Class label `c` is owned by party `p` (R273). -/
def State.ownsClass (s : State) (p : BitVec 8) (c : BitVec 6) : Bool :=
  let q := Table.get {} s.qos.classes c.toNat
  q.owned && decide (q.party = p)

/-- The cause a window stall is charged to (R52). -/
def State.stallCauseOf (s : State) (w : LayerWindow) (p : Nat) (h : Word) (t : Nat) : Nat :=
  let rebuilding := s.comp.recovering.any (fun r => decide (r.2 = .rebuild) &&
    (match w.entryOf p with
     | some e => decide (extBlkKey e.handle (e.first * 512) ≤ r.1) &&
         decide (r.1 < extBlkKey e.handle ((e.first + e.count) * 512))
     | none => false))
  if s.sourceClosed w p then 1
  else if w.pinWait && decide (p = w.done) then 5
  else if (s.tract h t).fetching then 4
  else if rebuilding || s.rel.rebuilds.any (fun r => r.begun && !r.ended && decide (16 ≤ r.stack)) then 2
  else if (Table.get {} s.qos.classes w.cls.toNat).demNow || !(s.ownsClass w.party w.cls) then 3
  else 0

/-- A read begins to wait under R49: one stall per tract.
(DEDUCED, assumption 72.) -/
def State.startStall (s : State) (h : Word) (t : Nat) : State :=
  match s.winHold h t with
  | none => s
  | some (wn, p) =>
    let k := tractKey h t
    if s.place.stalls.any (fun x => decide (x.tract = k)) then s
    else
      let c := s.stallCauseOf (Table.get ⟨0, 0, [], 0, .once, none, 0, 0, 0, false, [], [], 0, false, none⟩ s.place.windows wn) p h t
      { s with place := { s.place with stalls := s.place.stalls ++ [⟨k, wn, c, s.now, none⟩] } }

/-- Stalls selected by `p` end: one event and the length in counts each (R52). -/
def State.endStalls (s : State) (p : Stall → Bool) : State :=
  let add := fun (m : Table StallCount) (x : Stall) =>
    Table.modify {} m (x.window * 8 + x.cause) (fun c =>
      { events := c.events + 1, counts := c.counts + BitVec.ofNat 48 (s.now - x.start) })
  { s with place := { s.place with
      stallCount := (s.place.stalls.filter p).foldl add s.place.stallCount
      stalls := s.place.stalls.filter (fun x => !(p x)) } }

/-! ## Access to extents -/

/-- An access to a tract: extent, tract, write, the number of blocks of the tract it names and the first of them. -/
structure Acc where
  h     : Word
  t     : Nat
  write : Bool
  blocks : Nat
  lo    : Nat
  deriving DecidableEq, Repr

/-- Blocks of tract `t` that the bytes [off, off + len) touch. -/
def blocksIn (off len t : Nat) : Nat :=
  let lo := max off (2097152 * t)
  let hi := min (off + len) (2097152 * (t + 1))
  if hi ≤ lo then 0 else (hi - 1) / 4096 - lo / 4096 + 1

/-- The accesses of a run of bytes. -/
def accsOf (h : Word) (off len : Nat) (write : Bool) : List Acc :=
  if len = 0 then []
  else (List.range ((off + len - 1) / 2097152 - off / 2097152 + 1)).map
    (fun i => ⟨h, off / 2097152 + i, write, blocksIn off len (off / 2097152 + i),
      if i = 0 then off / 4096 % 512 else 0⟩)

/-- The tract-map entry of the tract is on die, where its extent has one (R41). -/
def State.mapped (s : State) (h : Word) (t : Nat) : Bool := !(s.tiered h) || (s.tract h t).cached

/-- Some block of the tract is being read again or rebuilt (R89). -/
def State.tractRecovering (s : State) (h : Word) (t : Nat) : Bool :=
  s.comp.recovering.any (fun r => decide (r.1 / 512 = extBlkKey h (t * 512) / 512))

/-- The tract has been spilled: its reads and writes are the peer's (R421). -/
def Tract.isSpilled (x : Tract) : Bool := x.spilled.isSome && !x.moving

/-- The access must wait: for its tract-map entry, for a window's promotion, as a held write, or for
the recovery of a block, or for the peer that a spilled tract is read from. -/
def State.mustWait (s : State) (a : Acc) : Bool :=
  !(s.mapped a.h a.t) || s.tractRecovering a.h a.t || (a.write && (s.tract a.h a.t).moving) ||
    (!a.write && (s.tract a.h a.t).isSpilled && decide ((s.tract a.h a.t).peer ≠ .got)) ||
    (s.tiered a.h &&
      (let x := s.tract a.h a.t
       if a.write then decide (x.state = .promoting ∨ x.state = .evicting)
       else !x.isNear && (s.winHold a.h a.t).isSome))

/-- No access of the list waits. -/
def State.free_ (s : State) (l : List Acc) : Bool := !(l.any s.mustWait)

/-- Sources of R283 step 1, by number: host ports, fabric ports, pods, movers. -/
def srcHost (p : Nat) : Nat := p
def srcFab (p : Nat) : Nat := 4 + p
def srcPods : Nat := 20
def srcMovers : Nat := 21

/-- The deadline of a PEER request at this module: the counts left when it was sent, from its arrival (R274). -/
def Serving.deadline (q : Serving) : Option Nat :=
  let left := q.pkt.hdr.toNat / 2 ^ 160 % 2 ^ 32
  if left = 0 then none else some (q.arrived + left)

/-- The request is still under way. -/
def State.alive (s : State) (w : Who) : Bool :=
  match w with
  | .desc g => s.chan.descs.any (fun e => decide (e.2.go = g) && decide (e.2.phase ≠ .ended))
  | .block c o => (s.core c).blks.any (fun r => decide (r.order = o))
  | .peer a t => s.fab.serving.any (fun q => decide (q.pkt.hdr.toNat / 2 ^ 32 % 4096 = a ∧ q.pkt.hdr.toNat / 2 ^ 96 % 2 ^ 32 = t))
  | .program k => (Table.find s.pods.programs k).isSome

/-- An earlier write of the same source to the access's tract is held, so that the access waits behind it (R36).
(DEDUCED, assumption 121.) -/
def State.behind (s : State) (src : Nat) (who : Who) (l : List Acc) : Bool :=
  l.any (fun a => (s.place.line.takeWhile (fun x => !(decide (x.src = src ∧ x.who = who)))).any (fun x =>
    decide (x.src = src ∧ x.key = tractKey a.h a.t) && s.alive x.who))

/-- The deadline of the request that an access is made for (R274): of a program's, its LAUNCH's; of a PEER request, the
one it carried, counted from its arrival. -/
def State.deadlineOf (s : State) (w : Who) : Option Nat :=
  let of := fun (k : Nat) => match Table.find s.pods.programs k with
    | some g => (s.desc g.desc).bind Desc.deadline
    | none => none
  match w with
  | .desc g => (s.chan.descs.find? (fun e => decide (e.2.go = g))).bind (fun e => e.2.deadline)
  | .block c _ => (match (s.pod (c / 8)).prog with | some k => of k | none => none)
  | .peer a t => (s.fab.serving.find? (fun q => decide (q.pkt.hdr.toNat / 2 ^ 32 % 4096 = a ∧ q.pkt.hdr.toNat / 2 ^ 96 % 2 ^ 32 = t))).bind
      Serving.deadline
  | .program k => of k

/-- The stalls of the reads that wait take the earliest effective deadline of those reads: the request's own, or its
source's latency target from now (R283). -/
def State.urge (s : State) (src : Nat) (who : Who) (l : List Acc) : State :=
  let t := (Table.get 0 s.qos.latTarget src).toNat
  let own := s.deadlineOf who
  let d := if t = 0 then own else match own with | some x => some (min x (s.now + t)) | none => some (s.now + t)
  let keys := (l.filter (fun a => !a.write && s.mustWait a)).map (fun a => tractKey a.h a.t)
  { s with place := { s.place with stalls := s.place.stalls.map (fun x =>
      if keys.contains x.tract then
        { x with urgent := match x.urgent, d with | some a, some b => some (min a b) | none, b => b | a, none => a }
      else x) } }

/-- What a waiting access leaves behind: its tract-map fetch, counted once, and its window stall.
(DEDUCED, assumption 72.) -/
def State.waitOn (s : State) (a : Acc) : State :=
  let s1 := if s.mapped a.h a.t then s else s.needEntry (tractKey a.h a.t)
  if !a.write && s1.tiered a.h && !(s1.tract a.h a.t).isNear then s1.startStall a.h a.t else s1

/-- The state in which the accesses of the list wait. -/
def State.waitAll (s : State) (l : List Acc) : State := (l.filter s.mustWait).foldl State.waitOn s

/-- The writes of the list that wait take their place in the order of their source (R36). -/
def State.holdWrites (s : State) (src : Nat) (who : Who) (l : List Acc) : State :=
  let new := (l.filter (fun a => a.write && s.mustWait a)).map (fun a => HeldWrite.mk src who (tractKey a.h a.t))
  { s with place := { s.place with line := s.place.line ++ new.filter (fun x => !(s.place.line.contains x)) } }

/-- The spilled tracts that the requester's reads wait for are asked for (R421). -/
def State.askSpilled (s : State) (who : Who) (l : List Acc) : State :=
  (l.filter (fun a => !a.write)).foldl (fun (st : State) a =>
    let x := st.tract a.h a.t
    if x.isSpilled && decide (x.peer = .idle) then st.setTract a.h a.t { x with peer := .ask who a.lo a.blocks } else st) s

/-- The accesses of a requester wait: what each leaves behind, its reads' urgency, its writes' place in the order. -/
def State.waiting (s : State) (src : Nat) (who : Who) (l : List Acc) : State :=
  (((s.waitAll l).urge src who l).holdWrites src who l).askSpilled who l

/-- A tract is accessed at count `now`: the blocks a read names are its read accesses of the regulation period
(R40). (DESIGN CHOICE, assumption 119.) -/
def Tract.touch (x : Tract) (now : Nat) (a : Acc) : Tract :=
  let base := if x.period = now / 4096 then x.reads else 0
  { x with access := now, period := now / 4096
           reads := if !a.write && decide (x.state = .deep) then base + a.blocks else base }

/-- The accesses are made; a read from a spill target serves one access. -/
def State.touchAll (s : State) (l : List Acc) : State :=
  l.foldl (fun st a =>
    let x := st.tract a.h a.t
    let y := if x.isSpilled && !a.write then { x with peer := .idle } else x
    if st.tiered a.h then st.setTract a.h a.t (y.touch st.now a)
    else if x.isSpilled then st.setTract a.h a.t y else st) s

/-- A block was written: in NEAR its dirty bit is set (R36). -/
def State.dirtyBlk (s : State) (h : Word) (blk : Nat) : State :=
  let x := s.tract h (blk / 512)
  if s.tiered h && decide (x.state = .near) then
    s.setTract h (blk / 512) { x with dirty := x.dirty ||| (1#512 <<< (blk % 512)) }
  else s

/-- The extent is read-only-degraded (R422). -/
def State.readOnly (s : State) (h : Word) : Bool :=
  match s.extent h with | some e => e.readOnly | none => false

/-- A block of a spilled tract was written: it is to cross to the peer (R421). -/
def State.crossBlk (s : State) (h : Word) (blk : Nat) : State :=
  let k := extBlkKey h blk
  if (s.tract h (blk / 512)).isSpilled && !(s.place.spillOut.contains k) then
    { s with place := { s.place with spillOut := s.place.spillOut ++ [k] } }
  else s

/-- Store a block whole in an extent, wherever it is placed; a read-only-degraded extent takes no write
(R422). -/
def State.storeBlk (s : State) (h : Word) (blk : Nat) (w : Word) (bytes : Bytes) : State :=
  if s.readOnly h then s else ((s.putBlk h blk w bytes).dirtyBlk h blk).crossBlk h blk

/-- The accesses of the list are made, and the source's order moves on. -/
def State.granted (s : State) (src : Nat) (who : Who) (l : List Acc) : State :=
  let s1 := s.touchAll l
  { s1 with place := { s1.place with line := s1.place.line.filter (fun x =>
      !(decide (x.src = src ∧ x.who = who)) && s1.alive x.who) } }

/-- Nothing makes the accesses of the list wait, for a requester of a source. -/
def State.granting (s : State) (src : Nat) (who : Who) (l : List Acc) : Bool := s.free_ l && !(s.behind src who l)

/-- Run `f` on the accesses of a requester of a source, or wait. -/
def State.withAccess (s : State) (src : Nat) (who : Who) (l : List Acc) (f : State → State) : State :=
  if s.granting src who l then f (s.granted src who l) else s.waiting src who l

end Sys2Proof.Machine
end

