-- ==== Sys2Proof/Machine/Slots.lean ====
section
/-! DEFINITION. Address slots (R229, R230) and the module memory they reach: blocks of extents and pod
stores in stored and plain form. -/

namespace Sys2Proof.Machine

/-- An address operand (R229). -/
inductive Slot where
  | host (addr : DWord) (at_ : Bool)
  | ext (h : Word) (off : Nat)
  | peer (did : BitVec 12) (h : Word) (off : Nat)
  | pod (p off : Nat)
  deriving DecidableEq, Repr

/-- The address slot at byte `lo` of a descriptor; none where a reserved bit is not 0. -/
def Desc.slot (x : Desc) (lo : Nat) : Option Slot :=
  let a := x.field lo 8
  let b := x.field (lo + 8) 4
  let t := x.field (lo + 12) 2
  if x.field (lo + 14) 2 ≠ 0 then none
  else match t / 2 ^ 14 with
    | 0 => if b = 0 ∧ t % 2 ^ 13 = 0 then some (.host (BitVec.ofNat 64 a) (bitOf t 13)) else none
    | 1 => if a < 2 ^ 48 ∧ t % 2 ^ 14 = 0 then some (.ext (BitVec.ofNat 32 b) a) else none
    | 2 => if a < 2 ^ 48 ∧ bitsOf t 13 12 = 0 then some (.peer (BitVec.ofNat 12 t) (BitVec.ofNat 32 b) a) else none
    | _ => if a < 2 ^ 22 ∧ b < 128 ∧ t % 2 ^ 14 = 0 then some (.pod b a) else none

/-- A PEER operand that names this module is EXT (R230). -/
def State.resolve (s : State) (x : Slot) : Slot :=
  match x with
  | .peer d h o => if s.fab.did = some d then .ext h o else x
  | _ => x

/-- Offset of a slot within its memory. -/
def Slot.off : Slot → Nat
  | .host a _ => a.toNat
  | .ext _ o => o
  | .peer _ _ o => o
  | .pod _ o => o

def Slot.isHost : Slot → Bool | .host _ _ => true | _ => false
def Slot.isExt : Slot → Bool | .ext _ _ => true | _ => false
def Slot.isPeer : Slot → Bool | .peer _ _ _ => true | _ => false
def Slot.isPod : Slot → Bool | .pod _ _ => true | _ => false

/-- The slot `n` bytes further on. -/
def Slot.plus (x : Slot) (n : Nat) : Slot :=
  match x with
  | .host a t => .host (a + BitVec.ofNat 64 n) t
  | .ext h o => .ext h (o + n)
  | .peer d h o => .peer d h (o + n)
  | .pod p o => .pod p (o + n)

/-! ## Transit buffers a descriptor needs (R223) -/

/-- The operand reaches host memory or a peer. -/
def Slot.outside (x : Slot) : Bool := x.isHost || x.isPeer

/-- Some slot at the given bytes reaches outside. -/
def State.reachesOut (s : State) (x : Desc) (los : List Nat) : Bool :=
  los.any (fun lo => match x.slot lo with | some sl => (s.resolve sl).outside | none => false)

/-- Buffers of 16 KiB, at most eight, that the data phase of a descriptor holds: four stored blocks or
16 KiB of plain bytes each; none where no operand reaches outside. -/
def State.buffersFor (s : State) (x : Desc) : Nat :=
  let blocks := fun (n : Nat) => min 8 ((n + 3) / 4)
  let bytes := fun (n : Nat) => min 8 ((n + 16383) / 16384)
  let out := fun (los : List Nat) (n : Nat) => if s.reachesOut x los then n else 0
  match x.opcode with
  | 0x01 => out [24, 40] (if bitOf x.subop 0 then bytes (x.field 56 8) else blocks (x.field 56 8 / 4096))
  | 0x02 => out [24, 40] (blocks (x.field 56 4))
  | 0x03 => out [24, 40] (blocks (x.field 56 4))
  | 0x14 => if x.subop = 0 then out [40] (bytes (x.field 56 4)) else 0
  | 0x18 => out [24, 40] (blocks (x.field 60 4))
  | 0x19 => out [24, 40] (blocks (x.field 60 4))
  | 0x20 => if x.field 56 2 = 0 then 0 else out [32] 1
  | 0x28 => if x.subop = 0 then out [40] 1 else 0
  | 0x38 => 1
  | 0x40 => out [40] (max 1 (bytes (x.field 56 4)))
  | 0x41 => out [40] (max 1 (bytes (x.field 56 4)))
  | 0x42 => out [40] (max 1 (bytes (x.field 56 4)))
  | 0x43 => out [40] (max 1 (bytes (x.field 56 4)))
  | 0x44 => out [40] (max 1 (bytes (x.field 56 4)))
  | 0x45 => out [40] (max 1 (bytes (x.field 56 4)))
  | _ => 0

/-- The descriptor has the buffer its data phase needs to begin (R224). -/
def State.hasBuf (s : State) (x : Desc) : Bool := decide (s.buffersFor x = 0) || decide (0 < x.bufs)

/-! ## Reading blocks -/

/-- Expand a stored form (R71, R98). -/
def State.expand (s : State) (w : Word) (stored : Bytes) : BlkRead :=
  if mwPoison w then .poisoned
  else if mwTag w = 0x3F then .bytes stored
  else match s.table (mwId w) with
    | some e => (match decodeHusk e.list (mwId w) (mwTag w) stored with
      | some b => .bytes b
      | none => .invalid)
    | none => .invalid

/-- Metadata word and stored bytes of the block at a module slot's offset `off` (a multiple of
4,096). -/
def State.slotWord (s : State) (x : Slot) : Word :=
  match x with
  | .ext h o => s.blkMeta h (o / 4096)
  | .pod p o => s.posWord (podKey p o)
  | _ => rawMeta

def State.slotStored (s : State) (x : Slot) : Bytes :=
  match x with
  | .ext h o => s.blkBytes h (o / 4096)
  | .pod p o => s.posBytes (podKey p o)
  | _ => []

/-- The stored form of a block as it is read: of a poisoned block no sector (R58). -/
def State.slotForm (s : State) (x : Slot) : Bytes := if mwPoison (s.slotWord x) then [] else s.slotStored x

/-- Key of the block that holds a module slot's offset. -/
def Slot.key (x : Slot) : Nat :=
  match x with
  | .ext h o => 2 * extBlkKey h (o / 4096)
  | .pod p o => 2 * (podKey p o / 4096) + 1
  | _ => 0

/-- The module slot of a key. -/
def keySlot (k : Nat) : Slot :=
  if k % 2 = 0 then .ext (BitVec.ofNat 32 (k / 2 ^ 37)) (k / 2 % 2 ^ 36 * 4096)
  else .pod (k / 2048) (k / 2 % 1024 * 4096)

/-- What an egress bank has delivered of a block to the request that takes its blocks up now (R112). -/
def State.delivered (s : State) (x : Slot) : Option BlkRead :=
  s.comp.taker.bind (fun w => (s.comp.expanded.find? (fun e => decide (e.reader = w ∧ e.key = x.key))).map Expanded.read)

/-- The plain bytes of the block that holds the slot's offset. -/
def State.slotPlain (s : State) (x : Slot) : BlkRead :=
  (s.delivered x).getD (s.expand (s.slotWord x) (s.slotStored x))

/-- The ids that a run of blocks names, for the queued count: the header of a poisoned block is not read (R58, R78). -/
def State.idsOf (s : State) (x : Slot) (blocks : Nat) : List (BitVec 16) :=
  (((List.range blocks).map (fun k => s.slotWord (x.plus (4096 * k)))).filter (fun w => !(mwPoison w) &&
    decide (mwId w ≠ 0))).map mwId |>.eraseDups

/-! ## Writing blocks (R73) -/

/-- Write a stored form at a module slot: metadata word and sectors. -/
def State.slotStore (s : State) (x : Slot) (w : Word) (stored : Bytes) : State :=
  match x with
  | .ext h o => s.storeBlk h (o / 4096) w stored
  | .pod p o => s.putPos (podKey p o) w stored
  | _ => s

/-- The outcome of a plain write into a block: written, skipped as poisoned (R75), or stopped by a husk
that does not decode. -/
inductive PlainWrite where
  | ok (s : State)
  | poisoned
  | invalid

/-- Write plain bytes within one block at a module slot: raw where they cover the block, merged in a
raw block, a husk expanded and merged (R73, R75). A pod position written to becomes raw. -/
def State.slotWrite (s : State) (x : Slot) (bytes : Bytes) : PlainWrite :=
  let o := x.off % 4096
  let base := match x with
    | .ext h a => Slot.ext h (a - a % 4096)
    | .pod p a => Slot.pod p (a - a % 4096)
    | y => y
  if bytes.length = 4096 then .ok (s.slotStore base rawMeta bytes)
  else
    let w := s.slotWord base
    if mwPoison w then .poisoned
    else match s.slotPlain base with
      | .poisoned => .poisoned
      | .invalid => .invalid
      | .bytes old =>
        .ok (s.slotStore base rawMeta (old.take o ++ bytes ++ old.drop (o + bytes.length)))

/-- The accesses of a run at a slot. -/
def Slot.accs (x : Slot) (len : Nat) (write : Bool) : List Acc :=
  match x with
  | .ext h o => accsOf h o len write
  | _ => []

/-- A pod runs a program of the party (R230). -/
def State.podRuns (s : State) (p : Nat) (party : BitVec 8) : Bool :=
  match s.progOf p with
  | some (_, g) => decide (g.party = party) && decide ((s.pod p).state = .running)
  | none => false

/-- A POD destination whose pod runs no program of the party (R230). -/
def State.podDenied (s : State) (x : Desc) (sl : Slot) : Bool :=
  match sl with | .pod p _ => !(s.podRuns p (x.party.getD 0)) | _ => false

/-! ## Outcome of block-wise work (R239) -/

/-- Progress of block-wise or byte-wise work: units written from the start, the first failure, whether
a poisoned block was met, and the status that stopped it. -/
structure Prog where
  done : Nat := 0
  bad  : Option Nat := none
  poisoned : Bool := false
  stop : Option Status := none
  deriving DecidableEq, Repr

/-- A poisoned unit `i`: noted; the others go on (R90). -/
def Prog.poison (p : Prog) (i : Nat) : Prog :=
  { p with poisoned := true, bad := some (p.bad.getD i) }

/-- The work stops at unit `i` with a status. -/
def Prog.halt (p : Prog) (i : Nat) (st : Status) : Prog :=
  { p with stop := some st, bad := some (p.bad.getD i) }

/-- Status of ended work (R241 steps 5 and 6). -/
def Prog.status (p : Prog) : Status :=
  match p.stop with
  | some st => st
  | none => if p.poisoned then St.poisoned else St.ok

/-- DETAIL1 of ended work: the first failing unit, all ones if none. -/
def Prog.d1 (p : Prog) : DWord :=
  match p.bad with | some i => BitVec.ofNat 64 i | none => allOnes

/-! ## Writes to host memory (R214, R230) -/

/-- Translation cache entries per port. -/
def atcSize : Nat := 8192

/-- The 4 KiB page of an address. -/
def pageOf (a : DWord) : DWord := a &&& ~~~ 0xFFF#64

/-- The page's translation is cached. -/
def HostPort.cachePage (h : HostPort) (a : DWord) : HostPort :=
  if !h.atsEn || h.atc.contains (pageOf a) then h
  else { h with atc := (h.atc ++ [pageOf a]).drop (h.atc.length + 1 - atcSize) }

/-- A write to host memory at the descriptor's HOST destination: the port transmits it, as a translated request where
AT is 1 and ATS is enabled (R230), unless the channel has lost its port (R214). -/
def State.hostWrite (s : State) (x : Desc) (addr : DWord) (bytes : Bytes) : State :=
  let p := (s.ch x.chan).port.toNat
  let h := s.hport p
  let t := (match x.slot 40 with | some (.host _ t) => t | _ => false) && h.atsEn
  if x.cut then s
  else (if t then s.setHport p (h.cachePage addr) else s).send (.write p addr x.pasid t bytes)

end Sys2Proof.Machine
end

