-- ==== Sys2Proof/Machine/Egress.lean ====
section
/-! DEFINITION. Table slots and queues of the decode banks, and the expansion of husks by egress banks for the requests
that need plain bytes (R79, R88, R95 to R99, R106 to R113). -/

namespace Sys2Proof.Machine

/-! ## Table slots (R106 to R109) -/

/-- Key of a bank: pod banks 2p + b, egress banks 1000 + n. -/
def bankKey : BankRef → Nat | .pod n => n | .egress n => 1000 + n

def State.bank (s : State) (b : Nat) : Bank := Table.get {} s.comp.banks b
def State.setBank (s : State) (b : Nat) (x : Bank) : State :=
  { s with comp := { s.comp with banks := Table.put {} s.comp.banks b x } }

/-- Slots of a bank (R106). -/
def bankSlots (b : Nat) : Nat := if b < 1000 then 16 else 64

/-- A block of the bank's queue names the id (R79). -/
def Bank.pins (x : Bank) (id : BitVec 16) : Bool :=
  x.queue.any (fun q => decide (mwTag q.word ≠ 0x3F) && decide (mwId q.word = id))

/-- The slot a fill takes: a free one, or the least recently used that is not pinned (R108). -/
def Bank.victim (x : Bank) : Option BankSlot :=
  (x.slots.filter (fun t => !(x.pins t.id))).foldl (fun a t =>
    match a with | none => some t | some u => if t.used < u.used then some t else a) none

/-- Look up an id when a block is queued: a hit is used now, a miss starts a fill (R107). -/
def Bank.lookup (x : Bank) (cap : Nat) (id : BitVec 16) : Bank :=
  let y := { x with clock := x.clock + 1 }
  if x.slots.any (fun t => decide (t.id = id)) then
    { y with slots := x.slots.map (fun t => if t.id = id then { t with used := x.clock } else t) }
  else
    let fresh : BankSlot := { id := id, filling := true, used := x.clock }
    let y := { y with misses := x.misses + 1 }
    if x.slots.length < cap then { y with slots := x.slots ++ [fresh] }
    else match x.victim with
      | some v => { y with slots := x.slots.map (fun t => if t.id = v.id then fresh else t) }
      | none => y

/-- The bank holds the id ready for decoding. -/
def Bank.ready (x : Bank) (w : Word) : Bool :=
  decide (mwTag w = 0x3F) || x.slots.any (fun t => decide (t.id = mwId w) && !t.filling)

/-- Queue a block: its tag is read, a poisoned one stops there, a husk's table is looked up and its slot
pinned (R105, R107). -/
def State.queueBlk (s : State) (b : Nat) (q : BankBlock) : State :=
  let x := s.bank b
  let q' := if mwPoison q.word then { q with phase := .stopped Fc.poison.toNat } else q
  let y := if mwTag q.word = 0x3F ∨ mwPoison q.word then x else x.lookup (bankSlots b) (mwId q.word)
  s.setBank b { y with queue := y.queue ++ [q'] }

/-- A block leaves a bank's queue; its slot may unpin and its id become FREE (R83). -/
def State.dropBlk (s : State) (b : Nat) (q : BankBlock) : State :=
  let s1 := s.setBank b { s.bank b with queue := (s.bank b).queue.erase q }
  if mwId q.word ≠ 0 then { s1 with comp := s1.comp.freeIfUnused (mwId q.word) } else s1

/-- A slot filled with a table's list. -/
def BankSlot.fill (t : BankSlot) (list : Bytes) : BankSlot :=
  { t with filling := false, list := list, arrays := canon list, crc := crc32c list }

/-- The table slots of an encoder engine, most recently used last, once it takes a block coded with an id: at most
four, of which those of the blocks it holds stay (R106, R108). The fill takes no command of its own.
(DESIGN CHOICE, assumption 128.) -/
def engineSlots (slots : List BankSlot) (held : List (BitVec 16)) (id : BitVec 16) (list : Bytes) : List BankSlot :=
  match slots.find? (fun t => decide (t.id = id)) with
  | some t => slots.filter (fun u => decide (u.id ≠ id)) ++ [t]
  | none =>
    let rest := if slots.length < 4 then slots
      else match slots.find? (fun t => !(held.contains t.id)) with
        | some v => slots.erase v
        | none => slots
    rest ++ [BankSlot.fill ⟨id, true, 0, [], ⟨[], [], []⟩, 0⟩ list]

/-! ## What a core queues at its pod bank (R101, R102) -/

/-- Blocks of a core at its bank. -/
def State.coreQueue (s : State) (c : Nat) : List BankBlock :=
  (s.bank (c / 4)).queue.filter (fun q => decide (q.owner = c))

/-- Queue the stream's next blocks while the core has fewer than two at its bank (R102). -/
def State.feedStream : Nat → Nat → State → State
  | 0, _, s => s
  | n + 1, c, s =>
    match (s.core c).stream with
    | none => s
    | some t =>
      if t.blocks = 0 ∨ 2 ≤ (s.coreQueue c).length then s
      else
        let s1 := s.queueBlk (c / 4) { owner := c, addr := t.next, word := s.posWord t.next }
        State.feedStream n c (s1.setCore c { s1.core c with
          stream := some { t with next := t.next + 4096, blocks := t.blocks - 1 } })

/-! ## Expansion for a request (R112, R113) -/

/-- The egress bank that serves a DECODE or another request: any may.
(DESIGN CHOICE, assumption 127.) -/
def egressOf (d : Nat) : Nat := 1000 + d % 8
/-- (DESIGN CHOICE, assumption 127.) -/
def egressFor (w : Who) : Nat :=
  match w with
  | .desc g => egressOf g
  | .block c _ => egressOf c
  | .peer _ t => egressOf t
  | .program k => egressOf k

/-- The block of a module slot is a husk that can be read, so that its plain bytes need a bank. -/
def State.isHusk (s : State) (x : Slot) : Bool :=
  (x.isExt || x.isPod) && !(mwPoison (s.slotWord x)) && decide (mwTag (s.slotWord x) ≠ 0x3F)

/-- A bank has delivered the block to the request. -/
def State.isExpanded (s : State) (w : Who) (x : Slot) : Bool :=
  s.comp.expanded.any (fun e => decide (e.reader = w ∧ e.key = x.key))

/-- A request first names an id by reading a husk: it is queued once until the request completes (R78). -/
def State.nameFor (s : State) (w : Who) (i : BitVec 16) : State :=
  match w with
  | .desc g =>
    (match s.chan.descs.find? (fun e => decide (e.2.go = g)) with
     | some (d, x) => if x.named.contains i then s
       else (s.setDesc d { x with named := x.named ++ [i] }).addQueued i
     | none => s)
  | _ =>
    if s.comp.named.contains (w, i) then s
    else ({ s with comp := { s.comp with named := s.comp.named ++ [(w, i)] } }).addQueued i

/-- Queue one block for a request at its bank, while the bank has room and the block is not there yet. -/
def State.askBank (s : State) (w : Who) (x : Slot) : State :=
  let b := egressFor w
  let q := (s.bank b).queue
  if s.isExpanded w x || q.any (fun r => decide (r.reader = some w ∧ r.addr = x.key)) || decide (16 ≤ q.length) then s
  else (s.nameFor w (mwId (s.slotWord x))).queueBlk b { owner := 0, addr := x.key, word := s.slotWord x, reader := some w }

/-- The ids a request without a descriptor has named are no longer queued. -/
def State.dropNamed (s : State) (w : Who) : State :=
  let l := s.comp.named.filter (fun n => decide (n.1 = w))
  l.foldl (fun (st : State) n => st.dropQueued n.2)
    { s with comp := { s.comp with named := s.comp.named.filter (fun n => !(decide (n.1 = w))) } }

/-- The husks among the blocks. -/
def State.husksOf (s : State) (l : List Slot) : List Slot := l.filter s.isHusk

/-- An egress bank has delivered every husk among the blocks to the request. -/
def State.plainReady (s : State) (w : Who) (l : List Slot) : Bool := (s.husksOf l).all (s.isExpanded w)

/-- Queue the husks among the blocks for the request. -/
def State.askPlains (s : State) (w : Who) (l : List Slot) : State :=
  (s.husksOf l).foldl (fun (st : State) x => st.askBank w x) s

/-- A request takes up what its bank delivered to it. -/
def State.taking (s : State) (w : Who) : State := { s with comp := { s.comp with taker := some w } }

/-- The request has taken up the blocks. -/
def State.taken (s : State) (w : Who) (l : List Slot) : State :=
  let keys := l.map Slot.key
  { s with comp := { s.comp with taker := none
                                 expanded := s.comp.expanded.filter (fun e => !(decide (e.reader = w) && keys.contains e.key)) } }

/-- Run `f` once an egress bank has delivered every husk among the blocks to the request; until then queue them. -/
def State.withPlain (s : State) (w : Who) (l : List Slot) (f : State → State) : State :=
  if (s.husksOf l).isEmpty then f s
  else if s.plainReady w l then (f (s.taking w)).taken w l
  else s.askPlains w l

/-- Run `f` on the accesses of a requester that reads the plain bytes of the blocks `l`, or wait. -/
def State.withBlocks (s : State) (src : Nat) (w : Who) (accs : List Acc) (l : List Slot) (f : State → State) : State :=
  if s.granting src w accs then s.withPlain w l (fun s => f (s.granted src w accs))
  else s.waiting src w accs

/-- A block cannot give its plain bytes: it is poisoned, or a bank found its husk invalid. -/
def State.unreadable (s : State) (w : Who) (x : Slot) : Bool :=
  mwPoison (s.slotWord x) || s.comp.expanded.any (fun e => decide (e.reader = w ∧ e.key = x.key ∧ e.read = .invalid))

/-- The slot of the block that holds a slot's first byte. -/
def Slot.block (x : Slot) : Slot :=
  match x with
  | .ext h o => .ext h (o - o % 4096)
  | .pod p o => .pod p (o - o % 4096)
  | y => y

/-- The blocks that `len` bytes at a module slot touch. -/
def Slot.blocks (x : Slot) (len : Nat) : List Slot :=
  if len = 0 ∨ !(x.isExt || x.isPod) then []
  else (List.range ((x.off % 4096 + len + 4095) / 4096)).map (fun i => x.block.plus (4096 * i))

/-- The blocks that a write of `len` plain bytes at a module slot covers in part, and so merges into (R73). -/
def Slot.partials (x : Slot) (len : Nat) : List Slot :=
  let l := x.blocks len
  let head := if x.off % 4096 ≠ 0 then l.take 1 else []
  let tail := if (x.off + len) % 4096 ≠ 0 then l.drop (l.length - 1) else []
  (head ++ tail).eraseDups

/-! ## The work of an egress bank -/

/-- Who a block at an egress bank is for: a DECODE, or a request. -/
def BankBlock.for_ (q : BankBlock) : Nat × Option Who := (q.owner, q.reader)

/-- The bank can deliver the block: a poisoned or raw one, or a checked husk whose slot is ready. -/
def Bank.goes (x : Bank) (q : BankBlock) : Bool :=
  mwPoison q.word || decide (mwTag q.word = 0x3F) || (decide (q.phase = .checked) && x.ready q.word)

/-- The next block an egress bank delivers: in arrival order, but that a block whose slot is being filled delays
only itself and its own request's later blocks (R99, R107, R112). -/
def Bank.next (x : Bank) : List (Nat × Option Who) → List BankBlock → Option BankBlock
  | _, [] => none
  | held, q :: r =>
    if x.goes q && !(held.contains q.for_) then some q
    else if held.contains q.for_ || !(x.ready q.word) then Bank.next x (held ++ [q.for_]) r
    else none

/-- The next husk an egress bank ingests: in arrival order, while one of its two husk buffers is free (R97). -/
def Bank.ingests (x : Bank) : Option BankBlock :=
  if 2 ≤ (x.queue.filter (fun q => decide (q.phase = .checked))).length then none
  else x.queue.find? (fun q => decide (q.phase = .queued) && !(mwPoison q.word) && decide (mwTag q.word ≠ 0x3F))

/-- Change a block in a bank's queue. -/
def State.markBlk (s : State) (b : Nat) (q r : BankBlock) : State :=
  s.setBank b { s.bank b with queue := (s.bank b).queue.map (fun y => if y = q then r else y) }

/-- What a bank's lanes give for a husk in a husk buffer, with the arrays of its slot (R70, R106). -/
def Bank.decode (x : Bank) (q : BankBlock) : BlkRead :=
  match x.slots.find? (fun t => decide (t.id = mwId q.word)) with
  | some t => (match decodeWith t.arrays t.crc (mwId q.word) (mwTag q.word) q.data with
    | some b => .bytes b
    | none => .invalid)
  | none => .invalid

/-- The bank counts a block that it has passed (R119): a husk decoded, or a raw block. -/
def State.countBank (s : State) (b : Nat) (q : BankBlock) (ok : Bool) : State :=
  let y := s.bank b
  let raw := decide (mwTag q.word = 0x3F)
  s.setBank b { y with husks := y.husks + (if !raw && ok then 1 else 0), raws := y.raws + (if raw then 1 else 0) }

/-- Count an invalid husk (R92). -/
def State.countInvalid (s : State) : State :=
  { s with comp := { s.comp with invalidCnt := s.comp.invalidCnt + 1 } }

/-- What the bank gives for a block at the head of its work. -/
def State.bankRead (s : State) (b : Nat) (q : BankBlock) (stored : Bytes) : BlkRead :=
  if mwPoison q.word then .poisoned
  else if mwTag q.word = 0x3F then .bytes stored
  else (s.bank b).decode q

/-- A block for a request is delivered: the request finds it when it goes on. -/
def State.deliverTo (s : State) (b : Nat) (q : BankBlock) (w : Who) : State :=
  let r := s.bankRead b q (s.slotStored (keySlot q.addr))
  let s1 := (s.dropBlk b q).countBank b q (decide (r ≠ .invalid) && !(mwPoison q.word))
  let s2 := if r = .invalid then s1.countInvalid else s1
  if s2.alive w then
    { s2 with comp := { s2.comp with expanded := (s2.comp.expanded.filter (fun e => s2.alive e.reader)) ++ [⟨w, q.addr, r⟩] } }
  else s2.dropNamed w

end Sys2Proof.Machine
end

