-- ==== Sys2Proof/Machine/Crypto.lean ====
section
/-! DEFINITION. The cryptography the spec names: SHA-512, HMAC and HKDF-SHA-512 (RFC 5869), Ed25519
(RFC 8032, verified as R512 states), X25519 (RFC 7748), AES-256, AES Key Wrap (RFC 3394) and
AES-256-GCM. Byte strings are lists, lowest address first. -/

namespace Sys2Proof.Crypto

/-! ## SHA-512 -/

def sha512K0 : List Nat :=
  [ 0x428a2f98d728ae22, 0x7137449123ef65cd, 0xb5c0fbcfec4d3b2f, 0xe9b5dba58189dbbc,
    0x3956c25bf348b538, 0x59f111f1b605d019, 0x923f82a4af194f9b, 0xab1c5ed5da6d8118,
    0xd807aa98a3030242, 0x12835b0145706fbe, 0x243185be4ee4b28c, 0x550c7dc3d5ffb4e2,
    0x72be5d74f27b896f, 0x80deb1fe3b1696b1, 0x9bdc06a725c71235, 0xc19bf174cf692694]

def sha512K1 : List Nat :=
  [ 0xe49b69c19ef14ad2, 0xefbe4786384f25e3, 0x0fc19dc68b8cd5b5, 0x240ca1cc77ac9c65,
    0x2de92c6f592b0275, 0x4a7484aa6ea6e483, 0x5cb0a9dcbd41fbd4, 0x76f988da831153b5,
    0x983e5152ee66dfab, 0xa831c66d2db43210, 0xb00327c898fb213f, 0xbf597fc7beef0ee4,
    0xc6e00bf33da88fc2, 0xd5a79147930aa725, 0x06ca6351e003826f, 0x142929670a0e6e70]

def sha512K2 : List Nat :=
  [ 0x27b70a8546d22ffc, 0x2e1b21385c26c926, 0x4d2c6dfc5ac42aed, 0x53380d139d95b3df,
    0x650a73548baf63de, 0x766a0abb3c77b2a8, 0x81c2c92e47edaee6, 0x92722c851482353b,
    0xa2bfe8a14cf10364, 0xa81a664bbc423001, 0xc24b8b70d0f89791, 0xc76c51a30654be30,
    0xd192e819d6ef5218, 0xd69906245565a910, 0xf40e35855771202a, 0x106aa07032bbd1b8]

def sha512K3 : List Nat :=
  [ 0x19a4c116b8d2d0c8, 0x1e376c085141ab53, 0x2748774cdf8eeb99, 0x34b0bcb5e19b48a8,
    0x391c0cb3c5c95a63, 0x4ed8aa4ae3418acb, 0x5b9cca4f7763e373, 0x682e6ff3d6b2b8a3,
    0x748f82ee5defb2fc, 0x78a5636f43172f60, 0x84c87814a1f0ab72, 0x8cc702081a6439ec,
    0x90befffa23631e28, 0xa4506cebde82bde9, 0xbef9a3f7b2c67915, 0xc67178f2e372532b]

def sha512K4 : List Nat :=
  [ 0xca273eceea26619c, 0xd186b8c721c0c207, 0xeada7dd6cde0eb1e, 0xf57d4f7fee6ed178,
    0x06f067aa72176fba, 0x0a637dc5a2c898a6, 0x113f9804bef90dae, 0x1b710b35131c471b,
    0x28db77f523047d84, 0x32caab7b40c72493, 0x3c9ebe0a15c9bebc, 0x431d67c49c100d4c,
    0x4cc5d4becb3e42b6, 0x597f299cfc657e2a, 0x5fcb6fab3ad6faec, 0x6c44198c4a475817]

def sha512K : List Nat := sha512K0 ++ sha512K1 ++ sha512K2 ++ sha512K3 ++ sha512K4

/-- The eight working variables. -/
structure Sha where
  a : Nat
  b : Nat
  c : Nat
  d : Nat
  e : Nat
  f : Nat
  g : Nat
  h : Nat

def shaInit : Sha :=
  ⟨0x6a09e667f3bcc908, 0xbb67ae8584caa73b, 0x3c6ef372fe94f82b, 0xa54ff53a5f1d36f1,
   0x510e527fade682d1, 0x9b05688c2b3e6c1f, 0x1f83d9abfb41bd6b, 0x5be0cd19137e2179⟩

/-- Addition modulo 2^64. -/
def w64 (x : Nat) : Nat := x % 0x10000000000000000

/-- Rotation right of a 64-bit word. -/
def rotr (n x : Nat) : Nat := Nat.lor (Nat.shiftRight x n) (w64 (Nat.shiftLeft x (64 - n)))

def xor3 (x y z : Nat) : Nat := Nat.xor x (Nat.xor y z)

/-- One round, with word `w` and constant `k`. -/
def shaRound (s : Sha) (w k : Nat) : Sha :=
  let s1 := xor3 (rotr 14 s.e) (rotr 18 s.e) (rotr 41 s.e)
  let ch := Nat.xor (Nat.land s.e s.f) (Nat.land (Nat.xor s.e 0xFFFFFFFFFFFFFFFF) s.g)
  let t1 := w64 (s.h + s1 + ch + k + w)
  let s0 := xor3 (rotr 28 s.a) (rotr 34 s.a) (rotr 39 s.a)
  let maj := xor3 (Nat.land s.a s.b) (Nat.land s.a s.c) (Nat.land s.b s.c)
  ⟨w64 (t1 + s0 + maj), s.a, s.b, s.c, w64 (s.d + t1), s.e, s.f, s.g⟩

/-- The next word of the message schedule from its last sixteen. -/
def shaNext (w : List Nat) : Nat :=
  let x := w.getD 1 0
  let y := w.getD 14 0
  let s0 := xor3 (rotr 1 x) (rotr 8 x) (Nat.shiftRight x 7)
  let s1 := xor3 (rotr 19 y) (rotr 61 y) (Nat.shiftRight y 6)
  w64 (w.getD 0 0 + s0 + w.getD 9 0 + s1)

/-- The rounds, keeping the last sixteen words. -/
def shaRounds (s : Sha) (w : List Nat) : List Nat → Sha
  | [] => s
  | k :: ks => shaRounds (shaRound s (w.getD 0 0) k) (w.drop 1 ++ [shaNext w]) ks

/-- One block of sixteen words. -/
def shaBlock (s : Sha) (w : List Nat) : Sha :=
  let r := shaRounds s w sha512K
  ⟨w64 (s.a + r.a), w64 (s.b + r.b), w64 (s.c + r.c), w64 (s.d + r.d),
   w64 (s.e + r.e), w64 (s.f + r.f), w64 (s.g + r.g), w64 (s.h + r.h)⟩

/-- The number a run of bytes spells, highest byte first. -/
def beNat (b : Bytes) : Nat := b.foldl (fun a x => 256 * a + x.toNat) 0

/-- The `n` bytes of a number, highest first. -/
def beBytes (n x : Nat) : Bytes := (leBytes n x).reverse

/-- The sixteen words of a 128-byte block. -/
def shaWords (b : Bytes) : List Nat := (List.range 16).map (fun i => beNat ((b.drop (8 * i)).take 8))

/-- Blocks in turn; the first argument bounds their number. -/
def shaBlocks (s : Sha) (b : Bytes) : Nat → Sha
  | 0 => s
  | n + 1 => shaBlocks (shaBlock s (shaWords (b.take 128))) (b.drop 128) n

/-- A message padded to whole blocks. -/
def shaPad (m : Bytes) : Bytes :=
  let z := (239 - m.length % 128) % 128
  m ++ ([0x80] : Bytes) ++ List.replicate z 0 ++ beBytes 16 (8 * m.length)

/-- SHA-512. -/
def sha512 (m : Bytes) : Bytes :=
  let p := shaPad m
  let s := shaBlocks shaInit p (p.length / 128)
  [s.a, s.b, s.c, s.d, s.e, s.f, s.g, s.h].flatMap (beBytes 8)

/-! ## HMAC and HKDF -/

def hmac512 (key m : Bytes) : Bytes :=
  let k0 := if 128 < key.length then sha512 key else key
  let k := k0 ++ List.replicate (128 - k0.length) 0
  sha512 (k.map (· ^^^ 0x5c) ++ sha512 (k.map (· ^^^ 0x36) ++ m))

/-- The blocks T(1), T(2), … of the expansion, from block `i`. -/
def hkdfBlocks (prk info prev : Bytes) (i : Nat) : Nat → Bytes
  | 0 => []
  | n + 1 =>
    let t := hmac512 prk (prev ++ info ++ [BitVec.ofNat 8 i])
    t ++ hkdfBlocks prk info t (i + 1) n

/-- HKDF-SHA-512. -/
def hkdf512 (salt ikm info : Bytes) (len : Nat) : Bytes :=
  (hkdfBlocks (hmac512 salt ikm) info [] 1 ((len + 63) / 64)).take len

/-! ## The field and the curves -/

/-- p = 2^255 − 19. -/
def prime : Nat := 0x7fffffffffffffffffffffffffffffffffffffffffffffffffffffffffffffed

/-- The group order L. -/
def order : Nat := 0x1000000000000000000000000000000014def9dea2f79cd65812631a5cf5d3ed

def fadd (a b : Nat) : Nat := (a + b) % prime
def fsub (a b : Nat) : Nat := (a + prime - b % prime) % prime
def fmul (a b : Nat) : Nat := (a * b) % prime

/-- Square and multiply over the low `n` bits of an exponent, highest first. -/
def fpow (a e : Nat) : Nat → Nat
  | 0 => 1
  | n + 1 =>
    let r := fpow a (e / 2) n
    let q := fmul r r
    if e % 2 = 1 then fmul q a else q

def finv (a : Nat) : Nat := fpow a (prime - 2) 255

/-- d of the curve −x² + y² = 1 + d x² y². -/
def curveD : Nat := 0x52036cee2b6ffe738cc740797779e89800700a4d4141d8ab75eb4dca135978a3

/-- √−1. -/
def sqrtM1 : Nat := 0x2b8324804fc1df0b2b4d00993dfbd7a72f431806ad2fe478c4ee1b274a0ea0b0

/-- A point in extended coordinates. -/
structure Pt where
  x : Nat
  y : Nat
  z : Nat
  t : Nat

def ptZero : Pt := ⟨0, 1, 1, 0⟩

/-- The base point B. -/
def ptBase : Pt :=
  let x := 0x216936d3cd6e53fec0a4e231fdd6dc5c692cc7609525a7b2c9562d608f25d51a
  let y := 0x6666666666666666666666666666666666666666666666666666666666666658
  ⟨x, y, 1, fmul x y⟩

def ptAdd (p q : Pt) : Pt :=
  let a := fmul (fsub p.y p.x) (fsub q.y q.x)
  let b := fmul (fadd p.y p.x) (fadd q.y q.x)
  let c := fmul (fmul (2 * p.t) q.t) curveD
  let d := fmul (2 * p.z) q.z
  let e := fsub b a
  let f := fsub d c
  let g := fadd d c
  let h := fadd b a
  ⟨fmul e f, fmul g h, fmul f g, fmul e h⟩

/-- [k]P over the low `n` bits of k. -/
def ptMul (k : Nat) (p : Pt) : Nat → Pt
  | 0 => ptZero
  | n + 1 =>
    let r := ptMul (k / 2) p n
    let q := ptAdd r r
    if k % 2 = 1 then ptAdd q p else q

/-- Equality of points. -/
def ptEq (p q : Pt) : Bool :=
  decide (fmul p.x q.z = fmul q.x p.z) && decide (fmul p.y q.z = fmul q.y p.z)

/-- The 32 bytes of a point. -/
def ptBytes (p : Pt) : Bytes :=
  let i := finv p.z
  leBytes 32 (fmul p.y i + 2 ^ 255 * (fmul p.x i % 2))

/-- The point of 32 bytes, none for a non-canonical or invalid encoding (R512 step 1). -/
def ptOf (b : Bytes) : Option Pt :=
  let n := leNat b
  let y := n % 2 ^ 255
  let sign := n / 2 ^ 255 % 2
  if b.length ≠ 32 ∨ prime ≤ y then none
  else
    let u := fsub (fmul y y) 1
    let v := fadd (fmul curveD (fmul y y)) 1
    let v3 := fmul v (fmul v v)
    let v7 := fmul v (fmul v3 v3)
    let c := fmul (fmul u v3) (fpow (fmul u v7) ((prime - 5) / 8) 252)
    let vc := fmul v (fmul c c)
    let x := if vc = u then some c else if vc = fsub 0 u then some (fmul c sqrtM1) else none
    match x with
    | none => none
    | some x =>
      if x = 0 ∧ sign = 1 then none
      else
        let x' := if x % 2 = sign then x else fsub 0 x
        some ⟨x', y, 1, fmul x' y⟩

/-! ## Ed25519 -/

/-- Verification by the steps of R512. -/
def ed25519Verify (key msg sig : Bytes) : Bool :=
  let r := sig.take 32
  let sn := leNat (sig.drop 32)
  match ptOf key, ptOf r with
  | some a, some p =>
    if sig.length ≠ 64 ∨ order ≤ sn then false
    else
      let k := leNat (sha512 (r ++ key ++ msg)) % order
      ptEq (ptMul sn ptBase 253) (ptAdd p (ptMul k a 253))
  | _, _ => false

/-- The clamped scalar of 32 bytes. -/
def clamp (b : Bytes) : Nat := leNat b % 2 ^ 254 / 8 * 8 + 2 ^ 254

/-- The public key of a private seed. -/
def ed25519Public (seed : Bytes) : Bytes := ptBytes (ptMul (clamp ((sha512 seed).take 32)) ptBase 255)

/-- The signature of a message under a private seed. -/
def ed25519Sign (seed msg : Bytes) : Bytes :=
  let h := sha512 seed
  let a := clamp (h.take 32)
  let r := leNat (sha512 (h.drop 32 ++ msg)) % order
  let rb := ptBytes (ptMul r ptBase 253)
  let k := leNat (sha512 (rb ++ ed25519Public seed ++ msg)) % order
  rb ++ leBytes 32 ((r + k * a) % order)

/-- The key id of a public key: the first 8 bytes of its digest (R429). -/
def keyId (key : Bytes) : Nat := leNat ((sha512 key).take 8)

/-! ## X25519 -/

/-- The ladder over bit `n − 1` down to bit 0 of the scalar: (x2, z2, x3, z3), unswapped. -/
def ladder (k u : Nat) : Nat → Nat × Nat × Nat × Nat → Nat × Nat × Nat × Nat
  | 0, s => s
  | n + 1, (x2, z2, x3, z3) =>
    let bit := k / 2 ^ n % 2
    let (x2, z2, x3, z3) := if bit = 1 then (x3, z3, x2, z2) else (x2, z2, x3, z3)
    let a := fadd x2 z2
    let aa := fmul a a
    let b := fsub x2 z2
    let bb := fmul b b
    let e := fsub aa bb
    let c := fadd x3 z3
    let d := fsub x3 z3
    let da := fmul d a
    let cb := fmul c b
    let x3' := fmul (fadd da cb) (fadd da cb)
    let z3' := fmul u (fmul (fsub da cb) (fsub da cb))
    let x2' := fmul aa bb
    let z2' := fmul e (fadd aa (fmul 121665 e))
    let s := if bit = 1 then (x3', z3', x2', z2') else (x2', z2', x3', z3')
    ladder k u n s

/-- X25519 of a private key and a public one. -/
def x25519 (priv pub : Bytes) : Bytes :=
  let u := leNat pub % 2 ^ 255 % prime
  let (x, z, _, _) := ladder (clamp priv) u 255 (1, 0, u, 1)
  leBytes 32 (fmul x (finv z))

/-- The public key of a private one. -/
def x25519Public (priv : Bytes) : Bytes := x25519 priv (leBytes 32 9)

/-! ## AES-256 -/

/-- The S-box and its inverse, entry i in bits 8i+7..8i. -/
def sboxNum : Nat :=
  0x16bb54b00f2d99416842e6bf0d89a18cdf2855cee9871e9b948ed9691198f8e19e1dc186b95735610ef6034866b53e708a8bbd4b1f74dde8c6b4a61c2e2578ba08ae7a65eaf4566ca94ed58d6d37c8e779e4959162acd3c25c2406490a3a32e0db0b5ede14b8ee4688902a22dc4f816073195d643d7ea7c41744975fec130ccdd2f3ff1021dab6bcf5389d928f40a351a89f3c507f02f94585334d43fbaaefd0cf584c4a39becb6a5bb1fc20ed00d153842fe329b3d63b52a05a6e1b1a2c830975b227ebe28012079a059618c323c7041531d871f1e5a534ccf73f362693fdb7c072a49cafa2d4adf04759fa7dc982ca76abd7fe2b670130c56f6bf27b777c63
def invSboxNum : Nat :=
  0x7d0c2155631469e126d677ba7e042b17619953833cbbebc8b0f52aae4d3be0a0ef9cc9939f7ae52d0d4ab519a97f51605fec8027591012b131c7078833a8dd1ff45acd78fec0db9a2079d2c64b3e56fc1bbe18aa0e62b76f89c5291d711af1476edf751ce837f9e28535ade72274ac9673e6b4f0cecff297eadc674f4111913a6b8a130103bdafc1020f3fca8f1e2cd00645b3b80558e4f70ad3bc8c00abd890849d8da75746155edab9edfd5048706c92b6655dcc5ca4d41698688664f6f87225d18b6d49a25b76b224d92866a12e084ec3fa420b954cee3d23c2a632947b54cbe9dec444438e3487ff2f9b8239e37cfbd7f3819ea340bf38a53630d56a0952

def sbox (x : Byte) : Byte := BitVec.ofNat 8 (Nat.shiftRight sboxNum (8 * x.toNat))
def invSbox (x : Byte) : Byte := BitVec.ofNat 8 (Nat.shiftRight invSboxNum (8 * x.toNat))

/-- Multiplication by x in GF(2^8). -/
def xtime (x : Byte) : Byte := if x.getLsbD 7 then (x <<< 1) ^^^ 0x1b else x <<< 1

/-- The same on numbers, and multiplication in GF(2^8) by a small constant, over its low `n` bits. -/
def xtimeNat (x : Nat) : Nat := bif Nat.ble 128 x then Nat.xor (2 * x) 0x11b else 2 * x
def gmul (k x : Nat) : Nat → Nat
  | 0 => 0
  | n + 1 => Nat.xor (bif Nat.beq (k % 2) 1 then x else 0) (gmul (k / 2) (xtimeNat x) n)

def xorBytes (a b : Bytes) : Bytes := List.zipWith (· ^^^ ·) a b

/-- Key expansion: the words so far, newest first, from word `i`; `rc` the next round constant. -/
def expandWords (ws : List Bytes) (i : Nat) (rc : Byte) : Nat → List Bytes
  | 0 => ws
  | n + 1 =>
    let prev := ws.getD 0 []
    let t := if i % 8 = 0 then xorBytes ((prev.drop 1 ++ prev.take 1).map sbox) [rc, 0, 0, 0]
      else if i % 8 = 4 then prev.map sbox else prev
    expandWords (xorBytes (ws.getD 7 []) t :: ws) (i + 1) (if i % 8 = 0 then xtime rc else rc) n

/-- The fifteen round keys of a 32-byte key. -/
def roundKeys (key : Bytes) : List Bytes :=
  let w0 := ((List.range 8).map (fun i => (key.drop (4 * i)).take 4)).reverse
  let ws := (expandWords w0 8 1 52).reverse
  (List.range 15).map (fun r => (ws.drop (4 * r)).take 4 |>.flatten)

/-- ShiftRows and its inverse; the state is 16 bytes, column by column. -/
def shiftRows (s : Bytes) : Bytes := (List.range 16).map (fun i => s.getD ((i + 4 * (i % 4)) % 16) 0)
def invShiftRows (s : Bytes) : Bytes := (List.range 16).map (fun i => s.getD ((i + 12 * (i % 4)) % 16) 0)

/-- MixColumns with the column constants a, b, c, d. -/
def mixWith (k0 k1 k2 k3 : Nat) (s : Bytes) : Bytes :=
  (List.range 16).map (fun i =>
    let c := i / 4 * 4
    let at_ := fun j => (s.getD (c + (i + j) % 4) 0).toNat
    BitVec.ofNat 8 (Nat.xor (Nat.xor (gmul k0 (at_ 0) 4) (gmul k1 (at_ 1) 4)) (Nat.xor (gmul k2 (at_ 2) 4) (gmul k3 (at_ 3) 4))))

def mixColumns : Bytes → Bytes := mixWith 2 3 1 1
def invMixColumns : Bytes → Bytes := mixWith 14 11 13 9

/-- The cipher's rounds with the keys that are left. -/
def encRounds (s : Bytes) : List Bytes → Bytes
  | [] => s
  | [k] => xorBytes (shiftRows (s.map sbox)) k
  | k :: ks => encRounds (xorBytes (mixColumns (shiftRows (s.map sbox))) k) ks

/-- AES-256 encryption of one block. -/
def aesEnc (key block : Bytes) : Bytes :=
  match roundKeys key with
  | [] => block
  | k :: ks => encRounds (xorBytes block k) ks

def decRounds (s : Bytes) : List Bytes → Bytes
  | [] => s
  | [k] => xorBytes ((invShiftRows s).map invSbox) k
  | k :: ks => decRounds (invMixColumns (xorBytes ((invShiftRows s).map invSbox) k)) ks

/-- AES-256 decryption of one block. -/
def aesDec (key block : Bytes) : Bytes :=
  match (roundKeys key).reverse with
  | [] => block
  | k :: ks => decRounds (xorBytes block k) ks

/-! ## AES Key Wrap (RFC 3394) -/

/-- One unwrapping step: t counts down; `n` blocks. -/
def unwrapSteps (key : Bytes) (n : Nat) (a : Bytes) (r : List Bytes) : Nat → Bytes × List Bytes
  | 0 => (a, r)
  | t + 1 =>
    let i := t % n
    let b := aesDec key (xorBytes a (beBytes 8 (t + 1)) ++ r.getD i [])
    unwrapSteps key n (b.take 8) (r.set i (b.drop 8)) t

/-- Unwrap 8(n+1) bytes to 8n; none on an integrity failure. -/
def keyUnwrap (key wrapped : Bytes) : Option Bytes :=
  let n := wrapped.length / 8 - 1
  let r := (List.range n).map (fun i => (wrapped.drop (8 * (i + 1))).take 8)
  let (a, r') := unwrapSteps key n (wrapped.take 8) r (6 * n)
  if a = List.replicate 8 0xA6 then some r'.flatten else none

/-! ## AES-256-GCM -/

/-- Multiplication in GF(2^128) as GCM orders bits, over the low `n` bits of x from its highest. -/
def gfMul (x v z : Nat) : Nat → Nat
  | 0 => z
  | n + 1 =>
    let z' := if Nat.testBit x n then Nat.xor z v else z
    let v' := if v % 2 = 1 then Nat.xor (v / 2) 0xe1000000000000000000000000000000 else v / 2
    gfMul x v' z' n

/-- GHASH over whole blocks; the first argument bounds their number. -/
def ghash (h y : Nat) (b : Bytes) : Nat → Nat
  | 0 => y
  | n + 1 => ghash h (gfMul (Nat.xor y (beNat (b.take 16))) h 0 128) (b.drop 16) n

def padTo16 (b : Bytes) : Bytes := b ++ List.replicate ((16 - b.length % 16) % 16) 0

/-- The key stream from counter `c`. -/
def gcmStream (key nonce : Bytes) (c : Nat) : Nat → Bytes
  | 0 => []
  | n + 1 => aesEnc key (nonce ++ beBytes 4 c) ++ gcmStream key nonce (c + 1) n

/-- Encryption and decryption are one. -/
def gcmCrypt (key nonce text : Bytes) : Bytes := xorBytes text (gcmStream key nonce 2 ((text.length + 15) / 16))

/-- The 16-byte tag over the additional data and the ciphertext. -/
def gcmTag (key nonce aad ct : Bytes) : Bytes :=
  let h := beNat (aesEnc key (List.replicate 16 0))
  let b := padTo16 aad ++ padTo16 ct ++ beBytes 8 (8 * aad.length) ++ beBytes 8 (8 * ct.length)
  xorBytes (beBytes 16 (ghash h 0 b (b.length / 16))) (aesEnc key (nonce ++ beBytes 4 1))

end Sys2Proof.Crypto
end

