-- ==== Sys2Proof/Machine/Identity.lean ====
section
/-! DEFINITION. Life-cycle state, fused keys, the module's derived keys, certificates (R298, R429 to R432,
R444, R445). -/

namespace Sys2Proof.Machine

open Sys2Proof.Crypto

/-- ASCII bytes of a text. -/
def ascii (t : String) : Bytes := t.toList.map (fun c => BitVec.ofNat 8 c.toNat)

/-- The `n` bytes of a bit vector, lowest first. -/
def bvB {w : Nat} (n : Nat) (x : BitVec w) : Bytes := leBytes n x.toNat

/-! ## Life cycle (R444, R445) -/

/-- The life-cycle state in force: the fuse wins; none where the copies disagree three ways (UNREADABLE). -/
def State.lcState (s : State) : Option LcState :=
  if s.sec.returnedFuse then some .returned
  else if s.sec.lc.broken then none
  else some (s.sec.lc.vote .blank)

/-- The FM key: none where none is installed or its copies disagree three ways. -/
def State.fmKey (s : State) : Option (BitVec 256) := if s.lcState = some .returned then none else s.sec.fmKey.vote none

/-- The key engine refuses its keys in RETURNED (R430).
(DESIGN CHOICE, assumption 49.) -/
def State.keysUsable (s : State) : Bool := decide (s.lcState ≠ some .returned)

/-! ## Root and firmware keys (R429) -/

/-- Key `i` of a set, unless it is revoked. -/
def goodKey (keys : List (BitVec 256)) (revoked : BitVec 4) (i : Nat) : Option Bytes :=
  if i < 4 ∧ !(revoked.getLsbD i) then (keys[i]?).map (bvB 32) else none

def State.rootKey (s : State) (i : Nat) : Option Bytes := goodKey s.sec.rootKeys s.sec.rootRevoked i
def State.fwKey (s : State) (i : Nat) : Option Bytes := goodKey s.sec.fwKeys s.sec.fwRevoked i

/-! ## Derived keys (R430) -/

def State.derived (s : State) (info : String) : Bytes :=
  hkdf512 (ascii "ZX9 identity") (bvB 32 s.sec.deviceSeed) (ascii info ++ bvB 8 s.sec.uid) 32

/-- The identity key's seed and the key-agreement private key. -/
def State.identitySeed (s : State) : Bytes := s.derived "ed25519"
def State.agreementKey (s : State) : Bytes := s.derived "x25519"

/-- A signature under the identity key. -/
def State.sign (s : State) (msg : Bytes) : Bytes := ed25519Sign s.identitySeed msg

/-! ## Party keys (R298) -/

/-- K1 and K2 of a BIND PARTY, or none where the derivation refuses. -/
def State.partyKeys (s : State) (gpid : Word) (eph wrapped : Bytes) : Option (BitVec 256 × BitVec 256) :=
  if !s.keysUsable then none
  else
    let z := x25519 s.agreementKey eph
    if leNat z = 0 then none
    else
      let kek := hkdf512 (bvB 16 s.ten.bootNonce) z (ascii "ZX9 party key" ++ bvB 4 gpid) 32
      match keyUnwrap kek wrapped with
      | none => none
      | some k =>
        let k1 := k.take 32
        let k2 := k.drop 32
        if k1 = k2 then none else some (BitVec.ofNat 256 (leNat k1), BitVec.ofNat 256 (leNat k2))

/-! ## Certificates (R431, R432) -/

/-- Fields of a 192-byte certificate. -/
def certKind (c : Bytes) : Nat := fieldAt c 5 1
def certPart (c : Bytes) : Nat := fieldAt c 6 1
def certSerial (c : Bytes) : Nat := fieldAt c 8 8
def certIssuer (c : Bytes) : Nat := fieldAt c 16 8
def certEd (c : Bytes) : Bytes := sliceBytes c 24 32
def certX (c : Bytes) : Bytes := sliceBytes c 56 32

/-- The fields meet R431 for a certificate of a kind. -/
def certOk (c : Bytes) (kind : Nat) : Bool :=
  decide (c.length = 192) && decide (fieldAt c 0 4 = 0x5443585A) && decide (fieldAt c 4 1 = 1) &&
    decide (certKind c = kind) && decide (fieldAt c 7 1 = 0) && (sliceBytes c 88 40).all (fun b => decide (b = 0)) &&
    (decide (kind = 2) || (decide (certPart c = 0) && (certX c).all (fun b => decide (b = 0))))

/-- The signature of a certificate under its issuer's key. -/
def certSigned (c issuer : Bytes) : Bool :=
  ed25519Verify issuer (ascii "ZX9 cert" ++ c.take 128) (c.drop 128)

/-- A root key that the module trusts and whose id a certificate names. -/
def State.rootOf (s : State) (id : Nat) : Option Bytes :=
  (List.range 4).findSome? (fun i => match s.rootKey i with
    | some k => if keyId k = id then some k else none
    | none => none)

/-- A chain that presents a module of a UID and part code is accepted (R432). -/
def State.chainOk (s : State) (inter dev : Bytes) (uid part : Nat) : Bool :=
  certOk inter 1 && certOk dev 2 &&
    (match s.rootOf (certIssuer inter) with | some k => certSigned inter k | none => false) &&
    decide (certIssuer dev = keyId (certEd inter)) && certSigned dev (certEd inter) &&
    decide (certSerial dev = uid) && decide (certPart dev = part)

end Sys2Proof.Machine
end

