-- ==== Sys2Proof/Machine/Regulate.lean ====
section
/-! DEFINITION. Regulated resources: capability, guarantees, marking of requests (R273 to R281, R287,
R288, R406 to R409, R415). -/

namespace Sys2Proof.Machine

/-! ## Resources (R276) -/

/-- The kinds of resource, each with its own guarantee (R278). -/
inductive ResKind where
  | zn | zd | host | fabric | movers
  deriving DecidableEq, Repr

/-- The kind of a resource number; none for a number the table does not use. -/
def resKind (r : Nat) : Option ResKind :=
  if r < 12 then some .zn
  else if 16 ≤ r ∧ r < 48 then some .zd
  else if 64 ≤ r ∧ r < 68 then some .host
  else if 80 ≤ r ∧ r < 96 then some .fabric
  else if r = 128 then some .movers
  else none

/-- The movers' resource number. -/
def resMovers : Nat := 128

/-- The resource is present on the part. -/
def hasRes (v : Variant) (r : Nat) : Bool :=
  match resKind r with
  | some .zn => v.hasStack r
  | some .zd => v.hasStack r
  | some .host => decide (r - 64 < v.hostPorts)
  | some .fabric => decide (r - 80 < v.fabPorts)
  | some .movers => true
  | none => false

/-- Every resource of the part, in ascending number. -/
def resList (v : Variant) : List Nat := (List.range 129).filter (hasRes v)

/-- Nominal capability; 0 for an absent resource. -/
def nominal (v : Variant) (r : Nat) : Nat :=
  if !(hasRes v r) then 0
  else match resKind r with
    | some .zn => 256
    | some .movers => 512
    | some _ => 64
    | none => 0

/-! ## Derating (R277, R406, R408, R409, R415) -/

/-- Tier of a stack number, and its pseudo-channels (R381). -/
def tierOf (n : Nat) : Tier := if n < 12 then .near else .deep
def pcsOf (n : Nat) : Nat := if n < 12 then 32 else 8

def State.stack (s : State) (n : Nat) : Stack := Table.get {} s.rel.stks n
def State.setStack (s : State) (n : Nat) (x : Stack) : State :=
  { s with rel := { s.rel with stks := Table.put {} s.rel.stks n x } }

/-- The mask of lost pseudo-channels as voted; the OR of three different copies (R506). -/
def Stack.lostMask (x : Stack) : BitVec 32 := x.lost.vote (x.lost.a ||| x.lost.b ||| x.lost.c)

/-- Pseudo-channels lost. -/
def Stack.lostPcs (x : Stack) : List Nat := (List.range 32).filter (fun i => x.lostMask.getLsbD i)

/-- D of a stack: 0 once lost; half while its tier rebuilds; 8 less while it retires a stripe; the
fraction of its pseudo-channels left; the least of these that apply (DEDUCED, assumption 40). -/
def State.stackD (s : State) (n : Nat) : Nat :=
  let x := s.stack n
  let nom := nominal s.variant n
  if x.state = .failed then 0
  else
    let a := if s.rel.rebuilds.any (fun r => r.begun && decide (tierOf r.stack = tierOf n)) then nom / 2 else nom
    let b := if s.rel.retires.any (fun r => r.begun && decide (r.tier = tierOf n)) then nom - 8 else nom
    let c := nom * (pcsOf n - x.lostPcs.length) / pcsOf n
    min a (min b c)

/-- D of a host port by its trained rate (R353: generation 3 is 6.x, 2 is 5.0, 1 is 4.0). -/
def State.hostD (s : State) (p : Nat) : Nat :=
  match (s.hport p).link with
  | some l => if (s.hport p).up then 64 * 2 ^ l.width / 16 / 2 ^ (3 - l.gen) else 0
  | none => 0

def State.fport (s : State) (p : Nat) : FabPort := Table.get {} s.fab.ports p
def State.setFport (s : State) (p : Nat) (x : FabPort) : State :=
  { s with fab := { s.fab with ports := Table.put {} s.fab.ports p x } }

/-- D of a fabric port by its rate code (R329): 0 ZFL-2 ×4, 1 ZFL-2 ×2, 2 ZFL-1 ×4, 3 ZFL-1 ×2. -/
def State.fabD (s : State) (p : Nat) : Nat :=
  let x := s.fport p
  if x.state = .up ∨ x.state = .sleep then (match x.rate with | 0 => 64 | 1 => 32 | 2 => 32 | _ => 16) else 0

/-- Movers in service. -/
def State.moversIn (s : State) : Nat :=
  64 - (s.rel.unitResets.filter (fun u => decide (u.unit = .mover))).length

/-- The derated capability of a resource now.
(DEDUCED, assumption 40.) -/
def State.derated (s : State) (r : Nat) : Nat :=
  if !(hasRes s.variant r) then 0
  else match resKind r with
    | some .zn => s.stackD r
    | some .zd => s.stackD r
    | some .host => s.hostD (r - 64)
    | some .fabric => s.fabD (r - 80)
    | some .movers => 8 * s.moversIn
    | none => 0

def State.res (s : State) (r : Nat) : Res := Table.get {} s.qos.res r
def State.setRes (s : State) (r : Nat) (x : Res) : State :=
  { s with qos := { s.qos with res := Table.put {} s.qos.res r x } }

/-- D as taken at the last boundary (R289). -/
def State.resD (s : State) (r : Nat) : Nat := (s.res r).d.getD (nominal s.variant r)

/-! ## Guarantees (R278, R287, R288) -/

/-- The guarantee of a class for a kind. -/
def QClass.guarantee (q : QClass) : ResKind → Nat
  | .zn => q.zn.toNat
  | .zd => q.zd.toNat
  | .host => q.host.toNat
  | .fabric => q.fabric.toNat
  | .movers => q.movers.toNat

/-- Owned classes: 63 is BACKGROUND and never one. -/
def ownedClasses (cs : Table QClass) : List (Nat × QClass) := cs.filter (fun e => e.2.owned && decide (e.1 < 63))

/-- S of R288: the sum of G over the owned classes. -/
def sumG (cs : Table QClass) (r : Nat) : Nat :=
  match resKind r with
  | some k => (ownedClasses cs).foldl (fun a (e : Nat × QClass) => a + e.2.guarantee k) 0
  | none => 0

/-- L of R288: nine tenths of D, rounded down. -/
def limitOf (d : Nat) : Nat := 9 * d / 10

/-- G′ of every owned class at a resource (R288). -/
def effOf (cs : Table QClass) (r d : Nat) : Table Nat :=
  let sum := sumG cs r
  let l := limitOf d
  match resKind r with
  | some k => ((ownedClasses cs).map (fun (e : Nat × QClass) =>
      (e.1, if sum ≤ l then e.2.guarantee k else e.2.guarantee k * l / sum))).filter (fun e => decide (e.2 ≠ 0))
  | none => []

/-- The first resource at which a configuration is not admissible (R287). -/
def firstBad (v : Variant) (cs : Table QClass) (d : Nat → Nat) : Option Nat :=
  (resList v).find? (fun r => decide (1 ≤ d r) && decide (limitOf (d r) < sumG cs r))

/-! ## Marking (R273, R278, R279) -/

def State.qclass (s : State) (c : Nat) : QClass := Table.get {} s.qos.classes c
def State.setQclass (s : State) (c : Nat) (q : QClass) : State :=
  { s with qos := { s.qos with classes := Table.put {} s.qos.classes c q } }

/-- The class that regulates a request: its label where its party owns it, else BACKGROUND. -/
def State.regulatedAs (s : State) (cls : BitVec 6) (party : Option (BitVec 8)) : Nat :=
  match party with
  | some p => if s.ownsClass p cls ∧ cls.toNat < 63 then cls.toNat else 63
  | none => 63

/-- A request of a class is issued guaranteed at a resource (R278).
(DESIGN CHOICE, assumption 39.) -/
def State.guaranteed (s : State) (r c : Nat) : Bool :=
  decide (c < 63) && decide (Table.get 0 (s.res r).guar c < Table.get 0 (s.res r).eff c)

/-- Count `n` transactions issued by a class with one marking (R279, R290). -/
def State.countIssued (s : State) (c n : Nat) (guar : Bool) : State :=
  let q := s.qclass c
  s.setQclass c { q with issued := q.issued + BitVec.ofNat 32 n
                         demoted := if guar then q.demoted else q.demoted + BitVec.ofNat 32 n
                         demNow := q.demNow || !guar }

/-- Transactions of a host port or a mover that its command makes one after the other (assumption 41). -/
def State.charge (s : State) (r : Nat) (cls : BitVec 6) (party : Option (BitVec 8)) (n : Nat) : State :=
  if n = 0 then s
  else
    let c := s.regulatedAs cls party
    s.countIssued c n (s.guaranteed r c)

/-! ## Rounds of sealed accounting (R311) -/

/-- Sum of G′ at a resource, and its transactions outstanding. -/
def Res.effSum (x : Res) : Nat := x.eff.foldl (fun a e => a + e.2) 0
def Res.guarOut (x : Res) : Nat := x.guar.foldl (fun a e => a + e.2) 0
def Res.bgOut (x : Res) : Nat := x.bg.foldl (fun a e => a + e.2) 0

/-- The key of a party among the background transactions. -/
def partyKey (p : Option (BitVec 8)) : Nat := match p with | some x => x.toNat | none => 256

/-- Bound slots in ascending order. -/
def State.boundList (s : State) : List Nat := s.ten.parties.map Prod.fst

/-- Background windows of a round. -/
def State.bgWindows (s : State) (r : Nat) : Nat := s.resD r - (s.res r).effSum

/-- Bus times of a sector that `t` counts hold: 64 to a window, of 1.28 ns, 10 ns, or 4,096 bytes at the trained rate;
at a stack nine tenths of the time, since rounds pause for the reserved share (R390, R391), spread evenly here.
(DESIGN CHOICE, assumption 109.) -/
def State.busAt (s : State) (r t : Nat) : Nat :=
  match resKind r with
  | some .zn => 1800 * t
  | some .zd => 2304 * t / 10
  | some .host => 5 * s.resD r * t / 4
  | some .fabric => 4250 * s.resD r * t / 4096
  | _ => 0

/-- The round under way: rounds of D windows run from the boundary. -/
def State.roundAt (s : State) (r : Nat) : Nat := s.busAt r (s.now % 4096) / (64 * max 1 (s.resD r))

/-- Background windows dealt to a party in round `k`: the rotation goes on from round to round. -/
def State.dealt (s : State) (r p k : Nat) : Nat :=
  let l := s.boundList
  let b := s.bgWindows r
  ((List.range b).filter (fun i => decide (l[(k * b + i) % max 1 l.length]? = some p))).length

/-- Σ G′ of a party's owned classes at a resource, and those of them that are idle. -/
def State.effOfParty (s : State) (r p : Nat) : Nat :=
  ((ownedClasses s.qos.classes).filter (fun e => decide (e.2.party.toNat = p))).foldl
    (fun a (e : Nat × QClass) => a + Table.get 0 (s.res r).eff e.1) 0
def State.idleOf (s : State) (r p : Nat) : Nat :=
  ((ownedClasses s.qos.classes).filter (fun e => decide (e.2.party.toNat = p))).foldl
    (fun a (e : Nat × QClass) => a + (Table.get 0 (s.res r).eff e.1 - Table.get 0 (s.res r).guar e.1)) 0

/-- The turns of a round in ascending party slot: party and windows. -/
def State.turns (s : State) (r : Nat) : List (Nat × Nat) :=
  (s.boundList.map (fun p => (p, s.effOfParty r p))).filter (fun x => decide (0 < x.2))

/-- The turn that holds window `i` of a round: its party and the window after it; `lo` is where the list begins. -/
def turnAt : List (Nat × Nat) → Nat → Nat → Option (Nat × Nat)
  | [], _, _ => none
  | (p, g) :: r, lo, i => if i < lo + g then some (p, lo + g) else turnAt r (lo + g) i

/-- The party that window `w` since the boundary serves, and the window at which its turn or window ends. -/
def State.windowOf (s : State) (r w : Nat) : Option (Nat × Nat) :=
  let d := max 1 (s.resD r)
  let l := s.turns r
  let own := l.foldl (fun a x => a + x.2) 0
  match turnAt l 0 (w % d) with
  | some x => some (x.1, w - w % d + x.2)
  | none =>
    let j := w % d - own
    if j < s.bgWindows r then
      (s.boundList[(w / d * s.bgWindows r + j) % max 1 s.boundList.length]?).map (fun p => (p, w + 1))
    else none

/-- Where in this count the resource serves `n` sectors of a party: the bus time at which they end, where a turn or
window of the party has that much time left. -/
def State.serveAt (s : State) (r p n : Nat) : Option Nat :=
  let c := max (s.res r).clock (s.busAt r (s.now % 4096))
  let e := s.busAt r (s.now % 4096 + 1)
  (List.range ((e - c) / 64 + 2)).findSome? (fun i =>
    let w := c / 64 + i
    let t := max c (64 * w)
    match s.windowOf r w with
    | some (q, out) => if q = p ∧ t < e ∧ t + n ≤ 64 * out then some (t + n) else none
    | none => none)

/-- A transaction of a party is served in a round: not in this count, or until when. -/
def State.servedAt (s : State) (r p n : Nat) : Option Nat := if s.ten.isSealed then s.serveAt r p n else some (s.res r).clock

/-! ## Slots (R280, R281) -/

/-- A slot is to be had for a transaction. While sealed accounting is in force a background one takes only its party's
share of the round (of the movers', which have no rounds, the whole share) and its party's idle reserved slots. -/
def State.slotFree (s : State) (r : Nat) (guar : Bool) (p : Nat) : Bool :=
  let x := s.res r
  let mine := if r = resMovers then x.bgOut else Table.get 0 x.bg p
  let share := if r = resMovers then s.bgWindows r else s.dealt r p (s.roundAt r)
  decide (x.guarOut + x.bgOut < s.resD r) && (guar || !s.ten.isSealed || decide (mine < share + s.idleOf r p))

/-- The slot of a transaction of a class and party issued now. -/
def State.markAt (s : State) (r c p : Nat) : SlotMark := ⟨r, c, s.guaranteed r c, p⟩

/-- A transaction takes its slot, or gives it back. -/
def State.takeMark (s : State) (m : SlotMark) : State :=
  let x := s.res m.res
  s.setRes m.res (if m.guar then { x with guar := Table.modify 0 x.guar m.cls (· + 1) } else { x with bg := Table.modify 0 x.bg m.party (· + 1) })
def State.giveMark (s : State) (m : SlotMark) : State :=
  let x := s.res m.res
  s.setRes m.res (if m.guar then { x with guar := Table.modify 0 x.guar m.cls (· - 1) } else { x with bg := Table.modify 0 x.bg m.party (· - 1) })

/-- The resource has served until bus time `t`. -/
def State.servedTo (s : State) (r t : Nat) : State := s.setRes r { s.res r with clock := t }

end Sys2Proof.Machine
end

