-- ==== Sys2Proof/Machine/Layout.lean ====
section
/-! DEFINITION. Where the tiers hold tracts: stripes, data and parity positions, the locations that extents and
near copies draw, and the slots behind retired stripes (R22, R24, R26, R41, R406, R407). -/

namespace Sys2Proof.Machine

/-! ## Stripes (R22) -/

/-- Data slots of a stripe (R21); a reclaim group of 512 stripes holds as many tracts (R419). -/
def groupTracts (v : Variant) : Tier → Nat
  | .near => v.nearData
  | .deep => 30

/-- Stacks of a tier that hold the parity of stripe `n` (R22), as places among the tier's stacks. -/
def parityAt (v : Variant) (t : Tier) (n : Nat) : List Nat :=
  let m := (v.stacksOf t).length
  match t with
  | .near => [n % m]
  | .deep => [n % m, (n + 16) % m]

/-- Places of the data positions of stripe `n`, in position order: downwards from the stripe's parity place, so
that any run of consecutive blocks as long as a stripe lies on distinct stacks (R22).
(DEDUCED, assumption 20.) -/
def dataAt (v : Variant) (t : Tier) (n : Nat) : List Nat :=
  let m := (v.stacksOf t).length
  ((List.range (m - 1)).map (fun i => (n % m + m - 1 - i) % m)).filter (fun k => !((parityAt v t n).contains k))

/-- Stripe and data position of block `b` of the tract at location `loc` (R22). -/
def stripeOf (v : Variant) (t : Tier) (loc b : Nat) : Nat × Nat :=
  ((512 * loc + b) / groupTracts v t, (512 * loc + b) % groupTracts v t)

/-- Slots of a stack outside its reserve (R21, R381). -/
def stackSlots (v : Variant) : Tier → Nat
  | .near => 25165824 - (match v with | .e => 4194304 | _ => 2097152)
  | .deep => 50331648 - 3145728

/-! ## Locations (R26, R41) -/

/-- Location of the `t`-th tract of a list of runs. -/
def runAt : List (Nat × Nat) → Nat → Option Nat
  | [], _ => none
  | (a, n) :: r, t => if t < n then some (a + t) else runAt r (t - n)

/-- Tract that a list of runs holds at a location. -/
def runIndex : List (Nat × Nat) → Nat → Option Nat
  | [], _ => none
  | (a, n) :: r, l => if a ≤ l ∧ l < a + n then some (l - a) else (runIndex r l).map (n + ·)

/-- A run without one of its locations. -/
def cutRun (r : Nat × Nat) (l : Nat) : List (Nat × Nat) :=
  if r.1 ≤ l ∧ l < r.1 + r.2 then
    [(r.1, l - r.1), (l + 1, r.1 + r.2 - (l + 1))].filter (fun x => decide (x.2 ≠ 0))
  else [r]

/-- The extent draws on the tier. -/
def ExtKind.on (k : ExtKind) : Tier → Bool
  | .near => decide (k = .pinnedNear)
  | .deep => decide (k ≠ .pinnedNear)

/-- Locations of a tier in use: the runs of the extents that draw on it, without the tracts that have left it, and
in the near tier the near copies. -/
def State.usedRuns (s : State) (t : Tier) : List (Nat × Nat) :=
  let homes := (s.ten.extents.filter (fun e => e.2.kind.on t)).flatMap (fun e =>
    let gone := (s.place.tracts.filter (fun x => x.2.away && decide (x.1 / 2 ^ 20 = e.1))).filterMap
      (fun x => runAt e.2.runs (x.1 % 2 ^ 20))
    gone.foldl (fun l g => l.flatMap (cutRun · g)) e.2.runs)
  match t with
  | .near => homes ++ (s.place.tracts.filterMap (fun x => x.2.near)).map (fun l => (l, 1))
  | .deep => homes

/-- The first location from `c` up that no run holds, and the end of the gap there, below `limit`. -/
def nextGap (used : List (Nat × Nat)) (limit : Nat) : Nat → Nat → Option (Nat × Nat)
  | 0, _ => none
  | k + 1, c =>
    if limit ≤ c then none
    else match used.find? (fun r => decide (r.1 ≤ c ∧ c < r.1 + r.2)) with
      | some r => nextGap used limit k (r.1 + r.2)
      | none => some (c, used.foldl (fun e r => if c < r.1 then min e r.1 else e) limit)

/-- The lowest `need` free locations below `limit`, as runs. -/
def takeFree (used : List (Nat × Nat)) (limit : Nat) : Nat → Nat → Nat → List (Nat × Nat)
  | 0, _, _ => []
  | k + 1, c, need =>
    if need = 0 then []
    else match nextGap used limit (used.length + 1) c with
      | none => []
      | some (a, e) => (a, min need (e - a)) :: takeFree used limit k (min e (a + need)) (need - min need (e - a))

/-- Usable tracts of a tier (R24). -/
def State.usable (s : State) : Tier → Nat
  | .near => s.place.nearUsable
  | .deep => s.place.deepUsable

/-- The lowest `n` free locations of a tier.
(DESIGN CHOICE, assumption 120.) -/
def State.freeRuns (s : State) (t : Tier) (n : Nat) : List (Nat × Nat) :=
  let used := s.usedRuns t
  takeFree used (s.usable t) (used.length + 1) 0 n

/-- The near location that a promotion takes. -/
def State.freeNear (s : State) : Option Nat := ((s.freeRuns .near 1).head?).map Prod.fst

/-- The near tract a promotion needs is to be had: from its window's reservation, or because no more tracts are
occupied than the pool holds. -/
def State.roomFor (s : State) (x : Tract) : Bool := x.window.isSome || decide (s.poolUsed ≤ s.nearPool)

/-- A tract's copy into the near tier starts: its location is taken, where the tract waits for an eviction, at the
copy's end (R36, R37). -/
def State.startCopy (s : State) (h : Word) (t : Nat) (x : Tract) : State :=
  let s1 := s.setTract h t { x with state := .promoting, near := none, began := s.now }
  if s1.roomFor x then s1.setTract h t { x with state := .promoting, near := s1.freeNear, began := s.now } else s1

/-! ## Where a block lies -/

/-- The tier that serves reads of a tract's blocks (R36). -/
def State.blockTier (s : State) (h : Word) (blk : Nat) : Tier :=
  match s.extent h with
  | some e => (match e.kind with
    | .pinnedNear => .near
    | .pinnedDeep => .deep
    | .tiered =>
      let x := s.tract h (blk / 512)
      if x.isNear || decide (x.state = .evicting) then .near else .deep)
  | none => .near

/-- The location that serves reads of a block's tract. -/
def State.locOf (s : State) (h : Word) (blk : Nat) : Option Nat :=
  match s.extent h with
  | some e =>
    if e.kind.on (s.blockTier h blk) then runAt e.runs (blk / 512) else (s.tract h (blk / 512)).near
  | none => none

/-- Retired stripes of a tier, as voted; the longest of three different copies (R506). -/
def State.retired (s : State) (t : Tier) : List Nat :=
  let v := match t with | .near => s.rel.retiredNear | .deep => s.rel.retiredDeep
  let most := if v.b.length ≤ v.a.length then v.a else v.b
  v.vote (if v.c.length ≤ most.length then most else v.c)

/-- The slot index, on every stack of the tier, of a stripe: its number, and for a retired stripe that of the
reserve stripe that took its place (R406).
(DESIGN CHOICE, assumption 22.) -/
def State.slotOfStripe (s : State) (t : Tier) (n : Nat) : Nat :=
  match (s.retired t).findIdx? (fun k => decide (k = n)) with
  | some i => stackSlots s.variant t + i
  | none => n

/-- Stacks of a tier that are not lost. -/
def State.stacksUp (s : State) (t : Tier) : List Nat :=
  (s.variant.stacksOf t).filter (fun n => decide ((s.stack n).state ≠ .failed))

/-- Where the slot of stripe `n` on stack `k` lies: on the stack itself, and for a lost stack in the reserve of
survivor number n mod m of the `m` survivors (R407).
(DESIGN CHOICE, assumption 22.) -/
def State.slotOn (s : State) (t : Tier) (k n : Nat) : Nat × Nat :=
  let i := s.slotOfStripe t n
  let up := s.stacksUp t
  if (s.stack k).state = .failed then
    (match up[i % up.length]? with
     | some j => (j, stackSlots s.variant t + i / up.length)
     | none => (k, i))
  else (k, i)

/-- Stack and slot that hold a block (R22). -/
def State.placeOf (s : State) (h : Word) (blk : Nat) : Option (Nat × Nat) :=
  let t := s.blockTier h blk
  (s.locOf h blk).map (fun l =>
    let p := stripeOf s.variant t l (blk % 512)
    s.slotOn t ((s.variant.stacksOf t).getD ((dataAt s.variant t p.1).getD p.2 0) 0) p.1)

/-! ## What a slot holds -/

/-- The block whose slot lies at location `loc` of a tier, block `b` of the tract there: of a pinned extent or a
deep home, or the near copy of a tract. -/
def State.blockHeld (s : State) (t : Tier) (loc b : Nat) : Option (Word × Nat) :=
  let homes := s.ten.extents.findSome? (fun e =>
    if e.2.kind.on t then (runIndex e.2.runs loc).map (fun i => (BitVec.ofNat 32 e.1, 512 * i + b)) else none)
  match t, homes with
  | _, some r => some r
  | .near, none => (s.place.tracts.find? (fun x => decide (x.2.near = some loc))).map (fun x =>
      (BitVec.ofNat 32 (x.1 / 2 ^ 20), 512 * (x.1 % 2 ^ 20) + b))
  | .deep, none => none

/-- The block whose slot is slot `i` of stack `n`; none for a parity slot, an unused one and one that a lost slot was
rebuilt into. -/
def State.blockOn (s : State) (n i : Nat) : Option (Word × Nat) :=
  let t := tierOf n
  let stripe := if i < stackSlots s.variant t then i else (s.retired t).getD (i - stackSlots s.variant t) i
  match (s.variant.stacksOf t).findIdx? (fun k => decide (k = n)) with
  | none => none
  | some k =>
    match (dataAt s.variant t stripe).findIdx? (fun j => decide (j = k)) with
    | some p =>
      let b := groupTracts s.variant t * stripe + p
      s.blockHeld t (b / 512) (b % 512)
    | none => none

/-- Locations at or above the tier's usable end move to the lowest free ones below it (R419). -/
def State.relocate (s : State) (t : Tier) : State :=
  let limit := s.usable t
  let move := fun (st : State) (r : Nat × Nat) =>
    if r.1 + r.2 ≤ limit then [r]
    else if r.1 < limit then (r.1, limit - r.1) :: st.freeRuns t (r.1 + r.2 - limit)
    else st.freeRuns t r.2
  let s1 := (s.ten.extents.filter (fun e => e.2.kind.on t)).foldl (fun (st : State) e =>
    { st with ten := { st.ten with extents := Table.update st.ten.extents e.1 (fun x =>
        { x with runs := x.runs.flatMap (move st) }) } }) s
  match t with
  | .near => s1.place.tracts.foldl (fun (st : State) e =>
      match e.2.near with
      | some l => if limit ≤ l then st.modTract e.1 (fun x => { x with near := st.freeNear }) else st
      | none => st) s1
  | .deep => s1

end Sys2Proof.Machine
end

