-- ==== Sys2Proof/Machine/Placement.lean ====
section
/-! DEFINITION. Tract placement: PROMOTE, EVICT, PIN, UNPIN, device-initiated placement and layer windows
(R31 to R52). -/

namespace Sys2Proof.Machine

/-! ## Descriptor work -/

/-- A started descriptor of opcode `op` and sub-operation `sub` that has the buffer it needs is worked on;
otherwise nothing. -/
def State.work (s : State) (d op sub : Nat) (f : Desc → State) : State :=
  match s.desc d with
  | none => s
  | some x => if x.phase = .started ∧ x.opcode = op ∧ x.subop = sub ∧ s.hasBuf x then f x else s

/-- Work that is due to begin while the module sleeps is preceded by a wake (R253, INTERNAL). -/
def State.whenActive (s : State) (f : State → State) : State :=
  if s.active then f s else s.wake Wk.internal

/-! ## Range requests (R33 to R35) -/

/-- Placement requests by opcode: 0x10 PROMOTE, 0x11 EVICT, 0x12 PIN, 0x13 UNPIN. -/
def opPromote : Nat := 0x10
def opEvict : Nat := 0x11
def opPin : Nat := 0x12
def opUnpin : Nat := 0x13

/-- Tracts of a range, rounded outward (R34). -/
def rangeTracts (off len : Nat) : List Nat :=
  if len = 0 then [] else
    (List.range ((off + len - 1) / 2097152 - off / 2097152 + 1)).map (· + off / 2097152)

/-- Some count of the party on the tracts would exceed 65,535. -/
def State.countFull (s : State) (h : Word) (ts : List Nat) (p : BitVec 8) : Bool :=
  ts.any (fun t => decide (65535 ≤ s.pin h t p))

/-- Entries that counting the tracts up adds to the directory. -/
def State.newEntries (s : State) (h : Word) (ts : List Nat) (p : BitVec 8) : Nat :=
  (ts.filter (fun t => decide (s.pin h t p = 0))).length

/-- Why the tracts cannot all be pinned: 0 a count, 1 the directory, 2 the party's limit (R34, R46). -/
def State.pinRefusal (s : State) (h : Word) (ts : List Nat) (p : BitVec 8) : Option Nat :=
  if s.countFull h ts p then some 0
  else if 1048576 < s.place.pins.length + s.newEntries h ts p then some 1
  else if s.pinLimitOf p < s.pinEntries p + s.newEntries h ts p then some 2
  else none

/-- Tracts on their way out that no pin and no pending promotion keeps. -/
def State.leaving (s : State) (except : List Nat) : Nat :=
  (s.place.tracts.filter (fun e => decide (e.2.state = .evicting) && !e.2.pending &&
    decide (e.2.window = none) && !(except.contains e.1))).length

/-- The near pool cannot hold every tract of the range (R34 step 5). -/
def State.noSpace (s : State) (h : Word) (ts : List Nat) : Bool :=
  let keys := ts.map (tractKey h)
  let need := (ts.filter (fun t => decide ((s.tract h t).state = .deep))).length
  decide (s.poolFree + s.leaving keys +
    (s.evictable.filter (fun k => !(keys.contains k))).length < need)

/-- The first status of R34, steps 2 to 5, that applies. -/
def State.placeStatus (s : State) (op : Nat) (h : Word) (ts : List Nat) (p : BitVec 8) : Option Status :=
  if (op = opPromote ∨ op = opEvict) ∧ !(s.tiered h) then some St.notTiered
  else if op = opUnpin ∧ ts.any (fun t => decide (s.pin h t p = 0)) then some St.notPinned
  else if (op = opPromote ∨ op = opPin) ∧ (s.pinRefusal h ts p).isSome then some St.pinLimit
  else if op = opPromote ∧ s.noSpace h ts then some St.noSpace
  else none

/-! ## The placement machine (R37) -/

/-- Count up or down, then the transition, for one tract; the descriptor waits on the tract where its
outcome is still to come. -/
def State.placeOne (s : State) (op d : Nat) (h : Word) (p : BitVec 8) (t : Nat) : State :=
  let k := tractKey h t
  let n := s.pin h t p
  let s1 := s.setPin h t p (if op = opPromote ∨ op = opPin then n + 1 else n - 1)
  let wait := fun (st : State) => st.modDesc d (fun x => { x with tracts := x.tracts ++ [k] })
  let x := s1.tract h t
  if !(s1.tiered h) then s1
  else if op = opPromote then
    match x.state with
    | .deep => wait (s1.startCopy h t { x with promoters := [d], evicters := [], window := none })
    | .promoting => wait (s1.setTract h t { x with promoters := x.promoters ++ [d] })
    | .evicting => wait (s1.setTract h t { x with pending := true, promoters := x.promoters ++ [d] })
    | _ => s1
  else if op = opPin then
    (if x.state = .evicting then s1.setTract h t { x with pending := true } else s1)
  else if op = opEvict then
    match x.state with
    | .deep => s1
    | .promoting => wait (s1.setTract h t { x with evicters := x.evicters ++ [d] })
    | .evicting => wait (s1.setTract h t { x with evicters := x.evicters ++ [d] })
    | .near =>
      if s1.totalPins k = 0 then
        wait (s1.setTract h t { x with
          state := .evicting, pending := false, evicters := [d], promoters := [], began := s.now })
      else s1.modDesc d (fun y => { y with retained := true })
    | .nearHomed => s1.modDesc d (fun y => { y with retained := true })
  else s1

/-- Status of a range request whose tracts have all reached their outcomes (R35). -/
def Desc.rangeStatus (x : Desc) : Status :=
  if x.poisoned then St.poisoned else if x.retained then St.retained else St.ok

/-- A descriptor that waits for no tract ends. -/
def State.rangeDone (s : State) (d : Nat) : State :=
  match s.desc d with
  | some x => if x.tracts.isEmpty then s.endDesc d x.rangeStatus 0 0 else s
  | none => s

/-- One tract of a waiting descriptor has reached its outcome. -/
def State.settleTract (s : State) (k : Nat) (retained poisoned : Bool) (d : Nat) : State :=
  (s.modDesc d (fun x => { x with tracts := x.tracts.erase k
                                  retained := x.retained || retained
                                  poisoned := x.poisoned || poisoned })).rangeDone d

/-- The entries that share the cache with a tract of handle `h`, and how many of them there may be: all 262,144,
and while sealed accounting is in force the owner's, an equal part for each bound party (R41, R312).
(DEDUCED, assumption 110.) -/
def State.sharesCache (s : State) (h : Word) (k : Nat) : Bool :=
  !s.ten.isSealed || decide ((s.extent (BitVec.ofNat 32 (k / 2 ^ 20))).bind Extent.owner = (s.extent h).bind Extent.owner)
/-- (DEDUCED, assumption 110.) -/
def State.cacheShare (s : State) : Nat :=
  if s.ten.isSealed then 262144 / max 1 s.ten.parties.length else 262144

/-- A range request at the placement engine: it waits until the tract-map entries it needs, as many as its share
of the cache holds, are on die (R41). -/
def rangeRequest (op d : Nat) (s : State) : State :=
  s.work d op 0 (fun x =>
    match x.slot 24, x.party with
    | some (.ext h off), some p =>
      let ts := rangeTracts off (x.field 56 8)
      let near := ts.take s.cacheShare
      if near.any (fun t => !(s.mapped h t)) then
        (near.filter (fun t => !(s.mapped h t))).foldl (fun st t => st.needEntry (tractKey h t)) s
      else match s.placeStatus op h ts p with
        | some st => s.endDesc d st 0 0
        | none =>
          let keys := ts.map (tractKey h)
          let need := (ts.filter (fun t => decide ((s.tract h t).state = .deep))).length
          let s1 := if op = opPromote then s.evictSome (need - s.poolFree - s.leaving keys) keys else s
          let s2 := (if op = opPromote then s1.charge resMovers x.cls (some p) (512 * need) else s1).modDesc d
            (fun y => { y with phase := .working })
          (ts.foldl (fun st t => (if st.mapped h t then st else st.needEntry (tractKey h t)).placeOne op d h p t) s2).rangeDone d
    | _, _ => s)

def execPromote (d : Nat) (s : State) : Outcome := .next (if s.unitDown .placement 0 then s else rangeRequest opPromote d s)
def execEvict (d : Nat) (s : State) : Outcome := .next (if s.unitDown .placement 0 then s else rangeRequest opEvict d s)
def execPin (d : Nat) (s : State) : Outcome := .next (if s.unitDown .placement 0 then s else rangeRequest opPin d s)
def execUnpin (d : Nat) (s : State) : Outcome := .next (if s.unitDown .placement 0 then s else rangeRequest opUnpin d s)

/-! ## Layer windows (R42 to R51) -/

/-- The window's state with nothing installed. -/
def noWindow : LayerWindow := ⟨0, 0, [], 0, .once, none, 0, 0, 0, false, [], [], 0, false, none⟩

def State.window (s : State) (w : Nat) : Option LayerWindow := Table.find s.place.windows w
def State.setWindow (s : State) (w : Nat) (x : LayerWindow) : State :=
  { s with place := { s.place with windows := Table.set s.place.windows w x } }

/-- Tracts of the entry of position `p`, with its extent. -/
def LayerWindow.tractsAt (x : LayerWindow) (p : Nat) : List (Word × Nat) :=
  match x.entryOf p with
  | some e => (List.range e.count).map (fun i => (e.handle, e.first + i))
  | none => []

/-- The keys of the tracts that window `w` has at position `p`. -/
def State.positionKeys (s : State) (w p : Nat) : List Nat :=
  match s.window w with
  | some x => (x.tractsAt p).map (fun y => tractKey y.1 y.2)
  | none => []

/-- Every tract of position `p` is NEAR. -/
def State.positionNear (s : State) (x : LayerWindow) (p : Nat) : Bool :=
  (x.tractsAt p).all (fun y => (s.tract y.1 y.2).isNear)

/-- The promotion in progress of window `w` ends if every tract of its position is NEAR: the arrival
gate gains a completion (R47). -/
def State.windowArrive (s : State) (w : Nat) : State :=
  match s.window w with
  | none => s
  | some x =>
    if x.promoting && s.positionNear x x.done then
      let s1 := s.setWindow w { x with promoting := false, done := x.done + 1, pinWait := false }
      match x.arrival with | some g => s1.addGate g 1 | none => s1
    else s

/-- Every window whose promotion this ends. -/
def State.windowsArrive (s : State) : State :=
  s.place.windows.foldl (fun st w => st.windowArrive w.1) s

/-- Request position `p`: its SOURCE_GATE's target is recorded (R266). -/
def State.requestPos (s : State) (x : LayerWindow) (p : Nat) : LayerWindow :=
  match x.entryOf p with
  | none => x
  | some e =>
    let t := match e.source with | some g => [(p, (s.gate g).t)] | none => []
    { x with requested := p + 1, targets := x.targets ++ t }

/-- The bytes of a window program: header and entries (R42). -/
def parseEntry (b : Bytes) (i : Nat) : WinEntry :=
  let o := 16 * (i + 1)
  { source := gateField (fieldAt b o 2), handle := BitVec.ofNat 32 (fieldAt b (o + 4) 4)
    first := fieldAt b (o + 8) 4, count := fieldAt b (o + 12) 4 }

/-- A gate field whose reserved bits are 0. -/
def gateFieldOk (v : Nat) : Bool := decide (bitsOf v 14 8 = 0)

/-- LAYERS, DEPTH and MODE in range and every reserved byte 0 (R42, R44 step 3). A layer holds one tract
or more, and the reserved bits of a gate field are 0.
(DESIGN CHOICE, assumption 122.) -/
def programOk (b : Bytes) : Bool :=
  let n := fieldAt b 0 2
  let k := fieldAt b 2 1
  decide (1 ≤ n ∧ n ≤ 4096) && decide (1 ≤ k ∧ k ≤ 64) && decide (fieldAt b 3 1 ≤ 2) &&
    gateFieldOk (fieldAt b 4 2) && decide (fieldAt b 6 10 = 0) &&
    (List.range n).all (fun i =>
      let o := 16 * (i + 1)
      gateFieldOk (fieldAt b o 2) && decide (fieldAt b (o + 2) 2 = 0) && decide (1 ≤ fieldAt b (o + 12) 4))

/-- The status of one entry's reach (R44 step 2). -/
def State.entryStatus (s : State) (p : BitVec 8) (accept : Nat) (e : WinEntry) : Option Status :=
  match s.reach (s.gpid p) e.handle (e.first * 2097152) (e.count * 2097152) .place false accept with
  | some st => some st
  | none => if s.tiered e.handle then none else some St.notTiered

/-- The status that ends an INSTALL of the program `b`, none for OK (R44). The reservation is of free
tracts only (DEDUCED, assumption 118). -/
def State.installStatus (s : State) (w : Nat) (p : BitVec 8) (accept bytes : Nat) (b : Bytes)
    (x : LayerWindow) : Option Status :=
  let most := x.entries.foldl (fun m e => max m e.count) 0
  if (s.window w).isSome then some St.windowBusy
  else match x.entries.findSome? (s.entryStatus p accept) with
    | some st => some st
    | none =>
      if bytes ≠ 16 * (fieldAt b 0 2 + 1) ∨ !(programOk b) then some St.malformedProgram
      else if s.poolFree < x.depth * most then some St.noSpace
      else
        let ts := (List.range x.depth).flatMap (x.tractsAt ·)
        if ts.any (fun y => decide (65535 < s.pin y.1 y.2 p + ts.count y)) ∨
            1048576 < s.place.pins.length + (ts.eraseDups.filter (fun y => decide (s.pin y.1 y.2 p = 0))).length ∨
            s.pinLimitOf p < s.pinEntries p + (ts.eraseDups.filter (fun y => decide (s.pin y.1 y.2 p = 0))).length
        then some St.pinLimit
        else none

/-- The plain bytes of a run in an extent, or the status that reading it ends with. -/
def State.readExt (s : State) (h : Word) (off len : Nat) : Except Status Bytes :=
  let first := off / 4096
  let n := (off + len + 4095) / 4096 - first
  let blocks := (List.range n).map (fun i => s.slotPlain (.ext h ((first + i) * 4096)))
  if blocks.any (fun r => decide (r = .invalid)) then .error St.huskInvalid
  else if blocks.any (fun r => decide (r = .poisoned)) then .error St.poisoned
  else .ok (sliceBytes (blocks.flatMap (fun r => match r with | .bytes b => b | _ => [])) (off % 4096) len)

/-- A parameter block named by a slot: from the host reads or the extent, or the status it ends with.
`none` while an access waits. -/
def State.paramBlock (s : State) (d : Desc) (x : Slot) (len : Nat) (h : HostData) : Except Status Bytes :=
  match x with
  | .host _ _ => if h.refused.isSome ∨ h.bytes.length < len then .error d.short
                 else .ok (h.bytes.take len)
  | .ext e off => s.readExt e off len
  | _ => .error St.malformed

/-- End a descriptor with a status; a TRANSLATION_FAULT reports the address refused (R239). -/
def State.endWith (s : State) (d : Nat) (st : Status) (h : HostData) : State :=
  s.endDesc d st 0 (if st = St.translationFault then h.refused.getD 0 else 0)

def execWindowInstall (d : Nat) (h : HostData) (s : State) : Outcome :=
  .next (if s.unitDown .placement 0 then s else s.work d 0x14 0 (fun x =>
    match (x.slot 40).map s.resolve, x.party with
    | some sl, some p =>
      let bytes := x.field 56 4
      let w := x.field 24 1
      s.withBlocks srcMovers (.desc x.go) (sl.accs bytes false) (sl.blocks bytes) (fun s =>
        if (s.window w).isSome then s.endDesc d St.windowBusy 0 0
        else match s.paramBlock x sl bytes (x.got h) with
          | .error st => s.endWith d st (x.got h)
          | .ok b =>
            let n := fieldAt b 0 2
            let y : LayerWindow :=
              { noWindow with
                party := p, cls := x.cls, depth := fieldAt b 2 1
                entries := (List.range (min n (bytes / 16 - 1))).map (parseEntry b)
                mode := if fieldAt b 3 1 = 0 then .once else if fieldAt b 3 1 = 1 then .cycle else .bounce
                arrival := gateField (fieldAt b 4 2) }
            match s.installStatus w p x.accept bytes b y with
            | some st => s.endDesc d st 0 0
            | none =>
              let y1 := { y with reserved := y.depth * y.entries.foldl (fun m e => max m e.count) 0 }
              let y2 := (List.range y.depth).foldl (fun a i => s.requestPos a i) y1
              (s.setWindow w y2).endDesc d St.ok 0 0)
    | _, _ => s))

/-- The window release of R33 on the tracts of position `p`: the pins that its promotion took are
dropped, and near tracts that no other held position holds leave the window's reservation and count against the
pool at once.
(DESIGN CHOICE, assumption 123.) -/
def State.releasePos (s : State) (w : Nat) (x : LayerWindow) (p : Nat) : State :=
  let pinned := decide (p < x.done) || (decide (p = x.done) && x.promoting)
  let later := (List.range (x.requested - (p + 1))).map (· + (p + 1))
  (x.tractsAt p).foldl (fun st y =>
    let st1 := if pinned then st.setPin y.1 y.2 x.party (st.pin y.1 y.2 x.party - 1) else st
    let kept := later.any (fun q => match x.entryOf q with | some e => e.holds y.1 y.2 | none => false)
    let t := st1.tract y.1 y.2
    if !kept && decide (t.window = some w) then st1.setTract y.1 y.2 { t with window := none } else st1) s

/-- Take the next position's release: its tracts are released and position p + K is requested. -/
def State.takeRelease (s : State) (w : Nat) (x : LayerWindow) : State :=
  let p := x.released
  let s1 := s.releasePos w x p
  s1.setWindow w (s1.requestPos { x with released := p + 1 } (p + x.depth))

/-- Releases held for position order take effect once it is their turn; one that repeats a released
position is ignored (R48). The first argument bounds the releases taken. -/
def State.takeHeld : Nat → Nat → State → State
  | 0, _, s => s
  | n + 1, w, s =>
    match s.window w with
    | none => s
    | some x =>
      match x.held.find? (fun h => decide (h.1 ≤ x.released)) with
      | none => s
      | some (p, d) =>
        let y := { x with held := x.held.erase (p, d) }
        let s1 := s.setWindow w y
        let s2 :=
          if p = x.released then s1.takeRelease w y
          else match s1.desc d with
            | some de => s1.raise 0x0204 Sev.notice Uk.placement 0 de.chan w p
            | none => s1
        State.takeHeld n w (s2.endDesc d St.ok 0 0)

def execWindowRelease (d : Nat) (s : State) : Outcome :=
  .next (if s.unitDown .placement 0 then s else s.work d 0x14 1 (fun x =>
    let w := x.field 24 1
    match s.window w with
    | none => s.endDesc d St.accessDenied 0 0
    | some y =>
      if x.party ≠ some y.party then s.endDesc d St.accessDenied 0 0
      else
        let q := x.field 28 4
        let ahead := (q + 2 ^ 32 - y.released % 2 ^ 32) % 2 ^ 32
        let ignore := (s.raise 0x0204 Sev.notice Uk.placement 0 x.chan w q).endDesc d St.ok 0 0
        if 2 ^ 31 ≤ ahead then ignore
        else
          let p := y.released + ahead
          if y.requested ≤ p then ignore
          else
            State.takeHeld (y.held.length + 1) w
              ((s.setWindow w { y with held := y.held ++ [(p, d)] }).modDesc d
                (fun z => { z with phase := .working }))))

/-- Drop everything a window holds (R50): pins, reservation, stalls, held releases, which complete OK.
(DESIGN CHOICE, assumption 124.) -/
def State.removeWindow (s : State) (w : Nat) : State :=
  match s.window w with
  | none => s
  | some y =>
    let ps := (List.range (y.requested - y.released)).map (· + y.released)
    let s1 := ps.foldl (fun st p => st.releasePos w y p) s
    let s2 := { s1 with place := { s1.place with
                 windows := Table.del s1.place.windows w
                 tracts := s1.place.tracts.map (fun (e : Nat × Tract) =>
                   if e.2.window = some w then (e.1, { e.2 with window := none }) else e) } }
    (y.held.foldl (fun (st : State) h => st.endDesc h.2 St.ok 0 0) s2).endStalls (fun x => decide (x.window = w))

def execWindowRemove (d : Nat) (s : State) : Outcome :=
  .next (if s.unitDown .placement 0 then s else s.work d 0x14 2 (fun x =>
    let w := x.field 24 1
    match s.window w with
    | none => s.endDesc d St.accessDenied 0 0
    | some y =>
      if x.party ≠ some y.party then s.endDesc d St.accessDenied 0 0
      else (s.removeWindow w).endDesc d St.ok 0 0))

/-- One tract of a window prefetch (R33, R37): pinned unless its position was released already. -/
def State.prefetchOne (s : State) (w : Nat) (x : LayerWindow) (pinned : Bool) (y : Word × Nat) : State :=
  let s1 := if pinned then s.setPin y.1 y.2 x.party (s.pin y.1 y.2 x.party + 1) else s
  let t := s1.tract y.1 y.2
  match t.state with
  | .deep => (s1.startCopy y.1 y.2 { t with promoters := [], evicters := [], window := some w }).needEntry (tractKey y.1 y.2)
  | .evicting => s1.setTract y.1 y.2 { t with pending := true }
  | _ => s1

/-- Begin the promotion of the next position, or wait for its pins (R45, R46). A position released before its
promotion begins is promoted without pins. A tract whose map entry is not cached is fetched first (R41).
(DESIGN CHOICE, assumption 125.) -/
def State.beginPosition (s : State) (w : Nat) (x : LayerWindow) : State :=
  let p := x.done
  let ts : List (Word × Nat) := x.tractsAt p
  let pinned := decide (x.released ≤ p)
  let why := match x.entryOf p with
    | some e => if pinned then s.pinRefusal e.handle (ts.map Prod.snd) x.party else none
    | none => none
  match why with
  | some r =>
    let s1 := s.setWindow w { x with pinWait := true, pinLogged := some p }
    if x.pinLogged = some p then s1 else s1.raise 0x0206 Sev.notice Uk.placement 0 w p r
  | none =>
    let n := (ts.filter (fun y => decide ((s.tract y.1 y.2).state = .deep))).length
    let s1 := ts.foldl (fun (st : State) y => st.prefetchOne w x pinned y) (s.charge resMovers x.cls (some x.party) (512 * n))
    (s1.setWindow w { x with promoting := true, pinWait := false }).windowArrive w

/-- The next position may begin: requested, none in progress, its SOURCE_GATE open. -/
def State.positionDue (s : State) (x : LayerWindow) : Bool :=
  !x.promoting && decide (x.done < x.requested) && !(s.sourceClosed x x.done)

def execWindowPromotionStart (w : BitVec 6) (s : State) : Outcome :=
  .next (if s.unitDown .placement 0 then s else match s.window w.toNat with
    | some x => if s.positionDue x && !x.pinWait then s.whenActive (fun s => s.beginPosition w.toNat x) else s
    | none => s)

def execWindowPinRetry (w : BitVec 6) (s : State) : Outcome :=
  .next (if s.unitDown .placement 0 then s else match s.window w.toNat with
    | some x => if s.positionDue x && x.pinWait then s.whenActive (fun s => s.beginPosition w.toNat x) else s
    | none => s)

/-! ## Device-initiated placement (R39 to R41) -/

/-- `pm` per mille of the near pool in tracts, rounded down, as R39's numbers are. -/
def State.pmOf (s : State) (pm : Nat) : Nat := pm * s.nearPool / 1000

/-- Free near-pool tracts are below `pm` per mille of the near pool. -/
def State.belowPm (s : State) (pm : Nat) : Bool := decide (s.poolFree < s.pmOf pm)

/-- Tracts whose write-back pressure eviction starts: enough to bring free tracts to HIGH_PM; one at a
time where HIGH_PM is not above LOW_PM or either is above 1,000 (R54). -/
def State.pressureNeed (s : State) : Nat :=
  let lo := s.place.lowPm.toNat
  let hi := s.place.highPm.toNat
  if hi ≤ lo ∨ 1000 < lo ∨ 1000 < hi then 1
  else s.pmOf hi - s.poolFree - s.leaving []

/-- Write-backs of pressure eviction start, as BACKGROUND traffic (R274). -/
def State.pressureEvict (s : State) : State :=
  (s.charge resMovers 63 none (512 * min s.pressureNeed s.evictable.length)).evictSome s.pressureNeed []

/-- Running pressure eviction goes on after a write-back, or stops: at HIGH_PM, without an eligible
tract, or by R54 once it has made one tract free. -/
def State.pressureGoOn (s : State) (freed : Bool) : State :=
  if !s.place.pressure then s
  else
    let one := decide (s.place.highPm.toNat ≤ s.place.lowPm.toNat ∨ 1000 < s.place.lowPm.toNat ∨
      1000 < s.place.highPm.toNat)
    let met := !(s.belowPm s.place.highPm.toNat) || (one && freed)
    if met || (s.evictable.isEmpty && decide (s.leaving [] = 0)) then
      { s with place := { s.place with pressure := false } }
    else if one && decide (0 < s.leaving []) then s
    else s.pressureEvict

def execPressureEvictionStart (s : State) : Outcome :=
  .next (if s.unitDown .placement 0 then s else
    if s.belowPm s.place.lowPm.toNat && !s.place.pressure && !s.evictable.isEmpty then
      s.whenActive (fun s =>
        let s1 := s.pressureEvict
        { s1 with place := { s1.place with pressure := true } })
    else s)

def execHotPromotion (h : Word) (t : Nat) (s : State) : Outcome :=
  .next (if s.unitDown .placement 0 then s else
    let x := s.tract h t
    let th := s.place.hotThresh.toNat
    if s.tiered h && decide (th ≠ 0) && decide (x.state = .deep) && !x.moving && x.spilled.isNone && decide (th ≤ x.reads) &&
        decide (s.now % 4096 = 0) && decide (x.period + 1 = s.now / 4096) &&
        decide (s.pmOf s.place.lowPm.toNat < s.poolFree) then
      s.whenActive (fun s =>
        ((s.charge resMovers 63 none 512).startCopy h t
          { x with promoters := [], evicters := [], window := none, reads := 0 }).needEntry (tractKey h t))
    else s)

/-- Some block of the tract is poisoned; `dirty` restricts the question to dirty blocks. -/
def State.tractPoisoned (s : State) (h : Word) (t : Nat) (mask : Option (BitVec 512)) : Bool :=
  (List.range 512).any (fun i => mwPoison (s.blkMeta h (512 * t + i)) &&
    (match mask with | some m => m.getLsbD i | none => true))

/-- The writes held for a tract are released (R37): they are taken up in the order of their sources.
A tract's stalls end with its arrival, and the windows whose position this completes go on. -/
def State.nearNow (s : State) (k : Nat) : State := (s.endStalls (fun y => decide (y.tract = k))).windowsArrive

def execPromotionCopyEnd (h : Word) (t : Nat) (s : State) : Outcome :=
  .next (if s.unitDown .placement 0 then s else
    let x := s.tract h t
    if decide (x.state = .promoting) && s.roomFor x && s.mapped h t && !(s.tractRecovering h t) then
      let k := tractKey h t
      let bad := s.tractPoisoned h t none
      let s1 := s.setTract h t { x with state := .near, dirty := 0, pending := false, promoters := [], evicters := []
                                        near := if x.near.isSome then x.near else s.freeNear }
      let s2 := x.promoters.foldl (fun st d => st.settleTract k false bad d) s1
      let s3 := x.evicters.foldl (fun st d => st.settleTract k true false d) s2
      s3.nearNow k
    else s)

def execWriteBackEnd (h : Word) (t : Nat) (s : State) : Outcome :=
  .next (if s.unitDown .placement 0 then s else
    let x := s.tract h t
    if decide (x.state = .evicting) && s.readOnly h then
      let k := tractKey h t
      let s1 : State := s.setTract h t { x with state := .near, pending := false, promoters := [], evicters := [] }
      let s2 := x.promoters.foldl (fun st d => st.settleTract k false false d) s1
      let s3 := x.evicters.foldl (fun st d => st.settleTract k true false d) s2
      (s3.nearNow k).pressureGoOn false
    else if decide (x.state = .evicting) && s.mapped h t && !(s.tractRecovering h t) then
      let k := tractKey h t
      let bad := s.tractPoisoned h t (some x.dirty)
      let s1 : State := s.setTract h t
        { x with state := if x.pending then .near else .deep, dirty := 0, pending := false
                 promoters := [], evicters := [], window := if x.pending then x.window else none
                 near := if x.pending then x.near else none }
      let s2 := x.promoters.foldl (fun st d => st.settleTract k false false d) s1
      let s3 := x.evicters.foldl (fun st d => st.settleTract k x.pending bad d) s2
      let s4 := if x.pending then s3.nearNow k else s3
      s4.pressureGoOn (!x.pending)
    else s)

/-- Last use of a cached tract-map entry: its tract's last access, or its own arrival. -/
def Tract.mapUse (x : Tract) : Nat := max x.access x.fetched

/-- Tract-map entries beyond a share of the cache are given up, least recently used first; the entry of tract `k`
stays (R41, R312). -/
def State.trimCache (s : State) (mine : Nat → Bool) (share k : Nat) : State :=
  let l := sortBy (fun e => e.2.mapUse) (s.place.tracts.filter (fun e => e.2.cached && mine e.1 && decide (e.1 ≠ k)))
  (l.take (l.length + 1 - share)).foldl (fun st e => st.modTract e.1 (fun y => { y with cached := false })) s

/-- A tract-map entry arrives; entries beyond the share of its owner and beyond the cache are given up.
(DEDUCED, assumption 110.) -/
def State.cacheTract (s : State) (h : Word) (t : Nat) : State :=
  let k := tractKey h t
  let s1 := s.setTract h t { s.tract h t with cached := true, fetching := false, fetched := s.now }
  (s1.trimCache (s1.sharesCache h) s1.cacheShare k).trimCache (fun _ => true) 262144 k

def execTmapFetchEnd (h : Word) (t : Nat) (s : State) : Outcome :=
  .next (if s.unitDown .placement 0 then s else if (s.tract h t).fetching then s.cacheTract h t else s)

end Sys2Proof.Machine
end

