-- ==== Sys2Proof/Machine/Xbuf.lean ====
section
/-! DEFINITION. Transit buffers (R223 to R225). -/

namespace Sys2Proof.Machine

/-- Buffers of the pool (R223). -/
def poolBufs : Nat := 2048

/-- Buffers that channels hold, and the free ones.
(DESIGN CHOICE, assumption 13.) -/
def State.heldBufs (s : State) : Nat := s.chan.chans.foldl (fun a e => a + e.2.held) 0
def State.freeBufs (s : State) : Nat := poolBufs - s.heldBufs

/-- The sum of MIN over all channels. -/
def State.minSum (s : State) : Nat := s.chan.chans.foldl (fun a e => a + e.2.xmin.toNat) 0

/-- MIN less the buffers held, over the other channels, positive differences only. -/
def State.owedMin (s : State) (ch : Nat) : Nat :=
  s.chan.chans.foldl (fun a e => if e.1 = ch then a else a + (e.2.xmin.toNat - e.2.held)) 0

/-- A channel below its MIN. -/
def Chan.below (c : Chan) : Bool := decide (c.held < c.xmin.toNat)

/-- The rules let the channel have another buffer now (R224). -/
def State.mayHold (s : State) (ch : Nat) : Bool :=
  let c := s.ch ch
  decide (0 < s.freeBufs) &&
    (c.below || (decide (c.held < c.xmax.toNat) && decide (s.owedMin ch < s.freeBufs)))

/-- A request of another channel that the rules let through is older, or as old on a lower channel. -/
def State.olderAsk (s : State) (ch at_ : Nat) : Bool :=
  s.chan.chans.any (fun e => decide (e.1 ≠ ch) && s.mayHold e.1 &&
    (match e.2.asks with
     | (t, _) :: _ => decide (t < at_) || (decide (t = at_) && decide (e.1 < ch))
     | [] => false))

/-- The channel's oldest request is the next to be served. -/
def State.grantable (s : State) (ch : Nat) : Bool :=
  match (s.ch ch).asks with
  | (t, _) :: _ => s.mayHold ch && ((s.ch ch).below || !(s.olderAsk ch t))
  | [] => false

/-- A buffer goes to a descriptor, or to the channel's journal. -/
def State.giveBuf (s : State) (ch : Nat) (who : Option Nat) : State :=
  let s1 := s.setCh ch { s.ch ch with held := (s.ch ch).held + 1 }
  match who with
  | some d => s1.modDesc d (fun x => { x with bufs := x.bufs + 1 })
  | none =>
    let js := Table.update s1.evt.journals ch (fun j => { j with bufs := j.bufs + 1 })
    { s1 with evt := { s1.evt with journals := js } }

/-- Serve the channel's oldest request. -/
def State.grantOne (s : State) (ch : Nat) : State :=
  match (s.ch ch).asks with
  | (_, who) :: r => (s.setCh ch { s.ch ch with asks := r }).giveBuf ch who
  | [] => s

/-- Ask for a buffer: it is given at once where the rules allow, else the request waits (R224).
(DESIGN CHOICE, assumption 13.) -/
def State.askBuf (s : State) (ch : Nat) (who : Option Nat) : State :=
  let c := s.ch ch
  let s1 := s.setCh ch { c with asks := c.asks ++ [(s.now, who)] }
  if c.asks.isEmpty && s1.grantable ch then s1.grantOne ch
  else s1.setCh ch { s1.ch ch with xwaits := (s1.ch ch).xwaits + 1 }

/-- Ask for `n` buffers. -/
def State.askBufs (s : State) (ch : Nat) (d : Nat) : Nat → State
  | 0 => s
  | n + 1 => (s.askBuf ch (some d)).askBufs ch d n

/-- A channel gives back `n` buffers. -/
def State.giveBack (s : State) (ch n : Nat) : State := s.setCh ch { s.ch ch with held := (s.ch ch).held - n }

/-- A descriptor gives back all its buffers and withdraws its requests. -/
def State.dropBufs (s : State) (d : Nat) (x : Desc) : State :=
  let s1 := s.giveBack x.chan x.bufs
  let s2 := s1.setCh x.chan { s1.ch x.chan with
    asks := (s1.ch x.chan).asks.filter (fun a => decide (a.2 ≠ some d)) }
  s2.modDesc d (fun y => { y with bufs := 0 })

def execXbufGrant (ch : BitVec 10) (s : State) : Outcome :=
  .next (if s.grantable ch.toNat then s.grantOne ch.toNat else s)

end Sys2Proof.Machine
end

