-- ==== Sys2Proof/Machine/Journal.lean ====
section
/-! DEFINITION. The replay journal: entries, pages, header, start and stop (R462 to R466). -/

namespace Sys2Proof.Machine

def State.journal (s : State) (ch : Nat) : Journal := Table.get {} s.evt.journals ch
def State.setJournal (s : State) (ch : Nat) (j : Journal) : State :=
  { s with evt := { s.evt with journals := Table.put {} s.evt.journals ch j } }

/-! ## Entries (R464) -/

/-- Bytes 0 to 15 of an entry. -/
def jHead (type units ch : Nat) (seq : Word) (lcnt : Nat) : Bytes :=
  leBytes 1 type ++ leBytes 1 units ++ leBytes 2 ch ++ leBytes 4 seq.toNat ++ leBytes 8 lcnt

/-- An entry of `units` units whose body, from byte 16, is `body`.
(DEDUCED, assumption 70.) -/
def jEntry (type units ch : Nat) (seq : Word) (lcnt : Nat) (body : Bytes) : Bytes :=
  sliceBytes (jHead type units ch seq lcnt ++ body) 0 (32 * units)

/-- The newer of two descriptors, by GO. -/
def newerDesc (a b : Option (Nat × BitVec 6)) : Option (Nat × BitVec 6) :=
  match a, b with
  | some x, some y => if x.1 ≤ y.1 then b else a
  | none, _ => b
  | _, none => a

/-- The staged page is full and waits to be written, carrying the class of the newest descriptor it records (R465). -/
def Journal.endPage (j : Journal) (page : Bytes) : Journal :=
  { j with full := j.full ++ [page], staged := [], newest := none
           classes := j.classes ++ [match j.newest with | some n => n.2 | none => 63] }

/-- Fill the page with PAD units; it then waits to be written.
(DEDUCED, assumption 70.) -/
def Journal.padPage (j : Journal) (ch : Nat) : Journal :=
  if j.staged.isEmpty then j
  else
    let n := (4096 - j.staged.length) / 32
    let pads := (List.range n).flatMap (fun i => jEntry 0 1 ch (j.jseq + BitVec.ofNat 32 i) 0 [])
    { j with jseq := j.jseq + BitVec.ofNat 32 n }.endPage (j.staged ++ pads)

/-- Stage an entry, of a descriptor where `who` names one; one that does not fit in the rest of a page starts the next. -/
def Journal.stage (j : Journal) (ch type units lcnt : Nat) (who : Option (Nat × BitVec 6)) (body : Bytes) : Journal :=
  let j1 := if 4096 < j.staged.length + 32 * units then j.padPage ch else j
  let st := j1.staged ++ jEntry type units ch j1.jseq lcnt body
  let j2 := { j1 with jseq := j1.jseq + 1, newest := newerDesc j1.newest who }
  if st.length = 4096 then j2.endPage st else { j2 with staged := st }

/-- Bytes that staging takes. -/
def Journal.size (j : Journal) : Nat := 4096 * j.full.length + j.staged.length

/-- Buffers that the staged bytes need (R465). -/
def Journal.needs (j : Journal) : Nat := max 1 ((j.size + 16383) / 16384)

/-- The journal asks for a buffer it needs and has not asked for. -/
def State.jrnAsk (s : State) (ch : Nat) (need : Nat) : State :=
  if (s.journal ch).bufs < need ∧ !((s.ch ch).asks.any (fun a => decide (a.2 = none))) then s.askBuf ch none else s

/-- A channel's active journal records an entry. -/
def State.jrn (s : State) (ch type units lcnt : Nat) (who : Option (Nat × BitVec 6)) (body : Bytes) : State :=
  let j := s.journal ch
  if j.active && !s.evt.replay then
    let j1 := j.stage ch type units lcnt who body
    (s.setJournal ch j1).jrnAsk ch j1.needs
  else s

/-- The ACCEPT entry of the channel's next descriptor has room (R465). -/
def State.jrnRoom (s : State) (ch : Nat) : Bool :=
  let j := s.journal ch
  !j.active || s.evt.replay || decide ((j.stage ch 3 3 0 none []).size ≤ 16384 * j.bufs)

/-- An acceptance waits for room: counted once, with the journal's request for a buffer. -/
def State.jrnWait (s : State) (ch : Nat) : State :=
  if (s.ch ch).asks.any (fun a => decide (a.2 = none)) then s
  else
    let j := s.journal ch
    (s.setJournal ch { j with waits := j.waits + 1 }).jrnAsk ch (j.bufs + 1)

/-! ## Pages (R463, R465) -/

/-- The header page. -/
def State.jrnHeader (s : State) (ch : Nat) (j : Journal) : Bytes :=
  sliceBytes (leBytes 4 0x524A585A ++ leBytes 1 1 ++ leBytes 1 s.variant.code ++ leBytes 2 ch ++
    leBytes 8 s.sec.uid.toNat ++ leBytes 16 s.ten.bootNonce.toNat ++ leBytes 8 j.start.toNat ++
    leBytes 8 j.pos ++ leBytes 8 j.wraps.toNat) 0 4096

/-- Write page `n` of the ring raw. -/
def State.jrnStore (s : State) (j : Journal) (n : Nat) (bytes : Bytes) : State :=
  s.storeBlk j.handle (j.page.toNat + n) rawMeta bytes

/-- Write the oldest full page and the header, two blocks of the page's class, and give back the buffers no longer
needed. -/
def State.jrnPage (s : State) (ch : Nat) : State :=
  let j := s.journal ch
  match j.full with
  | [] => s
  | p :: r =>
    let n := j.pages.toNat - 1
    let k := j.pos / 128
    let j1 := { j with full := r, pos := j.pos + 128, classes := j.classes.drop 1
                       wraps := j.wraps + (if k ≠ 0 ∧ k % n = 0 then 1 else 0) }
    let keep := min j.bufs j1.needs
    let s1 := (s.charge resMovers (j.classes.headD 63) (s.ch ch).party 2).jrnStore j (1 + k % n) p
    let s2 := s1.jrnStore j 0 (s1.jrnHeader ch j1)
    (s2.setJournal ch { j1 with bufs := keep }).giveBack ch (j.bufs - keep)

/-- Write every full page. The first argument bounds them. -/
def State.jrnFlush (s : State) (ch : Nat) : Nat → State
  | 0 => s
  | n + 1 => (s.jrnPage ch).jrnFlush ch n

def execJournalPageWrite (ch : BitVec 10) (s : State) : Outcome :=
  .next (if (s.journal ch.toNat).active then s.jrnPage ch.toNat else s)

/-! ## Start and stop (R462, R464, R466) -/

/-- A START entry: GO of the next acceptance. -/
def State.jrnStart (s : State) (ch : Nat) : State := s.jrn ch 1 1 s.now none (leBytes 8 s.chan.go)

/-- The values name a journal the channel may write (R462). -/
def State.jrnOk (s : State) (ch : Nat) (handle page pages : Word) : Bool :=
  match s.extent handle, (s.ch ch).party with
  | some e, some p =>
    decide (e.state = .owned) && decide (e.owner = some p) && decide (e.vslots = 0) &&
      decide (e.kind = if s.variant.deep then .pinnedDeep else .pinnedNear) &&
      decide (16 ≤ pages.toNat) && decide (page.toNat + pages.toNat ≤ e.blocks)
  | _, _ => false

/-- Journaling begins.
(DEDUCED, assumption 98.) -/
def State.jrnBegin (s : State) (ch : Nat) (handle page pages : Word) : State :=
  let j := s.journal ch
  let j1 : Journal := { j with en := true, handle := handle, page := page, pages := pages, active := true
                               start := s.clk.lcnt, pos := 0, staged := [], full := [], newest := none, classes := [] }
  ((s.setJournal ch j1).jrnStart ch)

/-- Values that name no such journal are discarded (R462). -/
def State.jrnReject (s : State) (ch : Nat) : State :=
  let s1 := s.raise 0x0600 Sev.notice Uk.module 0 ch 3 0
  { s1 with evt := { s1.evt with reject := true } }

/-- Journaling stops with a cause: what is staged is written first, except after a revocation point. -/
def State.jrnStop (s : State) (ch cause : Nat) : State :=
  let j := s.journal ch
  if !j.active then s
  else
    let s1 := if cause = 1 then s.setJournal ch { j with staged := [], full := [], newest := none, classes := [] }
      else (s.setJournal ch (j.padPage ch)).jrnFlush ch ((j.full.length) + 1)
    let j1 := s1.journal ch
    let s2 := if cause = 1 then s1 else s1.jrnStore j1 0 (s1.jrnHeader ch j1)
    let s3 := (s2.setJournal ch { j1 with active := false, stopped := true, bufs := 0 }).giveBack ch j1.bufs
    let s4 := s3.setCh ch { s3.ch ch with asks := (s3.ch ch).asks.filter (fun a => decide (a.2 ≠ none)) }
    s4.raise 0x0600 Sev.notice Uk.module 0 ch cause 0

/-- Every journal in an extent stops (R466).
(DESIGN CHOICE, assumption 37.) -/
def State.jrnStopExtent (s : State) (h : Word) (cause : Nat) : State :=
  (s.evt.journals.filter (fun e => e.2.active && decide (e.2.handle = h))).foldl
    (fun (st : State) e => st.jrnStop e.1 cause) s

/-! ## Faults (R464) -/

/-- A FAULT entry for a descriptor: unit kind and instance, action, block index. -/
def State.jrnFault (s : State) (d : Nat) (unit : BitVec 5) (inst action blk : Nat) : State :=
  match s.desc d with
  | none => s
  | some x => s.jrn x.chan 6 1 s.now (some (x.go, x.cls)) (leBytes 1 unit.toNat ++ leBytes 1 inst ++ leBytes 1 action ++
      leBytes 1 0 ++ leBytes 4 blk ++ leBytes 8 x.go)

/-- The descriptor of a GO, with its class. -/
def State.descOf (s : State) (go : Nat) : Option (Nat × BitVec 6) :=
  (s.chan.descs.find? (fun e => decide (e.2.go = go))).map (fun e => (go, e.2.cls))

/-- ARB entries of a meeting in one clock, whose requests (channel, GO) are in the order decided: where another channel
is among them, each records its position and how many other channels it met.
(DEDUCED, assumption 70.) -/
def State.jrnMeet (s : State) (point : Nat) (l : List (Nat × Nat)) : State :=
  let chans := (l.map Prod.fst).eraseDups
  if chans.length < 2 then s
  else l.zipIdx.foldl (fun (st : State) e => st.jrn e.1.1 4 1 s.now (s.descOf e.1.2)
    (leBytes 1 point ++ leBytes 1 e.2 ++ leBytes 2 (chans.length - 1) ++ leBytes 8 e.1.2)) s

/-- Descriptors under way with the block of an extent among their operands, with its index. -/
def State.delayed (s : State) (h : Word) (blk : Nat) : List (Nat × Nat) :=
  s.chan.descs.filterMap (fun e =>
    if e.2.phase = .started ∨ e.2.phase = .working then
      [24, 40].findSome? (fun lo => match (e.2.slot lo).map s.resolve with
        | some (.ext k off) =>
          let len := if e.2.opcode = 1 ∨ (0x10 ≤ e.2.opcode ∧ e.2.opcode < 0x14) then e.2.field 56 8
            else if e.2.opcode = 0x18 ∨ e.2.opcode = 0x19 then 4096 * e.2.field 60 4 else 4096 * e.2.field 56 4
          if k = h ∧ off / 4096 ≤ blk ∧ blk * 4096 < off + len then some (e.1, blk - off / 4096) else none
        | _ => none)
    else none)

/-- FAULT entries of every descriptor that the recovery of a block delays. -/
def State.jrnDelayed (s : State) (h : Word) (blk action : Nat) : State :=
  (s.delayed h blk).foldl (fun (st : State) e => st.jrnFault e.1 Uk.mempath 0 action e.2) s

end Sys2Proof.Machine
end

