-- ==== Sys2Proof/Machine/Flits.lean ====
section
/-! DEFINITION. Flits: their layout, protection and numbering, credits, replay, and the cutting of packets into
them (R318 to R322). -/

namespace Sys2Proof

/-! ## Headers (R337) -/

/-- `n` bytes of a packet's header from byte `lo`, little-endian. -/
def Packet.field (p : Packet) (lo n : Nat) : Nat := (p.hdr.toNat / 2 ^ (8 * lo)) % 2 ^ (8 * n)

def Packet.ptype (p : Packet) : Nat := p.field 0 1
def Packet.flag (p : Packet) (i : Nat) : Bool := bitOf (p.field 1 1) i
def Packet.dst (p : Packet) : Nat := p.field 2 2 % 4096
def Packet.src (p : Packet) : Nat := p.field 4 2 % 4096
def Packet.life (p : Packet) : Nat := p.field 6 2
def Packet.hops (p : Packet) : Nat := p.field 9 1
def Packet.txid (p : Packet) : Word := BitVec.ofNat 32 (p.field 12 4)
def Packet.gpid (p : Packet) : Word := BitVec.ofNat 32 (p.field 16 4)
def Packet.handle (p : Packet) : Word := BitVec.ofNat 32 (p.field 24 4)
def Packet.offset (p : Packet) : Nat := p.field 28 6
def Packet.tableId (p : Packet) : BitVec 16 := BitVec.ofNat 16 (p.field 34 2)
def Packet.btag (p : Packet) : Nat := p.field 36 1
def Packet.status (p : Packet) : BitVec 16 := BitVec.ofNat 16 (p.field 38 2)
def Packet.arg (p : Packet) : Nat := p.field 40 8

/-- Sectors that a request's data take on the link: a READ's (type 1) are those it asks for. -/
def Packet.sectors (p : Packet) : Nat := ((if p.ptype = 1 then p.arg % 8192 else p.body.length) + 63) / 64

/-- The same request, whatever hops it took. -/
def Packet.same (p q : Packet) : Bool := decide (p.src = q.src ∧ p.txid = q.txid)

/-- Header bits `lo` to `lo + n − 1` bytes replaced. -/
def Packet.put (p : Packet) (lo n v : Nat) : Packet :=
  let x := p.hdr.toNat
  let low := x % 2 ^ (8 * lo)
  let high := x / 2 ^ (8 * (lo + n))
  { p with hdr := BitVec.ofNat 384 (low + 2 ^ (8 * lo) * (v % 2 ^ (8 * n)) + 2 ^ (8 * (lo + n)) * high) }

/-- PTYPE, BODY_LEN and the reserved bits are as R337 and R338 have them (R326). -/
def Packet.formOk (p : Packet) : Bool :=
  let t := p.ptype
  decide ((1 ≤ t ∧ t ≤ 8) ∨ (0x81 ≤ t ∧ t ≤ 0x88) ∨ t = 0x20 ∨ t = 0x21 ∨ t = 0x7F) &&
    decide (p.field 10 2 ≤ 4096) && decide (p.field 1 1 < 64) && decide (p.field 2 2 < 4096) &&
    decide (p.field 4 2 < 4096) && decide (p.field 8 1 < 64) && decide (p.field 37 1 = 0)

/-- A packet as it arrives whole. -/
def Packet.ok (p : Packet) : Bool := p.formOk && decide (p.body.length = p.field 10 2)

end Sys2Proof

namespace Sys2Proof.Machine

open Sys2Proof.Crypto

/-- Buffer of a VC in flits (R321). -/
def vcFlits (vc : Nat) : Nat := if vc = 0 ∨ vc = 1 then 1536 else if vc = 2 then 768 else 256

/-- Payload bytes of a flit. -/
def flitBytes : Nat := 228

/-- Nonce of flit position P (R319).
(DEDUCED, assumption 44.) -/
def flitNonce (p : Nat) : Bytes := leBytes 4 0 ++ leBytes 8 p

/-- The first 12 bytes of a flit. -/
def flitHead (seq : BitVec 12) (vc type ack : Nat) (nak : Bool) (credits : Bytes) (off : Nat) : Bytes :=
  leBytes 2 (seq.toNat + 4096 * vc + 16384 * type) ++ leBytes 2 (ack + 4096 * natOf nak) ++ credits ++ leBytes 2 off ++
    leBytes 2 0

/-- A whole flit: encrypted and tagged under a key and position, or in plaintext with a tag of 0; then its CRC. -/
def sealFlit (key : Option (Bytes × Nat)) (head payload : Bytes) : BitVec 2048 :=
  let body := match key with
    | some (k, p) =>
      let ct := gcmCrypt k (flitNonce p) payload
      head ++ ct ++ (gcmTag k (flitNonce p) head ct).take 12
    | none => head ++ payload ++ leBytes 12 0
  BitVec.ofNat 2048 (leNat (body ++ leBytes 4 (crc32c body)))

/-- Credits due to the partner, up to 255 of each VC. -/
def FabPort.due (x : FabPort) : Bytes := (List.range 4).map (fun v => BitVec.ofNat 8 (min 255 (Table.get 0 x.rxFill v)))

/-- The port after a flit of it has returned those credits. -/
def FabPort.paid (x : FabPort) : FabPort :=
  { x with nak := false
           rxFill := (List.range 4).foldl (fun (m : Table Nat) v => Table.modify 0 m v (fun n => n - min 255 n)) x.rxFill }

/-- The port sends under its link key.
(DEDUCED, assumption 44.) -/
def FabPort.sealed (x : FabPort) : Bool := decide (x.state = .up ∨ x.state = .sleep)

/-! ## The receive buffer (R318, R321, R322) -/

/-- The flits that a VC's buffer still needs, as ranges, and how many they are. -/
def RxVc.ranges (x : RxVc) : List (Nat × Nat) :=
  (if x.part.isEmpty then [] else [(x.first, x.count - 1)]) ++ x.pkts.map (fun r => (r.first, r.last)) ++ x.passing
def RxVc.held (x : RxVc) : Nat :=
  ((x.ranges.flatMap (fun r => (List.range (r.2 + 1 - r.1)).map (· + r.1))).eraseDups).length

/-- The buffer of a VC. -/
def FabPort.rxVc (x : FabPort) (vc : Nat) : RxVc := Table.get {} x.rx vc

/-- A change of a VC's buffer by which `n` flits came; those it no longer needs are free, and their credits due. -/
def FabPort.buffer (x : FabPort) (vc n : Nat) (y : RxVc) : FabPort :=
  { x with rx := Table.put {} x.rx vc y
           rxFill := Table.modify 0 x.rxFill vc (· + (n + (x.rxVc vc).held - y.held)) }

/-- The packet that the bytes of a stream are. -/
def bytesPacket (b : Bytes) : Packet := ⟨BitVec.ofNat 384 (leNat (b.take 48)), b.drop 48⟩

/-- Bytes of the packet under way until its header, then its body, is whole. -/
def pktNeed (b : Bytes) : Nat := if b.length < 48 then 48 else 48 + fieldAt b 10 2

/-- Bytes of flit `i` join the stream: packets laid end to end, zeros after the last. A packet that is not well formed is
discarded and counted; after one whose length is out of range the stream goes on at the next PKT_OFF (R326). -/
def RxVc.join (i now : Nat) : Nat → RxVc → Bytes → RxVc × Nat
  | 0, x, _ => (x, 0)
  | n + 1, x, b =>
    match b with
    | [] => (x, 0)
    | c :: _ =>
      if x.part.isEmpty && decide (c = 0) then (x, 0)
      else
        let need := pktNeed x.part - x.part.length
        let y := { x with part := x.part ++ b.take need, first := if x.part.isEmpty then i else x.first }
        if y.part.length < 48 then (y, 0)
        else if 4096 < fieldAt y.part 10 2 then ({ y with part := [], skip := true }, 1)
        else if y.part.length < pktNeed y.part then RxVc.join i now n y (b.drop need)
        else
          let k := bytesPacket y.part
          let z := { y with part := [], pkts := if k.ok then y.pkts ++ [⟨y.first, i, now, k⟩] else y.pkts }
          let r := RxVc.join i now n z (b.drop need)
          (r.1, if k.ok then r.2 else r.2 + 1)

/-- A DATA flit of the VC is accepted: its payload from PKT_OFF where no packet is under way. -/
def RxVc.flit (x : RxVc) (now off : Nat) (payload : Bytes) : RxVc × Nat :=
  let y := { x with count := x.count + 1 }
  if y.skip || y.part.isEmpty then
    if off = 0xFFFF then (y, 0)
    else RxVc.join x.count now 16 { y with skip := false, part := [] } (payload.drop off)
  else RxVc.join x.count now 16 y payload

/-- A flit of the VC is accepted and discarded: the packet under way is lost, and the stream skips (R326). -/
def RxVc.lose (x : RxVc) : RxVc := { x with count := x.count + 1, part := [], skip := true }

/-- A packet of the port's buffer has been consumed. -/
def State.consume (s : State) (port : Nat) (q : Packet → Bool) : State :=
  match (List.range 4).find? (fun v => ((s.fport port).rxVc v).pkts.any (fun r => q r.pkt)) with
  | none => s
  | some v =>
    let y := (s.fport port).rxVc v
    match y.pkts.find? (fun r => q r.pkt) with
    | some r => s.setFport port ((s.fport port).buffer v 0 { y with pkts := y.pkts.erase r })
    | none => s

/-- The flits that a packet passing through held are free: it left, or was discarded. -/
def State.freeHeld (s : State) (w : FabWait) : State :=
  match w.held with
  | none => s
  | some (port, v, a, b) =>
    let y := (s.fport port).rxVc v
    s.setFport port ((s.fport port).buffer v 0 { y with passing := y.passing.erase (a, b) })

/-- Bytes in a fabric port's buffer; under sealed accounting each stored block counts as 4,096 (R285). -/
def State.ingFab (s : State) (port : Nat) : Nat :=
  let x := s.fport port
  let blocks := fun (y : RxVc) => (y.pkts.filter (fun r => r.pkt.flag 1)).foldl (fun a r => a + (4096 - r.pkt.body.length)) 0
  (List.range 4).foldl (fun a v => a + 256 * (x.rxVc v).held + if s.ten.isSealed then blocks (x.rxVc v) else 0) 0

/-- The level of a buffer of `cap` bytes that holds `n` (R285). -/
def ingLevel (n cap : Nat) : Nat :=
  if 7 * cap ≤ 8 * n then 3 else if 3 * cap ≤ 4 * n then 2 else if cap ≤ 2 * n then 1 else 0

/-! ## Sending -/

/-- Put one flit on the wire. -/
def State.wire (s : State) (p : Nat) (f : Flit) : State :=
  let x := s.fport p
  let ack := (x.rxSeq - 1).toNat
  let bits := if x.sealed then
      sealFlit (some (bvB 32 x.txKey, x.txPos)) (flitHead f.seq f.vc f.type ack x.nak x.due f.off) f.payload
    else sealFlit none (flitHead f.seq f.vc f.type ack x.nak (leBytes 4 0) f.off) f.payload
  let y := if x.sealed then { x.paid with txPos := x.txPos + 1 } else { x with nak := false }
  let s1 := s.setFport p y
  { s1 with fab := { s1.fab with flits := s1.fab.flits ++ [(p, bits)] } }

/-- An IDLE flit. -/
def State.wireIdle (s : State) (p : Nat) : State :=
  s.wire p { seq := 0, type := 0, vc := 0, off := 0xFFFF, payload := List.replicate flitBytes 0 }

/-- The next numbered flit: kept until it is acknowledged. -/
def State.wireNext (s : State) (p type vc off : Nat) (payload : Bytes) : State :=
  let x := s.fport p
  let f : Flit := { seq := x.txSeq, type := type, vc := vc, off := off, payload := sliceBytes payload 0 flitBytes }
  (s.setFport p { x with txSeq := x.txSeq + 1, unacked := x.unacked ++ [f] }).wire p f

/-- A LINK flit is sent, or waits while 512 flits are unacknowledged (R320). -/
def State.wireLink (s : State) (p : Nat) (payload : Bytes) : State :=
  let x := s.fport p
  if 512 ≤ x.unacked.length then s.setFport p { x with linkWait := x.linkWait ++ [payload] }
  else s.wireNext p 2 0 0xFFFF payload

/-- LINK flits that waited go out. -/
def State.drainLinks (s : State) (p : Nat) : State :=
  (s.fport p).linkWait.foldl (fun (st : State) b => st.wireLink p b) (s.setFport p { s.fport p with linkWait := [] })

/-- Send a LINK flit, or the WAKE signal (R324, R325). -/
def State.sendLink (s : State) (p : Nat) (payload : Bytes) : State :=
  let s1 := if payload.getD 0 0 = 6 then s else s.wireLink p payload
  { s1 with fab := { s1.fab with links := s1.fab.links ++ [(p, BitVec.ofNat 1824 (leNat (sliceBytes payload 0 flitBytes)))] } }

/-! ## Packets into flits -/

/-- Credits that a port holds for a VC. -/
def FabPort.credit (x : FabPort) (vc : Nat) : Nat := Table.get 0 x.credits vc

/-- Bytes of a packet. -/
def pktBytes (p : Packet) : Bytes := leBytes 48 p.hdr.toNat ++ p.body

/-- Flits a packet takes.
(DESIGN CHOICE, assumption 43.) -/
def pktFlits (p : Packet) : Nat := (48 + p.body.length + 227) / 228

/-- The port can send the whole packet now.
(DESIGN CHOICE, assumption 43.) -/
def FabPort.fits (x : FabPort) (vc : Nat) (p : Packet) : Bool :=
  decide (x.state = .up) && decide (pktFlits p ≤ x.credit vc) && decide (x.unacked.length + pktFlits p ≤ 512)

/-- Send a packet: in flits of its own, each using a credit. -/
def State.putTx (s : State) (port vc : Nat) (p : Packet) : State :=
  let x := s.fport port
  let n := pktFlits p
  let s1 := s.setFport port { x with credits := Table.put 0 x.credits vc (x.credit vc - n) }
  let s2 := (List.range n).foldl (fun (st : State) i =>
    st.wireNext port 1 vc (if i = 0 then 0 else 0xFFFF) (sliceBytes (pktBytes p) (228 * i) 228)) s1
  { s2 with fab := { s2.fab with tx := s2.fab.tx ++ [(port, vc, p)] } }

end Sys2Proof.Machine
end

