-- ==== Sys2Proof/Machine/Replay.lean ====
section
/-! DEFINITION. Reading a recorded journal in replay mode (R463, R464, R467, R469). -/

namespace Sys2Proof.Machine

/-- Plain bytes of page `n` of a journal; none that read otherwise. -/
def State.jrnRead (s : State) (j : Journal) (n : Nat) : Bytes :=
  match s.readExt j.handle (4096 * (j.page.toNat + n)) 4096 with
  | .ok b => b
  | .error _ => []

/-- The entries of a page. The first argument bounds them. -/
def pageEntries : Nat → Bytes → List Bytes
  | 0, _ => []
  | n + 1, b =>
    if b.isEmpty then []
    else
      let k := 32 * max 1 ((b.getD 1 0).toNat)
      b.take k :: pageEntries n (b.drop k)

/-- Every entry of the journal named by a channel's JRN registers, oldest first, PAD left out. -/
def State.jrnEntries (s : State) (ch : Nat) : List Bytes :=
  let j := s.journal ch
  let n := j.pages.toNat - 1
  let k := fieldAt (s.jrnRead j 0) 40 8 / 128
  let first := k - n
  ((List.range (k - first)).flatMap (fun i =>
    pageEntries 128 (s.jrnRead j (1 + (first + i) % n)))).filter (fun e => decide (e.getD 0 0 ≠ 0))

/-- BOOT_NONCE in the header of a channel's journal. -/
def State.jrnNonce (s : State) (ch : Nat) : Nat := fieldAt (s.jrnRead (s.journal ch) 0) 16 16

/-- Where the GO of an entry stands. -/
def entryGo (e : Bytes) : Nat :=
  let t := e.getD 0 0
  if t = 5 then fieldAt e 20 8 else if t = 6 then fieldAt e 24 8 else fieldAt e 16 8

/-- The recorded entry of a type for a descriptor of the channel. -/
def State.recorded (s : State) (ch type go : Nat) : Option Bytes :=
  (s.jrnEntries ch).find? (fun e => decide ((e.getD 0 0).toNat = type) && decide (entryGo e = go))

/-- A completion is compared with its recorded entry (R469). -/
def State.compareEntry (s : State) (x : Desc) : State :=
  if !s.evt.replay then s
  else match s.recorded x.chan 7 x.go with
    | none => s
    | some e =>
      let was := fieldAt e 24 2
      if was = x.status.toNat then s
      else
        let s1 := s.raise 0x0601 Sev.notice Uk.module 0 x.chan (fieldAt e 4 4) (was * 65536 + x.status.toNat)
        { s1 with evt := { s1.evt with diverge := s1.evt.diverge + 1 } }

/-- The descriptor reaches another module: a PEER operand, a remote gate or a collective. -/
def State.reachesPeer (s : State) (x : Desc) : Bool :=
  let peer := fun (lo : Nat) => match (x.slot lo).map s.resolve with | some sl => sl.isPeer | none => false
  match x.opcode with
  | 0x01 => peer 24 || peer 40
  | 0x03 => peer 24
  | 0x18 => peer 40
  | 0x19 => peer 24
  | 0x21 => true
  | 0x32 => bitOf (x.field 26 2) 15 && decide (s.fab.did ≠ some (BitVec.ofNat 12 (x.field 26 2)))
  | _ => false

/-- Bytes that a peer read of the descriptor delivers. -/
def Desc.peerBytes (x : Desc) : Nat :=
  match x.opcode with
  | 0x01 => x.field 56 8
  | 0x03 => 4096 * x.field 56 4
  | 0x19 => 4096 * x.field 60 4
  | _ => 0

/-- In replay a descriptor with a PEER operand completes with its recorded status; a peer read delivers
zeros, a peer write nothing (R469). -/
def State.replayPeer (s : State) (d : Nat) (x : Desc) (put : State → Slot → Bytes → State) : State :=
  let fromPeer := match (x.slot 24).map s.resolve with | some sl => sl.isPeer | none => false
  let s1 := match (x.slot 40).map s.resolve with
    | some dst => if fromPeer ∧ 0 < x.peerBytes then put s dst (zeros x.peerBytes) else s
    | none => s
  match s.recorded x.chan 7 x.go with
  | some e => s1.endDesc d (BitVec.ofNat 16 (fieldAt e 24 2)) (BitVec.ofNat 64 (fieldAt e 32 8)) (BitVec.ofNat 64 (fieldAt e 40 8))
  | none => s1.endDesc d St.ok 0 0

end Sys2Proof.Machine
end

