-- ==== Sys2Proof/Machine/Packets.lean ====
section
/-! DEFINITION. Fabric packets: headers, routes, sending, outstanding requests (R333, R337 to R340). -/

namespace Sys2Proof.Machine

/-- What a request says beside its ids: type, flags, class, deadline left, handle, offset, table, tag and
argument. -/
structure ReqHead where
  ptype  : Nat
  flags  : Nat := 0
  cls    : Nat := 63
  gpid   : Word := 0
  left   : Nat := 0
  handle : Word := 0
  offset : Nat := 0
  table  : BitVec 16 := 0
  btag   : Nat := 0
  status : BitVec 16 := 0
  arg    : Nat := 0

/-- A packet of this module. -/
def mkPacket (h : ReqHead) (src dst life : Nat) (txid : Word) (body : Bytes) : Packet :=
  { hdr := BitVec.ofNat 384 (leNat (leBytes 1 h.ptype ++ leBytes 1 h.flags ++ leBytes 2 dst ++ leBytes 2 src ++
      leBytes 2 life ++ leBytes 1 h.cls ++ leBytes 1 0 ++ leBytes 2 body.length ++ leBytes 4 txid.toNat ++
      leBytes 4 h.gpid.toNat ++ leBytes 4 h.left ++ leBytes 4 h.handle.toNat ++ leBytes 6 h.offset ++
      leBytes 2 h.table.toNat ++ leBytes 1 h.btag ++ leBytes 1 0 ++ leBytes 2 h.status.toNat ++ leBytes 8 h.arg))
    body := body }

/-- The party a packet acts for. -/
def State.pktParty (s : State) (p : Packet) : Option (BitVec 8) := s.slotOf p.gpid

/-- When a request being served arrived; of any other packet, now. -/
def State.arrivalOf (s : State) (p : Packet) : Nat :=
  match s.fab.serving.find? (fun q => q.pkt.same p) with
  | some q => q.arrived
  | none => s.now

/-- Types and flags of R337 and R338. -/
def pRead : Nat := 0x01
def pWrite : Nat := 0x02
def pGate : Nat := 0x03
def pPublish : Nat := 0x04
def pVersion : Nat := 0x05
def pRedReady : Nat := 0x06
def pRedCounts : Nat := 0x07
def pRedAbort : Nat := 0x08
def pHold : Nat := 0x7F
def fOnce : Nat := 1
def fStored : Nat := 2
def fPlain : Nat := 4
def fReduce : Nat := 8
def fPublish : Nat := 16

/-! ## Ports and routes (R332 to R334) -/

/-- Of some ports, the one with the most credits of a VC, the lowest of equals.
(DESIGN CHOICE, assumption 46.) -/
def State.mostCredits (s : State) (vc : Nat) (ps : List Nat) : Option Nat :=
  ps.foldl (fun (a : Option Nat) p => match a with
    | none => some p
    | some q =>
      if (s.fport q).credit vc < (s.fport p).credit vc ∨ ((s.fport q).credit vc = (s.fport p).credit vc ∧ p < q) then some p
      else some q) none

/-- Ports of the minimal set of a DID whose link is there. -/
def State.minimalPorts (s : State) (dst : Nat) : List Nat :=
  match Table.find s.fab.routes dst with
  | some r => r.minimal.filter (fun p => (s.fport p).sealed)
  | none => []

/-- The port of the minimal set with the most credits.
(DESIGN CHOICE, assumption 46.) -/
def State.bestPort (s : State) (dst vc : Nat) : Option Nat := s.mostCredits vc (s.minimalPorts dst)

/-- The hop that a packet on VC 2 takes, and its FLAGS after it. -/
def State.escapeHop (s : State) (p : Packet) : Option (Nat × Packet) :=
  match Table.find s.fab.routes p.dst with
  | none => none
  | some r =>
    if p.flag 5 then r.down.map (fun k => (k, p))
    else r.updown.map (fun h => (h.1, if h.2 then p.put 1 1 (p.field 1 1 + 32) else p))

/-- A next hop exists on the VC. -/
def State.hasHop (s : State) (w : FabWait) : Bool :=
  match w.port with
  | some k => (s.fport k).sealed
  | none =>
    if w.vc = 2 then (s.escapeHop w.pkt).isSome || (w.esc && !(s.minimalPorts w.pkt.dst).isEmpty)
    else !(s.minimalPorts w.pkt.dst).isEmpty

/-- The port that can take the packet now, and the packet as it leaves; a packet that has just moved to VC 2 takes the
first port of its minimal set or the escape port, whichever gains the credits first. -/
def State.hopNow (s : State) (w : FabWait) : Option (Nat × Packet) :=
  let fits := fun (k : Nat) (p : Packet) => (s.fport k).fits w.vc p
  let least := if w.esc then ((s.minimalPorts w.pkt.dst).find? (fun k => fits k w.pkt)).map (fun k => (k, w.pkt)) else none
  match w.port with
  | some k => if fits k w.pkt then some (k, w.pkt) else none
  | none =>
    if w.vc = 2 then (match s.escapeHop w.pkt with
      | some h => if fits h.1 h.2 then some h else least
      | none => least)
    else (s.mostCredits w.vc ((s.minimalPorts w.pkt.dst).filter (fun k => fits k w.pkt))).map (fun k => (k, w.pkt))

/-- One-way delay of a port's link in counts of 40 ns, rounded up. -/
def FabPort.delay (x : FabPort) : Nat := (x.rtt.toNat + 79) / 80

/-- A packet leaves on a port: one passing through loses the counts it spent here and on the link, at least 1,
and is discarded where none are left. -/
def State.leave (s : State) (w : FabWait) (k : Nat) (p : Packet) : State :=
  let s := s.freeHeld w
  match w.spent with
  | none => s.putTx k w.vc p
  | some n =>
    let lost := max 1 (n + (s.now - w.since) + (s.fport k).delay)
    if p.life ≤ lost then { s with fab := { s.fab with expired := s.fab.expired + 1 } }
    else s.putTx k w.vc (p.put 6 2 (p.life - lost))

/-- The WAKE signal on sleeping ports that the packet could take (R325).
(DESIGN CHOICE, assumption 45.) -/
def State.wakeHops (s : State) (w : FabWait) : State :=
  (match w.port with | some k => [k] | none => s.minimalPorts w.pkt.dst).foldl (fun (st : State) k =>
    let x := st.fport k
    if x.state = PortState.sleep ∧ st.active ∧ x.waking = none then
      (st.setFport k { x with waking := some st.now }).sendLink k [6]
    else st) s

/-- Send a packet, keep it waiting for credits, or discard it where no next hop exists. -/
def State.dispatch (s : State) (w : FabWait) : State :=
  if !(s.hasHop w) then s.freeHeld w
  else match s.hopNow w with
    | some h => s.leave w h.1 h.2
    | none => { (s.wakeHops w) with fab := { (s.wakeHops w).fab with waiting := (s.wakeHops w).fab.waiting ++ [w] } }

/-- Packets that wait are tried again, in order; the sleeping links they need are woken. -/
def State.drainTx (s : State) : State :=
  s.fab.waiting.foldl (fun (st : State) w =>
    st.dispatch w) { s with fab := { s.fab with waiting := [] } }

/-- Send a packet of this module by the current routes: none while it holds no DID (R328). -/
def State.transmit (s : State) (vc : Nat) (p : Packet) : State :=
  if s.fab.did = none then s
  else s.dispatch { vc := vc, port := none, pkt := p, since := s.now, spent := none }

/-! ## Requests (R340) -/

/-- Counts left to a descriptor's deadline: 0 none, 1 once it has passed. -/
def State.leftOf (s : State) (x : Desc) : Nat :=
  match x.deadline with
  | none => 0
  | some t => max 1 (t - s.now)

/-- A request as it is sent now: with a whole life and the counts that its descriptor's deadline still leaves (R334, R337). -/
def State.freshReq (s : State) (r : PeerReq) : Packet :=
  let p := r.pkt.put 6 2 s.fab.life.toNat
  match r.desc.bind s.desc with
  | some x => p.put 20 4 (s.leftOf x)
  | none => p

/-- A send of an outstanding request: transmitted only while the module holds a DID. -/
def State.sendReq (s : State) (r : PeerReq) : State :=
  match s.fab.did with
  | some d => s.transmit 0 ((s.freshReq r).put 4 2 d.toNat)
  | none => s

/-- The resources at which a request is a transaction (R276): of READs and WRITEs the movers and the port they leave by. -/
def State.reqRes (s : State) (p : Packet) : List Nat :=
  if p.ptype = pRead ∨ p.ptype = pWrite then
    resMovers :: (match s.bestPort p.dst 0 with | some k => [80 + k] | none => [])
  else []

/-- A request is issued once it has its slots and, under sealed accounting, its party's turn at the port (R278 to R281,
R311); until then it waits. -/
def State.issueReq (s : State) (t : Nat) : State :=
  match Table.find s.fab.reqs t with
  | none => s
  | some r =>
    let party := (r.desc.bind s.desc).bind (·.party)
    let c := s.regulatedAs (BitVec.ofNat 6 (r.pkt.field 8 1)) party
    let marks := (s.reqRes r.pkt).map (fun k => s.markAt k c (partyKey party))
    let turns := marks.map (fun m => if m.res = resMovers then some 0 else s.servedAt m.res m.party r.pkt.sectors)
    if r.sends ≠ 0 ∨ !(marks.all (fun m => s.slotFree m.res m.guar m.party)) ∨ turns.any Option.isNone then s
    else
      let s1 := { s with fab := { s.fab with reqs := Table.set s.fab.reqs t { r with sends := 1, last := s.now, marks := marks } } }
      let s2 := (marks.zip turns).foldl (fun (st : State) m =>
        let u := (st.countIssued m.1.cls 1 m.1.guar).takeMark m.1
        if s.ten.isSealed && decide (m.1.res ≠ resMovers) then u.servedTo m.1.res (m.2.getD 0) else u) s1
      s2.sendReq r

/-- Requests that wait are tried again, in order. -/
def State.pumpReqs (s : State) : State :=
  s.fab.reqs.foldl (fun (st : State) q => if q.2.sends = 0 then st.issueReq q.1 else st) s

/-- A request is no longer outstanding: its slots are free for the next. -/
def State.closeReq (s : State) (t : Nat) : State :=
  match Table.find s.fab.reqs t with
  | none => s
  | some r => (r.marks.foldl State.giveMark { s with fab := { s.fab with reqs := Table.del s.fab.reqs t } }).pumpReqs

/-- A new request to module `dst`, for descriptor `d` (if any), carrying the piece at `index` of `bytes`
bytes. -/
def State.request (s : State) (d : Option Nat) (index bytes : Nat) (h : ReqHead) (dst : Nat) (body : Bytes) :
    State :=
  let t := s.fab.nextTxid
  let src := match s.fab.did with | some x => x.toNat | none => 0
  let p := mkPacket h src dst s.fab.life.toNat t body
  let r : PeerReq := { desc := d, index := index, bytes := bytes, pkt := p, sends := 0, last := s.now }
  let s1 := { s with fab := { s.fab with reqs := Table.set s.fab.reqs t.toNat r, nextTxid := t + 1 } }
  let s2 := match d with | some k => s1.modDesc k (fun x => { x with peers := x.peers ++ [t] }) | none => s1
  s2.issueReq t.toNat

/-- A request of a descriptor, with its class, deadline and party (R274, R339). -/
def State.descReq (s : State) (d : Nat) (x : Desc) (index bytes : Nat) (h : ReqHead) (dst : Nat) (body : Bytes) :
    State :=
  s.request (some d) index bytes
    { h with cls := x.cls.toNat, left := s.leftOf x
             gpid := (match x.party with | some p => (s.gpid p).getD 0 | none => 0) } dst body

/-- Answer a request: its type with bit 7 set, its TXID, on VC 1. -/
def State.answer (s : State) (p : Packet) (h : ReqHead) (body : Bytes) : State :=
  let src := match s.fab.did with | some x => x.toNat | none => 0
  s.transmit 1 (mkPacket { h with ptype := p.ptype + 128, cls := p.field 8 1, gpid := p.gpid } src p.src
    s.fab.life.toNat p.txid body)

end Sys2Proof.Machine
end

