-- ==== Sys2Proof/Machine/Repair.lean ====
section
/-! DEFINITION. Hard faults, spare rows, retired stripes, lost pseudo-channels and stacks, spare exhaustion
(R405 to R411, R418 to R423). -/

namespace Sys2Proof.Machine

/-! ## Capacity reports (R423) -/

/-- Usable capacity or a degraded extent has changed: pending EXTENT_WATCHes complete with the usable
tracts, and CHANGED clears; with none pending it is set. -/
def State.capacityChanged (s : State) : State :=
  let ws := (s.chan.descs.filter (fun e => decide (e.2.opcode = 0x45) && decide (e.2.phase = .working))).map Prod.fst
  let s1 := ws.foldl (fun (st : State) d => st.endDesc d St.capacityReduced
    (BitVec.ofNat 64 s.place.nearUsable) (BitVec.ofNat 64 s.place.deepUsable)) s
  { s1 with rel := { s1.rel with changed := ws.isEmpty } }

/-! ## The rebuild reserve (R406, R410, R418, R419) -/

/-- Free reserve stripes of a tier.
(DESIGN CHOICE, assumption 24.) -/
def State.reserve (s : State) : Tier → Nat
  | .near => s.rel.nearRes
  | .deep => s.rel.deepRes
/-- Reserve stripes that the loss of `slots` slots of a stack takes, spread over the survivors.
(DESIGN CHOICE, assumption 22.) -/
def State.stripesFor (s : State) (t : Tier) (slots : Nat) : Nat :=
  let m := (s.stacksUp t).length
  if m = 0 then slots else (slots + m - 1) / m

/-- Reserve state that a tier's stacks and free reserve give it (R418): 0 SPARED, 1 THIN, 2 EXHAUSTED. -/
def State.tierRes (s : State) (t : Tier) : Nat :=
  if (s.variant.stacksOf t).isEmpty then 0
  else if s.reserve t = 0 then 2
  else
    let m := (s.stacksUp t).length - 1
    if m ≠ 0 ∧ stackSlots s.variant t ≤ s.reserve t * m then 0 else 1

/-- The largest of three numbers, for a word whose copies all disagree (R506). -/
def Tv.largest (t : Tv Nat) : Nat := max t.a (max t.b t.c)

/-- TIER_RES of a tier, as voted (R417, R425, R506). -/
def State.tierShown (s : State) (t : Tier) : Nat :=
  match t with
  | .near => s.rel.resNear.vote s.rel.resNear.largest
  | .deep => s.rel.resDeep.vote s.rel.resDeep.largest

/-- TIER_RES follows the reserve: all three copies are written where the state of a tier has changed. -/
def State.markTier (s : State) (t : Tier) : State :=
  if s.tierShown t = s.tierRes t then s
  else match t with
    | .near => { s with rel := { s.rel with resNear := Tv.all (s.tierRes .near) } }
    | .deep => { s with rel := { s.rel with resDeep := Tv.all (s.tierRes .deep) } }

/-- The free reserve stripes of a tier change, and TIER_RES with them. -/
def State.setReserve (s : State) (t : Tier) (n : Nat) : State :=
  State.markTier (match t with
    | .near => { s with rel := { s.rel with nearRes := n } }
    | .deep => { s with rel := { s.rel with deepRes := n } }) t

/-- A rebuild takes what it lacks of the reserve, as far as it reaches. -/
def feedRebuild (t : Tier) (a : State × List Rebuild) (r : Rebuild) : State × List Rebuild :=
  if tierOf r.stack = t then
    let n := min r.lacks (a.1.reserve t)
    (a.1.setReserve t (a.1.reserve t - n), a.2 ++ [{ r with lacks := r.lacks - n }])
  else (a.1, a.2 ++ [r])

/-- A retirement takes its reserve stripe. -/
def feedRetire (t : Tier) (a : State × List Retire) (r : Retire) : State × List Retire :=
  if r.tier = t ∧ !r.got ∧ 0 < a.1.reserve t then
    (a.1.setReserve t (a.1.reserve t - 1), a.2 ++ [{ r with got := true }])
  else (a.1, a.2 ++ [r])

/-- Rebuilds and retirements that lack reserve stripes take those that are free. -/
def State.feedReserve (s : State) (t : Tier) : State :=
  let a := s.rel.rebuilds.foldl (feedRebuild t) (s, [])
  let s1 := { a.1 with rel := { a.1.rel with rebuilds := a.2 } }
  let b := s1.rel.retires.foldl (feedRetire t) (s1, [])
  { b.1 with rel := { b.1.rel with retires := b.2 } }

/-- Reserve stripes still lacking in a tier. -/
def State.lacking (s : State) (t : Tier) : Nat :=
  (s.rel.rebuilds.filter (fun r => decide (tierOf r.stack = t))).foldl (fun a r => a + r.lacks) 0 +
    (s.rel.retires.filter (fun r => decide (r.tier = t) && !r.got)).length

/-! ## Spare exhaustion (R418 to R422) -/

/-- Tracts of a tier that no extent draws on. -/
def State.freeOf (s : State) : Tier → Nat
  | .near => s.poolFree
  | .deep => s.deepFree

/-- Usable capacity falls by `k` groups, which become reserve stripes; tracts located there move down.
(DESIGN CHOICE, assumption 120.) -/
def State.takeGroups (s : State) (t : Tier) (k : Nat) : State :=
  let n := k * groupTracts s.variant t
  let s1 := match t with
    | .near => { s with place := { s.place with nearUsable := s.place.nearUsable - n } }
    | .deep => { s with place := { s.place with deepUsable := s.place.deepUsable - n } }
  let s2 := (s1.relocate t |>.setReserve t (s1.reserve t + 512 * k)).raise 0x030A Sev.error Uk.module 0
    (match t with | .near => 0 | .deep => 1) s1.place.nearUsable s1.place.deepUsable
  (s2.capacityChanged).feedReserve t

/-- An extent enters or leaves read-only-degraded (R422, R423). -/
def State.setDegraded (s : State) (h : Nat) (on : Bool) : State :=
  match Table.find s.ten.extents h with
  | none => s
  | some e =>
    if e.readOnly = on then s
    else
      let s1 := { s with ten := { s.ten with extents := Table.set s.ten.extents h { e with readOnly := on } } }
      (s1.raise 0x030B Sev.error Uk.module 0 h (natOf on) 0).capacityChanged

/-- Extents that draw on a tier. -/
def State.drawsOn (s : State) (t : Tier) : List Nat :=
  (s.ten.extents.filter (fun e => match t with
    | .near => decide (e.2.kind = .pinnedNear)
    | .deep => decide (e.2.kind ≠ .pinnedNear))).map Prod.fst

/-- Extents that hold a block of a stripe (R422). -/
def State.holders (s : State) (t : Tier) (n : Nat) : List Nat :=
  (List.range (groupTracts s.variant t)).filterMap (fun i =>
    let k := groupTracts s.variant t * n + i
    (s.blockHeld t (k / 512) (k % 512)).map (fun r => r.1.toNat))

/-- The extent holds a block of a stripe that could not be retired, or of one that could not be rebuilt: which stripes
of a lost part those are, the spec leaves open, so that which extents hold one is a free choice for each rebuild.
(DESIGN CHOICE, assumption 21.) -/
def State.stranded (s : State) (t : Tier) (h : Nat) : Bool :=
  s.rel.retires.any (fun r => decide (r.tier = t) && !r.got && (s.holders t r.stripe).contains h) ||
    s.rel.rebuilds.any (fun r => decide (tierOf r.stack = t) && decide (0 < r.lacks) && (s.drawsOn t).contains h &&
      Config.strandedIn r.draw h)

/-- No group is left to take: the extents that hold a block of a stripe that could not be retired or rebuilt are
read-only-degraded, and the others are not (R422). -/
def State.degrade (s : State) (t : Tier) : State :=
  let s1 := (s.ten.extents.map Prod.fst).foldl (fun (st : State) h =>
    if s.stranded t h then st.setDegraded h true
    else if s.stranded (match t with | .near => .deep | .deep => .near) h then st
    else st.setDegraded h false) s
  { s1 with rel := { s1.rel with gaveUp := if s1.rel.gaveUp.contains t then s1.rel.gaveUp else s1.rel.gaveUp ++ [t] } }

/-- The procedure has what it needed: no extent of the tier's stripes is degraded any more (R422). -/
def State.restoreTier (s : State) (t : Tier) : State :=
  let s1 := s.degrade t
  { s1 with rel := { s1.rel with reclaim := s1.rel.reclaim.filter (fun x => decide (x ≠ t))
                                 gaveUp := s1.rel.gaveUp.filter (fun x => decide (x ≠ t)) } }

/-- TIERED tracts whose deep homes can be given up: NEAR ones, then DEEP ones for which a near-pool tract is
free; at most `n` (R419 step 2). -/
def State.homeable (s : State) (n : Nat) : List Nat :=
  let near := (s.place.tracts.filter (fun e => decide (e.2.state = .near) && !e.2.moving)).map Prod.fst
  let deep := (s.ten.extents.filter (fun e => decide (e.2.kind = .tiered))).flatMap (fun e =>
    (List.range e.2.tracts).filterMap (fun t =>
      let x := s.tract (BitVec.ofNat 32 e.1) t
      if x.state = .deep ∧ !x.moving ∧ x.spilled.isNone then some (tractKey (BitVec.ofNat 32 e.1) t) else none))
  (near ++ deep.take s.poolFree).take n

/-- A tract starts its move into the near pool. -/
def State.startHome (s : State) (k : Nat) : State :=
  let x := Table.get {} s.place.tracts k
  if x.state = .deep then
    s.startCopy (BitVec.ofNat 32 (k / 2 ^ 20)) (k % 2 ^ 20)
      { x with moving := true, promoters := [], evicters := [], window := none }
  else s.modTract k (fun y => { y with moving := true, began := s.now })

/-- The spill target that takes the next tract of an owner: the lowest valid one with a free tract (R421). -/
def State.spillTarget (s : State) (owner : BitVec 8) : Option Nat :=
  (List.range 16).find? (fun i =>
    let t := Table.get {} s.rel.spills i
    t.valid && decide (s.gpid t.party = s.gpid owner) && (s.gpid owner).isSome && decide (t.used.toNat < t.tracts.toNat))

/-- Plain bytes of a block that a spill sends: a block that cannot be read is sent as zeros. -/
def State.spillBytes (s : State) (h : Word) (blk : Nat) : Bytes :=
  match s.slotPlain (.ext h (4096 * blk)) with
  | .bytes b => b
  | _ => List.replicate 4096 0

/-- A block of a spilled tract is stored raw at the peer, from where the tract's bytes are read: the module's copy of
it becomes raw (R421). -/
def State.rawSpill (s : State) (h : Word) (blk : Nat) : State :=
  if mwPoison (s.blkMeta h blk) then s else s.putBlk h blk rawMeta (s.spillBytes h blk)

/-- A request of the module to the spill target of a tract, for block `b` of it, with the owner's GPID. -/
def State.spillReq (s : State) (h : Word) (t b ptype : Nat) (body : Bytes) : State :=
  match (s.tract h t).spilled, (s.extent h).bind (fun e => e.owner) with
  | some i, some owner =>
    let x := Table.get {} s.rel.spills i
    s.request none b 4096
      { ptype := ptype, flags := fPlain, cls := 63, gpid := (s.gpid owner).getD 0, handle := x.handle
        offset := 2097152 * (s.tract h t).spillAt + 4096 * b, arg := if ptype = pRead then 4096 else 0 } x.did.toNat body
  | _, _ => s

/-- A tract starts its move to a spill target: its blocks cross as plain bytes with the owner's GPID.
(DESIGN CHOICE, assumption 19.) -/
def State.startSpill (s : State) (h : Word) (t i : Nat) : State :=
  let x := Table.get {} s.rel.spills i
  let s1 := s.modTract (tractKey h t) (fun y =>
    { y with moving := true, spilled := some i, spillAt := x.used.toNat, began := s.now })
  let s2 := { s1 with rel := { s1.rel with spills := Table.put {} s1.rel.spills i { x with used := x.used + 1 } } }
  (List.range 512).foldl (fun (st : State) b => st.spillReq h t b pWrite (s.spillBytes h (512 * t + b))) s2

/-- A read that a spilled tract is asked for goes to its peer, one request a block. -/
def sendSpillRead (s : State) (e : Nat × Tract) : State :=
  match e.2.peer with
  | .ask who lo n =>
    let ids := (List.range n).map (fun i => s.fab.nextTxid + BitVec.ofNat 32 i)
    let s1 := s.modTract e.1 (fun y => { y with peer := if n = 0 then .got else .out who ids })
    (List.range n).foldl (fun (st : State) i =>
      st.spillReq (BitVec.ofNat 32 (e.1 / 2 ^ 20)) (e.1 % 2 ^ 20) (lo + i) pRead []) s1
  | _ => s

/-- A written block of a spilled tract crosses to its peer as plain bytes. -/
def sendSpillWrite (s : State) (k : Nat) : State :=
  let h : Word := BitVec.ofNat 32 (k / 2 ^ 36)
  let b := k % 2 ^ 36
  let s1 := s.rawSpill h b
  s1.spillReq h (b / 512) (b % 512) pWrite (s1.spillBytes h b)

/-- The requests to spill targets that are due (R421).
(DESIGN CHOICE, assumption 19.) -/
def State.runSpills (s : State) : State :=
  let s1 := s.place.tracts.foldl sendSpillRead s
  s1.place.spillOut.foldl sendSpillWrite { s1 with place := { s1.place with spillOut := [] } }

/-- An answer of a spill target to a read of a spilled tract: the last one makes the read; one that is not OK ends it,
with the descriptor that it was made for (R424). -/
def State.spillAnswer (s : State) (txid : Word) (st : Status) : State :=
  match s.place.tracts.find? (fun e => match e.2.peer with | .out _ l => l.contains txid | _ => false) with
  | none => s
  | some (k, x) =>
    match x.peer with
    | .out who l =>
      if st ≠ St.ok then
        let s1 := s.modTract k (fun y => { y with peer := .idle })
        match who with
        | .desc g =>
          (match s1.chan.descs.find? (fun e => decide (e.2.go = g) && decide (e.2.phase ≠ .ended)) with
           | some e => s1.endDesc e.1 st (BitVec.ofNat 64 e.2.done) (BitVec.allOnes 64)
           | none => s1)
        | _ => s1
      else
        let r := l.filter (fun t => decide (t ≠ txid))
        s.modTract k (fun y => { y with peer := if r.isEmpty then .got else .out who r })
    | _ => s

/-- Tracts of the tier that may be spilled: extent, tract, owner. -/
def State.spillable (s : State) (t : Tier) (n : Nat) : List (Word × Nat × BitVec 8) :=
  ((s.drawsOn t).flatMap (fun h =>
    match (Table.find s.ten.extents h).bind (fun e => e.owner.map (fun o => (e, o))) with
    | some (e, o) =>
      if (s.spillTarget o).isNone then []
      else (List.range e.tracts).filterMap (fun k =>
        let x := s.tract (BitVec.ofNat 32 h) k
        if x.moving ∨ x.spilled.isSome ∨ x.state ≠ .deep then none else some (BitVec.ofNat 32 h, k, o))
    | none => [])).take n

/-- Start spilling up to `n` tracts. -/
def State.startSpills (s : State) (t : Tier) (n : Nat) : State :=
  (s.spillable t n).foldl (fun (st : State) y =>
    match st.spillTarget y.2.2 with | some i => st.startSpill y.1 y.2.1 i | none => st) s

/-- Tracts on the move.
(DESIGN CHOICE, assumption 23.) -/
def State.movingTracts (s : State) : Nat := (s.place.tracts.filter (fun e => e.2.moving)).length

/-- One pass of the procedure for a tier: groups of free capacity are taken; else, of the sources in R419's order, the
first that yields what a whole group lacks: tracts are evicted, moved or spilled; else extents are degraded.
(DESIGN CHOICE, assumption 23.) -/
def State.reclaimTier (s : State) (t : Tier) : State :=
  let g := groupTracts s.variant t
  if s.lacking t = 0 then s.restoreTier t
  else
    let k := min ((s.lacking t + 511) / 512) (s.freeOf t / g)
    if 0 < k then
      let s1 := s.takeGroups t k
      if s1.lacking t = 0 then s1.restoreTier t else s1
    else if 0 < s.movingTracts ∨ 0 < s.leaving [] then s
    else
      let n := g - s.freeOf t
      let homes := match t with | .deep => s.homeable n | .near => []
      let away := s.startSpills t n
      if t = .near ∧ n ≤ s.evictable.length then s.evictSome n []
      else if t = .deep ∧ n ≤ homes.length then homes.foldl State.startHome s
      else if n ≤ away.movingTracts then away
      else s.degrade t

/-- Run the procedure where it is under way. -/
def State.reclaimAll (s : State) : State := s.rel.reclaim.foldl State.reclaimTier s

/-- The procedure starts for a tier. -/
def State.startReclaim (s : State) (t : Tier) : State :=
  let s1 := if s.rel.reclaim.contains t then s else { s with rel := { s.rel with reclaim := s.rel.reclaim ++ [t] } }
  s1.reclaimTier t

/-- Capacity was freed: the procedure runs again (R422). -/
def State.reclaimAgain (s : State) : State := { s with rel := { s.rel with gaveUp := [] } }.reclaimAll

/-- A moved tract lands: NEAR_HOMED once it is NEAR, or at its spill target. -/
def execReclaimMoveEnd (h : Word) (t : Nat) (s : State) : Outcome :=
  .next (
    let x := s.tract h t
    let k := tractKey h t
    let land := fun (f : Tract → Tract) =>
      let s1 := s.modTract k f
      { s1 with rel := { s1.rel with migrated := s1.rel.migrated + 1 } }.reclaimAll
    if !x.moving then s
    else if x.spilled.isSome then
      let s1 := (List.range 512).foldl (fun (st : State) b => st.rawSpill h (512 * t + b)) s
      let s2 := s1.modTract k (fun y => { y with moving := false, dirty := 0 })
      { s2 with rel := { s2.rel with migrated := s2.rel.migrated + 1 } }.reclaimAll
    else match x.state with
      | .near => land (fun y => { y with moving := false, state := .nearHomed, dirty := 0, window := none })
      | .deep => if 0 < s.poolFree then s.startHome k else s
      | _ => s)

/-! ## Hard faults (R405, R406) -/

/-- Remap entries as voted; the longest of three different copies (R506). -/
def Stack.remaps (x : Stack) : List (Nat × Nat) :=
  let most := if x.remap.b.length ≤ x.remap.a.length then x.remap.a else x.remap.b
  x.remap.vote (if x.remap.c.length ≤ most.length then most else x.remap.c)

/-- The tier has a rebuild due or under way. -/
def State.rebuilding (s : State) (t : Tier) : Bool := s.rel.rebuilds.any (fun r => decide (tierOf r.stack = t) && !r.ended)

/-- A row of a stack has a hard fault: remap, else retirement, else exhaustion.
(DESIGN CHOICE, assumption 24.) -/
def State.hardFault (s : State) (n slot : Nat) : State :=
  let x := s.stack n
  let t := tierOf n
  let used := x.remaps.any (fun e => decide (e.1 = slot))
  if x.remapping.contains slot ∨ s.rel.retires.any (fun r => decide (r.tier = t) && decide (r.stripe = slot)) then s
  else if !used ∧ x.remaps.length + x.remapping.length < 32 then
    (s.setStack n { x with remapping := x.remapping ++ [slot] }).raise 0x0301 Sev.warning Uk.stack n slot 0 0
  else if 0 < s.reserve t then
    let s1 := (s.setReserve t (s.reserve t - 1)).raise 0x0301 Sev.warning Uk.stack n slot 1 0
    { s1 with rel := { s1.rel with retires := s1.rel.retires ++ [{ tier := t, stripe := slot, got := true }] } }
  else
    let s1 := s.raise 0x0301 Sev.warning Uk.stack n slot 2 0
    let r : Retire := { tier := t, stripe := slot, got := false }
    State.startReclaim { s1 with rel := { s1.rel with retires := s1.rel.retires ++ [r] } } t

/-- A hard fault in the slot that holds a block (R22, R405). -/
def State.hardFaultAt (s : State) (h : Word) (blk : Nat) : State :=
  match s.placeOf h blk with
  | some (n, slot) => s.hardFault n slot
  | none => s

/-- The copy into a spare row ends: the remap entry takes effect. -/
def execRowRemapEnd (n slot : Nat) (s : State) : Outcome :=
  .next (
    let x := s.stack n
    if x.remapping.contains slot ∧ x.state = .ready then
      let m := x.remaps
      let spare := ((List.range 32).find? (fun i => !(m.any (fun e => decide (e.2 = i))))).getD 0
      let m' := (m.filter (fun e => decide (e.1 ≠ slot))) ++ [(slot, spare)]
      s.setStack n { x with remapping := x.remapping.filter (fun y => decide (y ≠ slot)), remap := Tv.all m' }
    else s)

/-- A stripe's copy ends: it is retired; the derating lasts until the next boundary. -/
def execStripeRetirementEnd (t : Tier) (stripe : Nat) (s : State) : Outcome :=
  .next (
    if s.rel.retires.any (fun r => decide (r.tier = t) && decide (r.stripe = stripe) && r.begun && !r.ended) then
      let rs := s.rel.retires.map (fun (r : Retire) =>
        if r.tier = t ∧ r.stripe = stripe ∧ r.begun then { r with ended := true } else r)
      let l := Tv.all (s.retired t ++ [stripe])
      match t with
      | .near => { s with rel := { s.rel with retires := rs, retiredNear := l } }
      | .deep => { s with rel := { s.rel with retires := rs, retiredDeep := l } }
    else s)

/-! ## Retraining and its triggers (R390, R394) -/

/-- Tier in which an extent is wiped. -/
def ExtKind.wipeTier (k : ExtKind) : Tier := if k = .pinnedNear then .near else .deep

/-- The extent has a wipe to run. -/
def Extent.wipes (e : Extent) : Bool := decide (e.state = .wiping) || e.wipeDesc.isSome

/-- A wipe runs on the stack: the module's own, or an extent's in its tier (R390). -/
def State.stackWiping (s : State) (n : Nat) : Bool :=
  decide (s.power.boot = .wiping) ||
    s.ten.extents.any (fun e => e.2.wipeRun.isSome && decide (e.2.kind.wipeTier = tierOf n))

/-- A pseudo-channel retrains at once, or its trigger is held while it retrains or a wipe runs.
(DESIGN CHOICE, assumption 34.) -/
def State.startRetrain (s : State) (n pc : Nat) : State :=
  let x := s.stack n
  if x.state ≠ .ready ∨ pcsOf n ≤ pc ∨ x.lostMask.getLsbD pc then s
  else if x.retraining.contains pc ∨ s.stackWiping n then
    (if x.trig.contains pc then s else s.setStack n { x with trig := x.trig ++ [pc] })
  else s.setStack n { x with retraining := x.retraining ++ [pc], retrains := x.retrains + 1
                             trig := x.trig.filter (fun y => decide (y ≠ pc)) }

/-- Held triggers of every stack that can be taken are taken. -/
def State.takeTriggers (s : State) : State :=
  s.variant.stackList.foldl (fun (st : State) n => (st.stack n).trig.foldl (fun (u : State) pc => u.startRetrain n pc) st) s

/-! ## Lost pseudo-channels and stacks (R408 to R410) -/

/-- A rebuild becomes due, with the reserve stripes it needs. -/
def State.needRebuild (s : State) (n : Nat) (pc : Option Nat) : State :=
  let t := tierOf n
  let slots := stackSlots s.variant t / (if pc.isSome then pcsOf n else 1)
  let r : Rebuild := { stack := n, pc := pc, lacks := s.stripesFor t slots, draw := s.free }
  let s1 := State.feedReserve { s with free := s.free + 1, rel := { s.rel with rebuilds := s.rel.rebuilds ++ [r] } } t
  if s1.lacking t = 0 then s1 else s1.startReclaim t

/-- A stack is lost: cause 0 reset bound passed, 1 third reset within the hour, 2 fourth pseudo-channel
(assumption 42). Its queues go to the memory path, which serves them degraded. -/
def State.loseStack (s : State) (n cause : Nat) : State :=
  let x := s.stack n
  if x.state = .failed then s
  else
    let s1 := s.setStack n { x with state := .failed, queues := [], waits := [], merge := [], copies := [], mergeWait := [], mdc := []
                                    resetting := none, heldWrites := [], retraining := [], trig := [], remapping := [] }
    let s2 := (s1.setRes n { s1.res n with guar := [], bg := [] }).markTier (tierOf n)
    (s2.raise 0x0304 Sev.error Uk.stack n cause 0 0).needRebuild n none

/-- A pseudo-channel is lost; the fourth takes its stack with it.
(DEDUCED, assumption 42.) -/
def State.losePc (s : State) (n pc : Nat) : State :=
  let x := s.stack n
  let m := x.lostMask ||| (1#32 <<< pc)
  let s1 := (s.setStack n { x with lost := Tv.all m, fails := Table.del x.fails pc }).raise 0x0303 Sev.warning Uk.stack n pc 0 0
  if 4 ≤ (s1.stack n).lostPcs.length then s1.loseStack n 2 else s1.needRebuild n (some pc)

/-- Milliseconds of a number of counts. -/
def msOf (n : Nat) : Nat := n / 25000

/-- A rebuild completes once it has the reserve it needs, or none is to be had. -/
def execRebuildEnd (n : Nat) (s : State) : Outcome :=
  .next (
    match s.rel.rebuilds.find? (fun r => decide (r.stack = n) && r.begun && !r.ended) with
    | none => s
    | some r =>
      if 0 < r.lacks ∧ !(s.rel.gaveUp.contains (tierOf n)) then s
      else
        let s1 := { s with rel := { s.rel with rebuilds := s.rel.rebuilds.map (fun (q : Rebuild) =>
          if q = r then { q with ended := true } else q) } }
        s1.raise 0x0305 Sev.info Uk.stack n (msOf (s.now - r.start)) 0 0)

/-- At a regulation boundary (R406, R409, R411): what has ended leaves, what is due begins; a retirement waits
while its tier rebuilds. A rebuild that ended as far as the reserve reached goes on once it has what it lacked (R410). -/
def State.repairBoundary (s : State) : State :=
  let rb := (s.rel.rebuilds.filter (fun r => !r.ended || decide (0 < r.lacks))).map (fun (r : Rebuild) =>
    if r.ended then { r with begun := false, ended := false, parked := true }
    else if r.begun || (r.parked && decide (0 < r.lacks)) then r
    else { r with begun := true, parked := false, start := s.now })
  let rt := (s.rel.retires.filter (fun r => !r.ended)).map (fun (r : Retire) =>
    if r.got && !(rb.any (fun b => b.begun && decide (tierOf b.stack = r.tier))) then { r with begun := true } else r)
  { s with rel := { s.rel with rebuilds := rb, retires := rt } }.reclaimAll

end Sys2Proof.Machine
end

