-- ==== Sys2Proof/Machine/Parity.lean ====
section
/-! DEFINITION. What the stacks hold of a block: AES-256-XTS ciphertext (R299), and the parity of a stripe's slots and
metadata words (R23, R59, R404). The state keeps an extent's plain bytes; ciphertext and parity are functions of
it, so that every write updates them. -/

namespace Sys2Proof.Machine

/-! ## AES-256-XTS (R299) -/

open Sys2Proof.Crypto

/-- The next XTS mask: multiplication by the primitive element of GF(2^128), little-endian. -/
def xtsNext (t : Nat) : Nat := if 2 ^ 127 ≤ t then Nat.xor (2 * t - 2 ^ 128) 0x87 else 2 * t

/-- The XTS blocks of a data unit from mask `t` on. -/
def xtsBlocks (enc : Bytes → Bytes) (t : Nat) : Nat → Bytes → Bytes
  | 0, _ => []
  | n + 1, b =>
    let m := leBytes 16 t
    xorBytes (enc (xorBytes (b.take 16) m)) m ++ xtsBlocks enc (xtsNext t) n (b.drop 16)

/-- The tweak: unit number in bytes 7:0, handle in bytes 11:8 (R299). -/
def xtsTweak (handle unit : Nat) : Bytes := leBytes 8 unit ++ leBytes 4 handle ++ leBytes 4 0

/-- Bytes of a data unit under the keys of a party; whole XTS blocks. -/
def Party.encrypt (p : Party) (handle unit : Nat) (b : Bytes) : Bytes :=
  let mask := leNat (aesEnc (leBytes 32 p.k2.toNat) (xtsTweak handle unit))
  xtsBlocks (aesEnc (leBytes 32 p.k1.toNat)) mask (b.length / 16) b

/-- The party whose keys protect an extent: its owner; none while it has none. -/
def State.keysOf (s : State) (h : Word) : Option Party :=
  (s.extent h).bind (fun e => e.owner.bind (fun o => Table.find s.ten.parties o.toNat))

/-- What the slot of a block holds: its sectors encrypted under its owner's keys, zeros in the sectors beyond them,
and plain zeros while the extent has no owner (R299, R302).
(DESIGN CHOICE, assumption 112.) -/
def State.slotCipher (s : State) (h : Word) (blk : Nat) : Bytes :=
  let b := s.blkBytes h blk
  let c := match s.keysOf h with
    | some p => p.encrypt h.toNat blk b
    | none => b
  sliceBytes c 0 4096

/-- What the table store holds of a table's list (R299). -/
def State.listCipher (s : State) (id : BitVec 16) : Bytes :=
  match s.table id with
  | some e => (match Table.find s.ten.parties e.owner.toNat with
    | some p => p.encrypt 0xFFFFFFFF id.toNat e.list
    | none => e.list)
  | none => []

/-! ## Stripes (R22, R23) -/

/-- Data slot `i` of stripe `n`, as one number, lowest byte first; an unused slot holds zeros. -/
def State.dataSlot (s : State) (t : Tier) (n i : Nat) : BitVec 32768 :=
  let k := groupTracts s.variant t * n + i
  match s.blockHeld t (k / 512) (k % 512) with
  | some r => BitVec.ofNat 32768 (leNat (s.slotCipher r.1 r.2))
  | none => 0

/-- Metadata word of data slot `i` of stripe `n`. -/
def State.dataWord (s : State) (t : Tier) (n i : Nat) : Word :=
  let k := groupTracts s.variant t * n + i
  match s.blockHeld t (k / 512) (k % 512) with
  | some r => s.blkMeta r.1 r.2
  | none => rawMeta

/-! ## The parity code (R404) -/

/-- XOR of a list. -/
def xorAll {w : Nat} (l : List (BitVec w)) : BitVec w := l.foldr (· ^^^ ·) 0

/-- Multiplication by 0x02 in GF(2^8) with polynomial x^8 + x^4 + x^3 + x^2 + 1, in every byte. -/
def mulTwo (b : Bytes) : Bytes := b.map (fun x => if x.getLsbD 7 then (x <<< 1) ^^^ 0x1D else x <<< 1)

/-- Q: the sum of 0x02^i × D_i. -/
def parityQ (l : List Bytes) : Bytes := l.foldr (fun d q => xorBytes d (mulTwo q)) (List.replicate 4096 0)

/-- P of a stripe's slots, and of their metadata words (R59). -/
def State.slotP (s : State) (t : Tier) (n : Nat) : BitVec 32768 :=
  xorAll ((List.range (groupTracts s.variant t)).map (s.dataSlot t n))
def State.wordP (s : State) (t : Tier) (n : Nat) : Word :=
  xorAll ((List.range (groupTracts s.variant t)).map (s.dataWord t n))

/-- Q of a deep stripe's slots, and of their metadata words. -/
def State.slotQ (s : State) (n : Nat) : Bytes :=
  parityQ ((List.range 30).map (fun i => leBytes 4096 (s.dataSlot .deep n i).toNat))
def State.wordQ (s : State) (n : Nat) : Bytes :=
  (parityQ ((List.range 30).map (fun i => leBytes 4 (s.dataWord .deep n i).toNat))).take 4

/-- Slot `i` of a stripe and its metadata word as a degraded read or a rebuild finds them: P and the stripe's other
data slots (R59, R404). -/
def State.rebuiltSlot (s : State) (t : Tier) (n i : Nat) : BitVec 32768 :=
  s.slotP t n ^^^ xorAll (((List.range (groupTracts s.variant t)).filter (fun k => decide (k ≠ i))).map (s.dataSlot t n))
def State.rebuiltWord (s : State) (t : Tier) (n i : Nat) : Word :=
  s.wordP t n ^^^ xorAll (((List.range (groupTracts s.variant t)).filter (fun k => decide (k ≠ i))).map (s.dataWord t n))

end Sys2Proof.Machine
end

