-- ==== Sys2Proof/Machine/Vector.lean ====
section
/-! DEFINITION. The vector instructions: FP32 lanes, integer lanes, conversions, reductions and moves
(R140 to R144). -/

namespace Sys2Proof.Machine

/-- Write a vector result and its flags. -/
def Core.vres (x : Core) (vd : BitVec 5) (r : BitVec 512 × BitVec 5) : Core :=
  ((x.setV vd r.1).flag r.2).retire

/-- A two-operand lane operation. -/
def vop2 (f : F32 → F32 → Fr 32) (c : Nat) (vd va vb : BitVec 5) (s : State) : Outcome :=
  .next (s.issue c (fun x => s.setCore c (x.vres vd (vzip f (x.vreg va) (x.vreg vb)))))

/-- A one-operand lane operation. -/
def vop1 (f : F32 → Fr 32) (c : Nat) (vd va : BitVec 5) (s : State) : Outcome :=
  .next (s.issue c (fun x => s.setCore c (x.vres vd (vmap f (x.vreg va)))))

/-! ## FP32 lanes (R140, R170 to R172) -/

def execVadd (c : Nat) (vd va vb : BitVec 5) (s : State) : Outcome := vop2 fadd c vd va vb s
def execVsub (c : Nat) (vd va vb : BitVec 5) (s : State) : Outcome := vop2 fsub c vd va vb s
def execVmul (c : Nat) (vd va vb : BitVec 5) (s : State) : Outcome := vop2 fmul c vd va vb s
def execVmin (c : Nat) (vd va vb : BitVec 5) (s : State) : Outcome :=
  vop2 (fun a b => quiet (fmin a b)) c vd va vb s
def execVmax (c : Nat) (vd va vb : BitVec 5) (s : State) : Outcome :=
  vop2 (fun a b => quiet (fmax a b)) c vd va vb s
def execVabs (c : Nat) (vd va : BitVec 5) (s : State) : Outcome := vop1 (fun a => quiet (fabs a)) c vd va s
def execVneg (c : Nat) (vd va : BitVec 5) (s : State) : Outcome := vop1 (fun a => quiet (fneg a)) c vd va s
def execVdiv (c : Nat) (vd va vb : BitVec 5) (s : State) : Outcome := vop2 fdiv c vd va vb s
def execVsqrt (c : Nat) (vd va : BitVec 5) (s : State) : Outcome := vop1 fsqrt c vd va s
def execVrcp (c : Nat) (vd va : BitVec 5) (s : State) : Outcome :=
  vop1 (fun a => frcp (Config.approx 0 a) a) c vd va s
def execVrsqrt (c : Nat) (vd va : BitVec 5) (s : State) : Outcome :=
  vop1 (fun a => frsqrt (Config.approx 1 a) a) c vd va s
def execVexp2 (c : Nat) (vd va : BitVec 5) (s : State) : Outcome :=
  vop1 (fun a => fexp2 (Config.approx 2 a) a) c vd va s
def execVlog2 (c : Nat) (vd va : BitVec 5) (s : State) : Outcome :=
  vop1 (fun a => flog2 (Config.approx 3 a) a) c vd va s
def execVcmpeq (c : Nat) (vd va vb : BitVec 5) (s : State) : Outcome := vop2 fcmpeq c vd va vb s
def execVcmplt (c : Nat) (vd va vb : BitVec 5) (s : State) : Outcome := vop2 fcmplt c vd va vb s
def execVcmple (c : Nat) (vd va vb : BitVec 5) (s : State) : Outcome := vop2 fcmple c vd va vb s

/-- Form 0: a b + c, 1: −a b + c, 2: a b − c, 3: −a b − c (R141). -/
def fmaForm (form : BitVec 2) (a b z : F32) : Fr 32 := ffma (form.getLsbD 0) (form.getLsbD 1) a b z

def execVfma (c : Nat) (vd va vb vc : BitVec 5) (form : BitVec 2) (s : State) : Outcome :=
  .next (s.issue c (fun x =>
    let r := fun i => fmaForm form (lane (x.vreg va) i) (lane (x.vreg vb) i) (lane (x.vreg vc) i)
    s.setCore c (x.vres vd (lanes (fun i => (r i).bits), laneFlags (fun i => (r i).flags)))))

/-! ## Integer lanes (R142) -/

/-- A two-operand integer lane operation: no flags. -/
def iop2 (f : BitVec 32 → BitVec 32 → BitVec 32) (c : Nat) (vd va vb : BitVec 5) (s : State) : Outcome :=
  vop2 (fun a b => quiet (f a b)) c vd va vb s

def lsh (b : BitVec 32) : Nat := (b.extractLsb' 0 5).toNat

def execIadd (c : Nat) (vd va vb : BitVec 5) (s : State) : Outcome := iop2 (· + ·) c vd va vb s
def execIsub (c : Nat) (vd va vb : BitVec 5) (s : State) : Outcome := iop2 (· - ·) c vd va vb s
def execImul (c : Nat) (vd va vb : BitVec 5) (s : State) : Outcome := iop2 (· * ·) c vd va vb s
def execIand (c : Nat) (vd va vb : BitVec 5) (s : State) : Outcome := iop2 (· &&& ·) c vd va vb s
def execIor (c : Nat) (vd va vb : BitVec 5) (s : State) : Outcome := iop2 (· ||| ·) c vd va vb s
def execIxor (c : Nat) (vd va vb : BitVec 5) (s : State) : Outcome := iop2 (· ^^^ ·) c vd va vb s
def execIsll (c : Nat) (vd va vb : BitVec 5) (s : State) : Outcome :=
  iop2 (fun a b => a <<< lsh b) c vd va vb s
def execIsrl (c : Nat) (vd va vb : BitVec 5) (s : State) : Outcome :=
  iop2 (fun a b => a >>> lsh b) c vd va vb s
def execIsra (c : Nat) (vd va vb : BitVec 5) (s : State) : Outcome :=
  iop2 (fun a b => a.sshiftRight (lsh b)) c vd va vb s
def execImin (c : Nat) (vd va vb : BitVec 5) (s : State) : Outcome :=
  iop2 (fun a b => if a.slt b then a else b) c vd va vb s
def execImax (c : Nat) (vd va vb : BitVec 5) (s : State) : Outcome :=
  iop2 (fun a b => if a.slt b then b else a) c vd va vb s
def execIcmpeq (c : Nat) (vd va vb : BitVec 5) (s : State) : Outcome :=
  iop2 (fun a b => mask32 (decide (a = b))) c vd va vb s
def execIcmplt (c : Nat) (vd va vb : BitVec 5) (s : State) : Outcome :=
  iop2 (fun a b => mask32 (a.slt b)) c vd va vb s
def execCvtif (c : Nat) (vd va : BitVec 5) (s : State) : Outcome := vop1 cvtIF c vd va s
def execCvtfi (c : Nat) (vd va : BitVec 5) (s : State) : Outcome := vop1 cvtFI c vd va s

/-! ## Conversions (R143, R173 to R177) -/

/-- The fields of VCVT are defined: exactly one code is 0, the mode is not 3 and is 0 when widening,
the part is in the range of the narrow format, and vb is 0 unless a scale applies. -/
def vcvtOk (vb vc : BitVec 5) (func : BitVec 6) : Bool :=
  let src := (func.extractLsb' 3 3).toNat
  let dst := (func.extractLsb' 0 3).toNat
  let code := src + dst
  let mode := (vc.extractLsb' 3 2).toNat
  let p := (vc.extractLsb' 0 3).toNat
  (decide (src = 0) != decide (dst = 0)) && decide (mode ≠ 3) && (decide (src = 0) || decide (mode = 0)) &&
    decide (p < 32 / codeBits code) && (scaled code || decide (vb = 0))

/-- Element `i` of part `p` of a register, of `w` bits (R143, R166). -/
def partElem (v : BitVec 512) (w p i : Nat) : Nat := (v.extractLsb' (w * (16 * p + i)) w).toNat

/-- The generator state after lane `i`'s advance. -/
def rngAt (x : DWord) : Nat → DWord
  | 0 => rngNext x
  | i + 1 => rngNext (rngAt x i)

/-- `v` with part `p` replaced by sixteen elements of `w` bits. -/
def setPart (v : BitVec 512) (w p : Nat) (f : Nat → Nat) : BitVec 512 :=
  let keep := ~~~(((BitVec.allOnes 512) >>> (512 - 16 * w)) <<< (16 * w * p))
  (List.range 16).foldl (fun a i => a ||| (BitVec.ofNat 512 (f i % 2 ^ w) <<< (w * (16 * p + i)))) (v &&& keep)

def execVcvt (c : Nat) (vd va vb vc : BitVec 5) (func : BitVec 6) (s : State) : Outcome :=
  .next (s.issue c (fun x =>
    if !(vcvtOk vb vc func) then s.fault c Fc.illegal 0
    else
      let src := (func.extractLsb' 3 3).toNat
      let dst := (func.extractLsb' 0 3).toNat
      let mode := (vc.extractLsb' 3 2).toNat
      let p := (vc.extractLsb' 0 3).toNat
      let scale := ((x.vreg vb).extractLsb' 0 8).toNat
      if src = 0 then
        let rnd := fun i => if mode = 1 then Round.stoch (rngDraw (rngAt x.rng i))
          else if mode = 2 then Round.zero else Round.near
        let r := fun i => narrow dst scale (rnd i) (lane (x.vreg va) i)
        let y := x.vres vd (setPart (x.vreg vd) (codeBits dst) p (fun i => (r i).1), laneFlags (fun i => (r i).2))
        s.setCore c (if mode = 1 then { y with rng := rngAt x.rng 15 } else y)
      else
        let r := fun i => widen src scale (partElem (x.vreg va) (codeBits src) p i)
        s.setCore c (x.vres vd (lanes (fun i => (r i).bits), laneFlags (fun i => (r i).flags)))))

/-! ## Reductions and moves (R144) -/

/-- Remove element `i` of a list, with the element. -/
def takeAt (l : List F32) (i : Nat) : F32 × List F32 := (l.getD i 0, l.eraseIdx i)

/-- Add the terms two at a time in the order `ord` gives, step by step. -/
def sumTree (ord : Nat → Nat × Nat) : Nat → List F32 → BitVec 5 → F32 × BitVec 5
  | 0, l, fl => (l.headD 0, fl)
  | n + 1, l, fl =>
    if l.length ≤ 1 then (l.headD 0, fl)
    else
      let a := takeAt l ((ord n).1 % l.length)
      let b := takeAt a.2 ((ord n).2 % a.2.length)
      let r := fadd a.1 b.1
      sumTree ord n (r.bits :: b.2) (fl ||| r.flags)

/-- Sixteen lanes of a register. -/
def laneList (v : BitVec 512) : List F32 := (List.range 16).map (lane v)

/-- A register with `x` in lane 0 and zeros above. -/
def lane0 (x : BitVec 32) : BitVec 512 := x.setWidth 512

def execFsum (c : Nat) (vd va : BitVec 5) (s : State) : Outcome :=
  .next (s.issue c (fun x =>
    let r := sumTree (Config.sumOrder s.free) 15 (laneList (x.vreg va)) 0
    s.took.setCore c (x.vres vd (lane0 r.1, r.2))))

/-- A reduction by an operation of two lanes. -/
def vred (f : BitVec 32 → BitVec 32 → BitVec 32) (c : Nat) (vd va : BitVec 5) (s : State) : Outcome :=
  .next (s.issue c (fun x =>
    s.setCore c (x.vres vd (lane0 ((laneList (x.vreg va)).tail.foldl f (lane (x.vreg va) 0)), 0))))

def execFmax (c : Nat) (vd va : BitVec 5) (s : State) : Outcome := vred fmax c vd va s
def execFmin (c : Nat) (vd va : BitVec 5) (s : State) : Outcome := vred fmin c vd va s
def execIsum (c : Nat) (vd va : BitVec 5) (s : State) : Outcome := vred (· + ·) c vd va s

def execVmov (c : Nat) (vd va : BitVec 5) (s : State) : Outcome :=
  .next (s.issue c (fun x => s.setCore c (x.setV vd (x.vreg va)).retire))

/-- VBCAST: `va` names a scalar register. -/
def execVbcast (c : Nat) (vd va : BitVec 5) (s : State) : Outcome :=
  .next (s.issue c (fun x => s.setCore c (x.setV vd (lanes (fun _ => (x.sreg va).setWidth 32))).retire))

/-- VEXT: `vd` names a scalar register, `vb` a lane. -/
def execVext (c : Nat) (vd va vb : BitVec 5) (s : State) : Outcome :=
  .next (s.issue c (fun x =>
    if 15 < vb.toNat then s.fault c Fc.illegal 0
    else s.setCore c (x.setS vd ((lane (x.vreg va) vb.toNat).setWidth 64)).retire))

/-- VINS: `va` names a scalar register, `vb` a lane. -/
def execVins (c : Nat) (vd va vb : BitVec 5) (s : State) : Outcome :=
  .next (s.issue c (fun x =>
    if 15 < vb.toNat then s.fault c Fc.illegal 0
    else s.setCore c (x.setV vd (setPart512 (x.vreg vd) vb.toNat ((x.sreg va).setWidth 32))).retire))
where
  /-- `v` with lane `i` replaced. -/
  setPart512 (v : BitVec 512) (i : Nat) (w : BitVec 32) : BitVec 512 :=
    lanes (fun j => if j = i then w else lane v j)

def execVsel (c : Nat) (vd va vb vc : BitVec 5) (s : State) : Outcome :=
  .next (s.issue c (fun x => s.setCore c (x.setV vd (lanes (fun i =>
    if lane (x.vreg vc) i ≠ 0 then lane (x.vreg va) i else lane (x.vreg vb) i))).retire))

def execVshuf (c : Nat) (vd va vb : BitVec 5) (s : State) : Outcome :=
  .next (s.issue c (fun x => s.setCore c (x.setV vd (lanes (fun i =>
    lane (x.vreg va) ((lane (x.vreg vb) i).extractLsb' 0 4).toNat))).retire))

def execVzero (c : Nat) (vd : BitVec 5) (s : State) : Outcome :=
  .next (s.issue c (fun x => s.setCore c (x.setV vd 0).retire))

end Sys2Proof.Machine
end

