-- ==== Sys2Proof/Machine/Matrix.lean ====
section
/-! DEFINITION. The matrix unit: MMA, TILE and the operations in flight (R145 to R148, R178 to R181). -/

namespace Sys2Proof.Machine

/-! ## Operands (R145, R146) -/

/-- The VCVT code of an MMA format. -/
def mmaCode (f : BitVec 3) : Nat :=
  match f.toNat with
  | 0 => 1 | 1 => 2 | 2 => 3 | 3 => 4 | 4 => 6 | 5 => 5 | _ => 7

/-- Registers of an operand group. -/
def mmaGroup (f : BitVec 3) : Nat := fmtBytes f / 64

/-- The format allows M = 1. -/
def mmaScales (f : BitVec 3) : Bool := decide (f = 2 ∨ f = 3 ∨ f = 5)

/-- The encoding of an MMA is defined (R130, R145, R146). -/
def mmaOk (a b vs : BitVec 5) (fmt : BitVec 3) (m sb am : Bool) : Bool :=
  decide (fmt ≠ 7) && (am || decide (a.toNat % mmaGroup fmt = 0)) &&
    (if sb then decide (b = 0) else decide (b.toNat % mmaGroup fmt = 0)) &&
    (if m then mmaScales fmt else decide (vs = 0))

/-- A group of `n` registers from `base` as one operand. -/
def Core.group (x : Core) (base : Nat) : Nat → BitVec 4096
  | 0 => 0
  | n + 1 => x.group base n ||| ((x.vregN (base + n)).setWidth 4096 <<< (512 * n))

/-- Element (r, c) of an operand in memory order. -/
def opElem (fmt : BitVec 3) (v : BitVec 4096) (r c : Nat) : Nat :=
  let w := codeBits (mmaCode fmt)
  (v.extractLsb' (w * (16 * r + c)) w).toNat

/-- B[k][j], stored transposed when TB = 1. -/
def MatrixOp.belem (o : MatrixOp) (k j : Nat) : Nat :=
  if o.tb then opElem o.fmt o.b j k else opElem o.fmt o.b k j

/-- XA_i and XB_j. -/
def MatrixOp.xa (o : MatrixOp) (i : Nat) : Nat := (o.vs.extractLsb' (8 * i) 8).toNat
def MatrixOp.xb (o : MatrixOp) (j : Nat) : Nat := (o.vs.extractLsb' (8 * (16 + j)) 8).toNat

/-- The integer of an INT8 or INT4 element. -/
def intElem (fmt : BitVec 3) (v : Nat) : Int :=
  let w := codeBits (mmaCode fmt)
  if bitOf v (w - 1) then (v : Int) - 2 ^ w else v

/-- The exact scaled product of A[i][k] and B[k][j] (R178). -/
def MatrixOp.product (o : MatrixOp) (i j k : Nat) : Fv :=
  let f := Fmt.ofCode (mmaCode o.fmt)
  match Fv.mul (f.decode (opElem o.fmt o.a i k)) (f.decode (o.belem k j)) with
  | .fin n m e =>
    if o.m then (if o.xa i = 255 ∨ o.xb j = 255 then .nan else .fin n m (e + o.xa i + o.xb j - 254))
    else .fin n m e
  | z => if o.m && decide (o.xa i = 255 ∨ o.xb j = 255) then .nan else z

/-- Whether a product's NaN comes from zero times infinity or a scale byte of 255 (R181). -/
def MatrixOp.invalid (o : MatrixOp) (i j k : Nat) : Bool :=
  let f := Fmt.ofCode (mmaCode o.fmt)
  (f.decode (opElem o.fmt o.a i k)).zeroInf (f.decode (o.belem k j)) ||
    (o.m && decide (o.xa i = 255 ∨ o.xb j = 255))

/-- FP32, or a wider format: `p` more significand bits and `q` more exponent bits. -/
def wideFmt (p q : Nat) : Fmt :=
  let inf := (2 ^ (8 + q) - 1) * 2 ^ (23 + p)
  ⟨8 + q, 23 + p, 2 ^ (7 + q) - 1, inf - 1, inf + 2 ^ (22 + p), some inf⟩

/-- A value rounded to nearest even in a format; past its largest finite value an infinity. -/
def Fmt.nearest (f : Fmt) (v : Fv) : Fv :=
  match v with
  | .fin n m e =>
    let r := f.round .near m e
    if f.top < r.mag then .inf n else f.decode (f.signed n r.mag)
  | _ => v

/-- A step of a sum in an order the spec leaves open: the two of those left that it adds, and the bits by which the
format of their sum exceeds FP32's significand and exponent; with bits enough the sum is exact (R179). -/
structure SumStep where
  fst : Nat
  snd : Nat
  p   : Nat
  q   : Nat

/-- The sum of a list by the steps of a plan, the first argument of them. -/
def sumBy (plan : Nat → SumStep) : Nat → List Fv → Fv
  | 0, l => l.headD (.fin false 0 0)
  | n + 1, l =>
    if l.length ≤ 1 then l.headD (.fin false 0 0)
    else
      let t := plan n
      let i := t.fst % l.length
      let r := l.eraseIdx i
      let j := t.snd % r.length
      let z : Fv := .fin false 0 0
      sumBy plan n ((wideFmt t.p t.q).nearest (Fv.add (l.getD i z) (r.getD j z)) :: r.eraseIdx j)

/-- The error R179 allows: 2^−20 × Σ |terms| + 2^−146. -/
def sumBound (l : List Dy) : Dy := Dy.add (Dy.mul (Dy.sum (l.map Dy.abs)) ⟨1, -20⟩) ⟨1, -146⟩

/-- A finite sum lies within the error allowed. -/
def sumNear (l : List Dy) (v : Dy) : Bool := Dy.le (Dy.abs (Dy.add v (Dy.sum l).neg)) (sumBound l)

/-- A sum in an unspecified order (R179, R181), rounded at the end to FP32; where the plan's roundings leave the error
allowed, the exact sum rounded once. `inv`: a product is NaN by R181's invalid cases. -/
def fsumAny (terms : List Fv) (inv : Bool) (plan : Nat → SumStep) : Fr 32 :=
  if terms.any Fv.isNan then ⟨nan32, if inv then flNV else 0⟩
  else
    let v := (sumBy plan (terms.length - 1) terms).to32.bits
    let l := terms.map Fv.dy
    match f32 v with
    | .nan => ⟨nan32, flNV⟩
    | .inf _ => ⟨v, if terms.any Fv.isInf then 0 else flOF⟩
    | z =>
      if sumNear l z.dy then ⟨v, 0⟩
      else
        let x := Dy.sum l
        let r := (round32 (decide (x.n < 0)) x.n.natAbs x.e).bits
        ⟨r, if (f32 r).isInf then flOF else 0⟩

/-- The implementation's plan for the sum of element `el`, by free-value number. -/
def mmaPlan (free el n : Nat) : SumStep :=
  let a := Config.sumPlan free el n
  ⟨a.1.1, a.1.2, a.2.1, a.2.2⟩

/-- One element of an MMA's result: c + Σ products. -/
def MatrixOp.element (o : MatrixOp) (c : F32) (i j : Nat) (plan : Nat → SumStep) : Fr 32 :=
  let c := if o.z then 0 else c
  if 6 ≤ mmaCode o.fmt then
    let n := (List.range 16).foldl
      (fun (a : Int) k => a + intElem o.fmt (opElem o.fmt o.a i k) * intElem o.fmt (o.belem k j)) 0
    let r := fadd c (round32 (decide (n < 0)) n.natAbs 0).bits
    ⟨r.bits, r.flags &&& (flNV ||| flOF)⟩
  else
    fsumAny (f32 c :: (List.range 16).map (o.product i j)) ((List.range 16).any (o.invalid i j)) plan

/-- The tile and flags that an operation leaves. -/
def MatrixOp.result (o : MatrixOp) (t : BitVec 8192) (free : Nat) : BitVec 8192 × BitVec 5 :=
  match o.kind with
  | .tzero => (0, 0)
  | .mma =>
    let e := fun i j => o.element (lane (tileRow t i) j) i j (mmaPlan free (16 * i + j))
    (ofRows (fun i => lanes (fun j => (e i j).bits)) 16,
     (List.range 16).foldl (fun a i => a ||| laneFlags (fun j => (e i j).flags)) 0)
  | .trsc =>
    let e := fun i j => fmul (lane (tileRow t i) j) (lane o.vs i)
    (ofRows (fun i => lanes (fun j => (e i j).bits)) 16,
     (List.range 16).foldl (fun a i => a ||| laneFlags (fun j => (e i j).flags)) 0)

/-! ## The streamed operand (R147, R151) -/

/-- The stream can give `n` bytes at its position to an instruction: open, enough left, aligned. -/
def Core.streamOk (x : Core) (n : Nat) : Bool :=
  match x.stream with
  | none => false
  | some t => decide (n ≤ t.left) && decide (t.pos % n = 0)

/-- An instruction consumes `n` bytes of the stream. -/
def Core.consume (x : Core) (n : Nat) : Core :=
  { x with stream := x.stream.map (fun t => { t with left := t.left - n, pos := t.pos + n }) }

/-- `n` bytes are readable in the operand buffer.
(DEDUCED, assumption 67.) -/
def Core.readable (x : Core) (n : Nat) : Bool :=
  match x.obuf with
  | [] => false
  | b :: _ => decide (x.taken + n ≤ b.length)

/-- The next `n` readable bytes, and the core after they are taken: a half whose last byte is read
becomes free (R101).
(DEDUCED, assumption 67.) -/
def Core.take (x : Core) (n : Nat) : Bytes × Core :=
  match x.obuf with
  | [] => ([], x)
  | b :: r =>
    (sliceBytes b x.taken n,
     if b.length ≤ x.taken + n then { x with obuf := r, taken := 0 } else { x with taken := x.taken + n })

/-- The fault that waits at the next byte of the stream (R105, R152): the core's first block at its bank
is stopped, and every block before it has been read. -/
def State.streamStop (s : State) (c : Nat) : Option (BitVec 8) :=
  if (s.core c).obuf.isEmpty then
    match ((Table.get {} s.comp.banks (c / 4)).queue.find? (fun q => decide (q.owner = c))) with
    | some q => match q.phase with | .stopped code => some (BitVec.ofNat 8 code) | _ => none
    | none => none
  else none

/-! ## Instructions -/

/-- MMA takes a place when it issues, with the register operands it names (R147). -/
def execMma (c : Nat) (td : BitVec 3) (a b vs : BitVec 5) (fmt : BitVec 3) (m sb tb z am : Bool)
    (s : State) : Outcome :=
  .next (s.issue c (fun x =>
    if !(mmaOk a b vs fmt m sb am) then s.fault c Fc.illegal 0
    else if 2 ≤ x.mu.length then s
    else
      let n := fmtBytes fmt
      let addr := s.localAt c (x.sreg a) n 64 [kScratch]
      match (if am then (match addr with
          | .error e => some e
          | .ok k => if s.poisonAt k n then some Fc.poison else none) else none) with
      | some e => s.fault c e (x.sreg a)
      | none =>
        if sb && !(x.streamOk n) then s.fault c Fc.streamState 0
        else
          let op : MatrixOp :=
            { kind := .mma, td := td, fmt := fmt, m := m, sb := sb, tb := tb, z := z, pc := x.pc
              a := if am then 0 else x.group a.toNat (mmaGroup fmt)
              b := if sb then 0 else x.group b.toNat (mmaGroup fmt)
              vs := if m then x.vreg vs else 0
              aAddr := if am then addr.toOption else none
              before := if sb then x.regs else {} }
          let y := if sb then x.consume n else x
          s.setCore c { y with mu := y.mu ++ [op] }.retire))

/-- A TZERO or TRSC takes a place. -/
def unitOp (kind : MatrixKind) (c : Nat) (td : BitVec 3) (v : BitVec 512) (s : State) (x : Core) : State :=
  if 2 ≤ x.mu.length then s
  else
    let op : MatrixOp :=
      { kind := kind, td := td, fmt := 0, a := 0, b := 0, vs := v, m := false, sb := false
        tb := false, z := false, aAddr := none, pc := x.pc }
    s.setCore c { x with mu := x.mu ++ [op] }.retire

def execTzero (c : Nat) (td : BitVec 3) (s : State) : Outcome :=
  .next (s.issue c (fun x => unitOp .tzero c td 0 s x))

def execTrsc (c : Nat) (td : BitVec 3) (v : BitVec 5) (s : State) : Outcome :=
  .next (s.issue c (fun x => unitOp .trsc c td (x.vreg v) s x))

def execTrdr (c : Nat) (td : BitVec 3) (v : BitVec 5) (row : BitVec 4) (s : State) : Outcome :=
  .next (s.issue c (fun x =>
    if x.tileBusy td then s
    else s.setCore c (x.setV v (tileRow (x.tile td) row.toNat)).retire))

def execTwrr (c : Nat) (td : BitVec 3) (v : BitVec 5) (row : BitVec 4) (s : State) : Outcome :=
  .next (s.issue c (fun x =>
    if x.tileBusy td then s
    else s.setCore c (x.setT td (setTileRow (x.tile td) row.toNat (x.vreg v))).retire))

/-- An operation in the unit whose tile cannot be had takes a stream fault, precise at its MMA
(R152): it and every later instruction have no effect, since those that have issued changed only what is put back. -/
def State.streamFault (s : State) (c : Nat) (o : MatrixOp) (code : BitVec 8) : State :=
  let x := s.core c
  (s.setCore c { x.restore o.before with mu := [], wait := .none }).fault c code 0

/-- The operation at the head starts once its operands are present (R147): the AM = 1 operand is read
from scratch, the streamed tile is taken whole. -/
def execMatrixOpStart (c : Nat) (s : State) : Outcome :=
  .next (
    let x := s.core c
    match x.mu with
    | [] => s
    | o :: rest =>
      if o.started then s
      else
        let n := fmtBytes o.fmt
        if o.sb && !(x.readable n) then
          (match s.streamStop c with
           | some code => s.streamFault c o code
           | none => s)
        else
          let tk := if o.sb then x.take n else ([], x)
          let a := match o.aAddr with
            | some k => bytesBv 4096 (s.loadBytes (podOf c) k n)
            | none => o.a
          let s1 := match o.aAddr with
            | some k => if s.racy (podOf c) k n || (List.range n).any (fun i => s.beyond (k + i)) then s.took else s
            | none => s
          let o' := { o with started := true, before := {}, a := a, b := if o.sb then bytesBv 4096 tk.1 else o.b }
          s1.setCore c { tk.2 with mu := o' :: rest })

/-- What an operation leaves, in the core that a waiting streamed MMA behind it would return to. -/
def MatrixOp.follow (td : BitVec 3) (r : BitVec 8192 × BitVec 5) (o : MatrixOp) : MatrixOp :=
  if o.sb && !o.started then
    { o with before := { o.before with t := Table.put 0 o.before.t td.toNat r.1, fflags := o.before.fflags ||| r.2 } }
  else o

/-- The executing operation ends: its tile is written and becomes readable, and its flags are recorded
(R147, R148, R183). -/
def execMatrixOpEnd (c : Nat) (s : State) : Outcome :=
  .next (
    let x := s.core c
    match x.mu with
    | [] => s
    | o :: rest =>
      if !o.started then s
      else
        let r := o.result (x.tile o.td) s.free
        s.took.setCore c ((({ x with mu := rest.map (MatrixOp.follow o.td r) } : Core).setT o.td r.1).flag r.2))

end Sys2Proof.Machine
end

