-- ==== Sys2Proof/Machine/Blocks.lean ====
section
/-! DEFINITION. Encoder engines and the transfers of block requests and plain runs: what moves blocks
between pods, extents and the engines (R72, R73, R115 to R118, R153 to R155). -/

namespace Sys2Proof.Machine

/-! ## Histogram contexts (R86, R117, R118) -/

/-- A histogram context. -/
def State.hctxOf (s : State) (n : Nat) : Hctx := Table.get {} s.comp.hctx n
def State.setHctx (s : State) (n : Nat) (x : Hctx) : State :=
  { s with comp := { s.comp with hctx := Table.put {} s.comp.hctx n x } }

/-- A party may name the context: it is free or the party's. -/
def State.hctxOk (s : State) (n : Nat) (p : BitVec 8) : Bool :=
  match (s.hctxOf n).owner with | none => true | some o => decide (o = p)

/-- A party's ENCODE or BUILD first names the context. -/
def State.claimHctx (s : State) (n : Nat) (p : BitVec 8) : State :=
  let x := s.hctxOf n
  match x.owner with | none => s.setHctx n { x with owner := some p } | some _ => s

/-- Saturating 48-bit addition of counts. -/
def addCounts (a b : Table Nat) : Table Nat :=
  b.foldl (fun m e => Table.modify 0 m e.1 (fun v => min (v + e.2) (2 ^ 48 - 1))) a

/-- One count per coded byte of a block (R86). -/
def blockCounts (elem : Nat) (block : Bytes) : Table Nat :=
  match elemShape elem with
  | none => []
  | some (e, c) =>
    ((List.range c).flatMap (subBytes e block)).foldl (fun m b => Table.modify 0 m b.toNat (· + 1)) []

/-- A BUILD of the context accepted before `order` still waits (R118). -/
def State.buildWaits (s : State) (ctx order : Nat) : Bool :=
  s.chan.descs.any (fun e => decide (e.2.opcode = 0x28 ∧ e.2.subop = 1 ∧ e.2.field 26 1 = ctx) &&
    decide (e.2.phase ≠ .ended) && !e.2.decided && decide (e.2.go < order))

/-- Counts held aside carry their acceptance order in the key. -/
def asideKeys (order : Nat) (n : Table Nat) : Table Nat := n.map (fun (e : Nat × Nat) => (order * 256 + e.1, e.2))

/-- Add counts to a context, aside where a BUILD accepted earlier waits. -/
def State.countAll (s : State) (ctx order : Nat) (p : Option (BitVec 8)) (n : Table Nat) : State :=
  let x := s.hctxOf ctx
  if s.buildWaits ctx order then
    s.setHctx ctx { x with aside := addCounts x.aside (asideKeys order n), asideBy := p }
  else s.setHctx ctx { x with counts := addCounts x.counts n }

/-- Count a stored block in a context. -/
def State.countBlock (s : State) (ctx order : Nat) (p : Option (BitVec 8)) (elem : Nat) (block : Bytes) :
    State := s.countAll ctx order p (blockCounts elem block)

/-! ## Encoder engines (R115, R116) -/

/-- The engine that takes the next block, and its blocks: of those that hold no BUILD and fewer than three blocks
the one with the fewest, lowest number first; 16 where none has room.
(DESIGN CHOICE, assumption 129.) -/
def State.freeEngine (s : State) : Nat × Nat :=
  (List.range 16).foldl (fun a i =>
    let n := (Table.get [] s.comp.engines i).length
    if n < a.2 ∧ (Table.find s.comp.engBuild i).isNone then (i, n) else a) (16, 3)

/-- Engine `n` takes a block. -/
def Comp.giveEngine (c : Comp) (n : Nat) (j : EncJob) : Comp :=
  let held := (Table.get [] c.engines n).map EncJob.tableId
  let list := match Table.find c.tables j.tableId.toNat with | some e => e.list | none => []
  { c with engines := Table.modify [] c.engines n (· ++ [j])
           engSlots := Table.modify [] c.engSlots n (fun l => engineSlots l held j.tableId list) }

/-- Give waiting blocks to engines, three in flight at each. The first argument bounds them. -/
def State.feedEngines : Nat → State → State
  | 0, s => s
  | n + 1, s =>
    match s.comp.encQueue with
    | [] => s
    | j :: r =>
      let e := s.freeEngine
      if e.1 < 16 then
        State.feedEngines n { s with comp := Comp.giveEngine { s.comp with encQueue := r } e.1 j }
      else s

/-- Blocks arrive for encoding. -/
def State.enqueue (s : State) (js : List EncJob) : State :=
  State.feedEngines 48 { s with comp := { s.comp with encQueue := s.comp.encQueue ++ js } }

/-! ## Plain runs -/

/-- Cut a run at 4 KiB boundaries of its destination offset: (position in the run, length) pieces. -/
def pieces (off len : Nat) : List (Nat × Nat) :=
  if len = 0 then []
  else
    let first := min len (4096 - off % 4096)
    (0, first) :: (List.range ((len - first + 4095) / 4096)).map
      (fun i => (first + 4096 * i, min 4096 (len - first - 4096 * i)))

/-- Write one piece of a plain run at a module slot. -/
def writePiece (dst : Slot) (bytes : Bytes) (a : State × Prog) (p : Nat × Nat) : State × Prog :=
  if a.2.stop.isSome then a
  else match a.1.slotWrite (dst.plus p.1) (sliceBytes bytes p.1 p.2) with
    | .ok s => (s, { a.2 with done := a.2.done + p.2 })
    | .poisoned => (a.1, { (a.2.poison p.1) with done := a.2.done + p.2 })
    | .invalid => (a.1, a.2.halt p.1 St.huskInvalid)

/-- Write a run of plain bytes at a module slot (R73, R75). -/
def State.writePlain (s : State) (dst : Slot) (bytes : Bytes) : State × Prog :=
  (pieces dst.off bytes.length).foldl (writePiece dst bytes) (s, {})

/-! ## Block requests (R153 to R155) -/

/-- Copy one block of a BGET or BPUT with its stored form and tag unchanged; of a poisoned block no sector is read
(R58). -/
def State.moveBlk (s : State) (r : BlkReq) (k : Nat) : State :=
  let a := r.addr + 4096 * k
  match r.kind with
  | .get => s.putPos a (s.blkMeta r.handle (r.blk + k)) (s.slotForm (.ext r.handle (4096 * (r.blk + k))))
  | .put => s.storeBlk r.handle (r.blk + k) (s.posWord a) (if mwPoison (s.posWord a) then [] else s.posBytes a)
  | .pute => s

/-- Every block of a request. -/
def State.moveBlks (s : State) (r : BlkReq) : State :=
  (List.range r.count).foldl (fun st k => st.moveBlk r k) s

/-- The accesses of a request. -/
def BlkReq.accs (r : BlkReq) : List Acc :=
  accsOf r.handle (r.blk * 4096) (r.count * 4096) (decide (r.kind ≠ .get))

/-- The party of the program on a core's pod. -/
def State.coreParty (s : State) (c : Nat) : Option (BitVec 8) := (s.progOf (podOf c)).map (·.2.party)

/-- Count a GCOMP of core `c` on gate `g`: added to the gate unless an earlier execution of the share
added its k-th already (R196). -/
def State.gcompDone (s : State) (c : Nat) (g : BitVec 8) : State :=
  let x := s.core c
  let k := Table.get 0 x.gcomps g.toNat + 1
  let s1 := s.setCore c { x with gcomps := Table.put 0 x.gcomps g.toNat k }
  if Table.get 0 x.gadded g.toNat < k then s1.addGate g 1 else s1

/-- GCOMPs whose earlier block requests are all complete take effect (R156). -/
def State.fireGcomps (s : State) (c : Nat) : State :=
  let x := s.core c
  let ready := fun (w : BitVec 8 × Nat) => !(x.blks.any (fun r => decide (r.order < w.2)))
  (x.gwait.filter ready).foldl (fun st w => st.gcompDone c w.1)
    (s.setCore c { x with gwait := x.gwait.filter (fun w => !(ready w)) })

/-- A core that waits in BWAIT or HALT goes on once its requests allow. -/
def Core.afterBlk (x : Core) : Core :=
  match x.wait with
  | .bwait n => if x.blks.length ≤ n then { x with wait := .none }.retire else x
  | .halt => if x.blks.isEmpty then { x with wait := .none, halted := true }.retire else x
  | _ => x

/-- The oldest request of a core completes: its blocks are all written (R155). -/
def execBlockRequestComplete (c : Nat) (s : State) : Outcome :=
  .next (
    match (s.core c).blks with
    | [] => s
    | r :: rest =>
      if r.kind = .pute then
        if r.left = 0 then
          let s1 := (s.setCore c { s.core c with blks := rest }).dropQueued r.tableId
          (s1.setCore c (s1.core c).afterBlk).fireGcomps c
        else s
      else s.withAccess srcPods (.block c r.order) r.accs (fun s =>
        let s1 := s.moveBlks r
        let s2 := s1.setCore c { s1.core c with blks := rest }
        (s2.setCore c (s2.core c).afterBlk).fireGcomps c))

/-! ## An engine finishes a block (R72, R78, R86) -/

/-- The descriptor or request of a stored block has one block fewer to wait for. -/
def State.jobDone (s : State) (j : EncJob) : State :=
  match j.desc, j.core with
  | some d, _ =>
    match s.desc d with
    | some x =>
      let x1 := { x with jobs := x.jobs - 1 }
      let s1 := s.setDesc d x1
      if x1.jobs = 0 ∧ x1.phase = .working then
        s1.endDesc d (x1.stop.getD (if x1.poisoned then St.poisoned else St.ok)) (BitVec.ofNat 64 x1.done)
          (if x1.stop = some St.translationFault then x1.refused.getD 0
           else match x1.bad with | some i => BitVec.ofNat 64 i | none => allOnes)
      else s1
    | none => s
  | none, some c =>
    let x := s.core c
    s.setCore c { x with blks := x.blks.map (fun r =>
      if r.kind = .pute ∧ r.order = j.index then { r with left := r.left - 1 } else r) }
  | none, none => s

/-- The party a job's counts belong to. -/
def State.jobParty (s : State) (j : EncJob) : Option (BitVec 8) :=
  match j.desc, j.core with
  | some d, _ => (s.desc d).bind (·.party)
  | none, some c => s.coreParty c
  | none, none => none

/-- Where a job's block goes: an extent block key or a pod-store key. -/
def EncJob.slot (j : EncJob) : Slot :=
  if j.toPod then .pod (j.dst / 4194304) (j.dst % 4194304)
  else .ext (BitVec.ofNat 32 (j.dst / 2 ^ 36)) (j.dst % 2 ^ 36 * 4096)

/-- A pod that the block was for has stopped running a program of its party: nothing is stored and the
descriptor ends ACCESS_DENIED (R230). -/
def State.jobLost (s : State) (j : EncJob) : Bool :=
  j.toPod && (match s.jobParty j with | some p => !(s.podRuns (j.dst / 4194304) p) | none => true)

/-- The list in the engine's slot of an id (R106). -/
def State.engineList (s : State) (n : Nat) (id : BitVec 16) : Bytes :=
  match (Table.get [] s.comp.engSlots n).find? (fun t => decide (t.id = id)) with
  | some t => t.list
  | none => (match s.table id with | some e => e.list | none => [])

/-- Store the block that engine `n` coded, with its counters and counts. -/
def State.storeJob (s : State) (n : Nat) (j : EncJob) : State :=
  if s.jobLost j then
    (match j.desc with
     | some d => s.modDesc d (fun x => { x with stop := some (x.stop.getD St.accessDenied), bad := some (x.bad.getD j.index) })
     | none => s).jobDone j
  else
  let list := s.engineList n j.tableId
  let r := encodeBlock list j.elem.toNat j.tableId j.bytes
  let w := if r.1 = 0x3F then rawMeta else mkMeta j.tableId false r.1
  let s1 := s.slotStore j.slot w r.2
  let s2 := { s1 with comp := { s1.comp with
    rawEsc := s1.comp.rawEsc + (if r.1 = 0x3F then 1 else 0)
    huskWr := s1.comp.huskWr + (if r.1 = 0x3F then 0 else 1) } }
  let s3 := match j.hctx with
    | some n => s2.countBlock n.toNat j.order (s2.jobParty j) j.elem.toNat j.bytes
    | none => s2
  s3.jobDone j

/-- Whose accesses an engine's are: its descriptor's, or its core request's. -/
def State.whoOf (s : State) (j : EncJob) : Who :=
  match j.desc, j.core with
  | some d, _ => .desc ((s.desc d).elim 0 Desc.go)
  | none, some c => .block c j.index
  | none, none => .program 0

def execEncoderBlockEnd (n : Nat) (s : State) : Outcome :=
  .next (if s.unitDown .encoder n then s else
    match Table.get [] s.comp.engines n with
    | [] => s
    | j :: rest => s.withAccess srcMovers (s.whoOf j) (j.slot.accs 4096 true) (fun s =>
        let s1 := { s with comp := { s.comp with engines := Table.put [] s.comp.engines n rest } }
        State.feedEngines 3 (s1.storeJob n j)))

end Sys2Proof.Machine
end

