-- ==== Sys2Proof/Machine/Firmware.lean ====
section
/-! DEFINITION. Firmware images: their header, their digest, when one is valid, and the check of a unit's image at the
unit's reset (R433 to R435). -/

namespace Sys2Proof.Machine

open Sys2Proof.Crypto

/-! ## Firmware images (R433, R434) -/

/-- Bodies of a kind are at most this long. -/
def fwMax : Nat → Nat
  | 0 => 1048576
  | 1 => 4194304
  | _ => 8388608

/-- BODY_BYTES, KEY_INDEX and SVN of an image. -/
def fwBody (b : Bytes) : Nat := fieldAt b 12 4
def fwKeyIndex (b : Bytes) : Nat := fieldAt b 6 1
def fwSvn (b : Bytes) : Nat := fieldAt b 8 4

/-- D: the digest of header bytes 0 to 63 and the body. -/
def fwDigest (b : Bytes) : Bytes := sha512 (b.take 64 ++ (b.drop 128).take (fwBody b))

/-- The header meets R433 for a kind. -/
def fwHeader (k : Nat) (b : Bytes) : Bool :=
  decide (128 ≤ b.length) && decide (fieldAt b 0 4 = 0x5746585A) && decide (fieldAt b 4 1 = 1) &&
    decide (fieldAt b 5 1 = k) && decide (k < 3) && decide (fwKeyIndex b < 4) && decide (fieldAt b 7 1 = 0) &&
    decide (fwSvn b ≤ 63) && decide (fwBody b % 64 = 0) && decide (64 ≤ fwBody b) && decide (fwBody b ≤ fwMax k) &&
    (sliceBytes b 24 40).all (fun v => decide (v = 0))

def State.fwKind (s : State) (k : Nat) : FwKind := Table.get {} s.sec.fw k
def State.setFw (s : State) (k : Nat) (x : FwKind) : State := { s with sec := { s.sec with fw := Table.put {} s.sec.fw k x } }

/-- The image is valid for the kind (R434). -/
def State.fwValid (s : State) (k : Nat) (b : Bytes) : Bool :=
  fwHeader k b && decide ((s.fwKind k).svnMin ≤ fwSvn b) &&
    (match s.fwKey (fwKeyIndex b) with | some key => ed25519Verify key (fwDigest b) ((b.drop 64).take 64) | none => false)

/-- A slot: B or A. -/
def FwKind.slot (x : FwKind) (isB : Bool) : FwSlot := if isB then x.b else x.a
def FwKind.setSlot (x : FwKind) (isB : Bool) (y : FwSlot) : FwKind := if isB then { x with b := y } else { x with a := y }

def State.slotValid (s : State) (k : Nat) (isB : Bool) : Bool :=
  match ((s.fwKind k).slot isB).image with | some b => s.fwValid k b | none => false

/-- The image of a unit that resets is loaded again from its kind's active slot, if it is valid there; the spec does not
say what becomes of a unit whose image no longer is: here it stays in reset.
(DESIGN CHOICE, assumption 140.) -/
def State.fwOk (s : State) (k : Nat) : Bool := s.slotValid k (s.fwKind k).activeB

end Sys2Proof.Machine
end

