-- ==== Sys2Proof/Machine/Programs.lean ====
section
/-! DEFINITION. Programs (chapter 6): LAUNCH, the wait queue, starting, loading, time-slicing, ending, and
pod resets (R186 to R203, R414). -/

namespace Sys2Proof.Machine

/-! ## Images (R186 to R189) -/

/-- The fields of a program image's header (R186). -/
structure ImageHead where
  code    : Nat
  entry   : Nat
  args    : Nat
  scratch : Nat
  shared  : Nat
  deriving DecidableEq, Repr

def imageHead (b : Bytes) : ImageHead :=
  { code := fieldAt b 8 4, entry := fieldAt b 12 4, args := fieldAt b 16 2
    scratch := fieldAt b 20 4, shared := fieldAt b 24 4 }

/-- Shared-area bytes that the code takes, in whole blocks. -/
def codeRoom (n : Nat) : Nat := (n + 4095) / 4096 * 4096

/-- Every header field is in range and every reserved byte 0 (R186, R189 step 4).
(DEDUCED, assumption 75.) -/
def imageOk (b : Bytes) : Bool :=
  let h := imageHead b
  decide (fieldAt b 0 4 = 0x4750585A) && decide (fieldAt b 4 1 = 1) && decide (fieldAt b 5 3 = 0) &&
    decide (4 ≤ h.code ∧ h.code ≤ 1048576 ∧ h.code % 4 = 0) &&
    decide (h.entry % 4 = 0 ∧ h.entry < h.code) && decide (h.args ≤ 256 ∧ h.args % 8 = 0) &&
    decide (fieldAt b 18 2 = 0) && decide (h.scratch % 4096 = 0 ∧ h.scratch ≤ 262144) &&
    decide (h.shared % 4096 = 0) && decide (fieldAt b 28 36 = 0) && ((sliceBytes b 304 3792).all (fun v => decide (v = 0)))

/-- Bytes of a context slot (R201). -/
def slotBytes : Nat := 4456448

/-- Bind segment `n` from its template and the arguments, or the status that refuses it (R187, R189
step 6).
(DEDUCED, assumption 75.) -/
def State.bindSeg (s : State) (page args : Bytes) (p : BitVec 8) (accept n : Nat) : Except Status Segment :=
  let o := 64 + 16 * (n - 1)
  let kind := fieldAt page o 1
  let ha := fieldAt page (o + 1) 1
  let ba := fieldAt page (o + 14) 1
  let la := fieldAt page (o + 15) 1
  let dwOk := fun i => i = 0xFF || (decide (i ≤ 31) && decide (8 * i + 8 ≤ args.length))
  let base := if ba = 0xFF then fieldAt page (o + 2) 6 else fieldAt args (8 * ba) 8
  let limit := if la = 0xFF then fieldAt page (o + 8) 6 else fieldAt args (8 * la) 8
  let haOk := if kind = 3 then decide (ha ≤ 63) && decide (4 * ha + 4 ≤ args.length) else decide (ha = 0)
  let seg := fun (h : Word) =>
    { kind := BitVec.ofNat 2 kind, base := BitVec.ofNat 48 base, limit := BitVec.ofNat 48 limit, handle := h : Segment }
  if 3 < kind ∨ !haOk ∨ !(dwOk ba) ∨ !(dwOk la) then .error St.malformedProgram
  else if kind = 0 then .ok {}
  else if kind = 1 then (if 262144 < base + limit then .error St.malformedProgram else .ok (seg 0))
  else if kind = 2 then (if 2097152 < base + limit then .error St.malformedProgram else .ok (seg 0))
  else if base % 4096 ≠ 0 ∨ limit % 4096 ≠ 0 then .error St.malformedProgram
  else
    let h : Word := BitVec.ofNat 32 (fieldAt args (4 * ha) 4)
    match s.reach (s.gpid p) h base limit .data false accept with
    | some st => .error st
    | none => .ok (seg h)

/-- Segments 1 to `n`, or the first refusal in ascending order. -/
def State.bindSegs (s : State) (page args : Bytes) (p : BitVec 8) (accept : Nat) :
    Nat → Except Status (List Segment)
  | 0 => .ok []
  | n + 1 =>
    match s.bindSegs page args p accept n with
    | .error e => .error e
    | .ok l =>
      match s.bindSeg page args p accept (n + 1) with
      | .error e => .error e
      | .ok g => .ok (l ++ [g])

/-- The context operand of a LAUNCH: none where CTX_HANDLE is 0. -/
def Desc.ctx (x : Desc) : Option (Word × Nat) :=
  if x.field 48 4 = 0 then none else some (BitVec.ofNat 32 (x.field 48 4), x.field 52 4)

/-- The checks of R189 after the header page and the argument block have been read: the launch-table
entry, or the status. -/
def State.launchChecks (s : State) (d : Nat) (x : Desc) (p : BitVec 8) (page args : Bytes) :
    Except Status Program :=
  let h := imageHead page
  let n := x.field 58 1
  let image : Word := BitVec.ofNat 32 (x.field 24 4)
  let pg := x.field 28 4
  let ctxBad := match x.ctx with
    | some (ch, cp) => match s.extent ch with
      | some e => decide (e.size < 4096 * cp + n * slotBytes) ||
          (s.variant.deep && decide (e.kind = .pinnedNear))
      | none => true
    | none => false
  if n = 0 ∨ !(imageOk page) ∨ h.args ≠ x.field 56 2 ∨ 2093056 < codeRoom h.code + h.shared ∨ ctxBad = true then
    .error St.malformedProgram
  else match s.extent image with
    | none => .error St.accessDenied
    | some e =>
      if e.size < 4096 * pg + 4096 + h.code then .error St.outOfBounds
      else match s.bindSegs page args p x.accept 15 with
        | .error st => .error st
        | .ok segs => .ok
          { desc := d, chan := x.chan, party := p, cls := x.cls, pods := n, image := image, page := pg
            codeBytes := h.code, entry := BitVec.ofNat 32 h.entry, args := args
            saveScratch := h.scratch, saveShared := h.shared, ctx := x.ctx, segs := segs }

/-- A descriptor's status is decided while it waits for its start (R241). -/
def State.settle (s : State) (d : Nat) (st : Status) (d1 : DWord) : State :=
  s.modDesc d (fun x => { x with decided := true, status := st, d1 := d1 })

/-- Launch-table entry `k`. -/
def State.program (s : State) (k : Nat) : Option Program := Table.find s.pods.programs k

def State.setProgram (s : State) (k : Nat) (x : Program) : State :=
  { s with pods := { s.pods with programs := Table.set s.pods.programs k x } }

/-- LAUNCH: the reads and checks of its acceptance, and its launch-table entry (R189). -/
def execLaunch (d : Nat) (h : HostData) (s : State) : Outcome :=
  .next (
    match s.desc d with
    | none => s
    | some x =>
      if x.opcode ≠ 0x20 ∨ x.phase ≠ .accepted ∨ x.decided ∨ (s.program d).isSome ∨ !(s.hasBuf x) then s
      else match (x.slot 32).map s.resolve, x.party with
        | some sl, some p =>
          let image : Word := BitVec.ofNat 32 (x.field 24 4)
          let off := 4096 * x.field 28 4
          let n := x.field 56 2
          s.withBlocks srcMovers (.desc x.go) (accsOf image off 4096 false ++ sl.accs n false)
            ((Slot.ext image off).blocks 4096 ++ sl.blocks n) (fun s =>
            match s.readExt image off 4096 with
            | .error st => s.settle d st 0
            | .ok page =>
              match (if n = 0 then .ok [] else s.paramBlock x sl n (x.got h)) with
              | .error st => s.settle d st (if st = St.translationFault then (x.got h).refused.getD 0 else 0)
              | .ok args =>
                match s.launchChecks d x p page args with
                | .error st => s.settle d st 0
                | .ok g => s.setProgram d g)
        | _, _ => s)

/-! ## The wait queue (R191, R198) -/

/-- Entry `a` comes before entry `b` in the wait queue. -/
def State.before (s : State) (a b : Nat) : Bool :=
  match s.program a, s.program b with
  | some x, some y =>
    let go := fun (p : Program) => match s.desc p.desc with | some e => e.go | none => 0
    decide (x.eligible < y.eligible) ||
      (decide (x.eligible = y.eligible) && (decide (x.chan < y.chan) ||
        (decide (x.chan = y.chan) && decide (go x < go y))))
  | _, _ => false

/-- Insert entry `k` behind every entry it does not come before. -/
def State.queueIn (s : State) (k : Nat) : List Nat → List Nat
  | [] => [k]
  | q :: r => if s.before k q then k :: q :: r else q :: s.queueIn k r

/-- A LAUNCH or a preempted program becomes eligible now. -/
def State.enqueueProgram (s : State) (k : Nat) : State :=
  let s1 := s.modProg k (fun g => { g with state := .waiting, eligible := s.now })
  { s1 with pods := { s1.pods with queue := s1.queueIn k s1.pods.queue } }

/-- Pods in service that run, load and save nothing, lowest number first. -/
def State.freePods (s : State) : List Nat :=
  (List.range s.variant.pods).filter (fun p => decide ((s.pod p).state = .free))

/-- A pod is taken for a program: wiped where its last program was another party's (R110, R122), in 35 counts that
POD_SWITCH adds up (R202, R203). -/
def State.takePod (s : State) (k : Nat) (g : Program) (pod index : Nat) : State :=
  let p := s.pod pod
  let wipe := match p.party with | some q => decide (q ≠ g.party) | none => false
  let s1 := if wipe then s.wipePod pod else s
  s1.setPod pod { p with state := .loading, party := some g.party, index := BitVec.ofNat 7 index
                         prog := some k, switch := p.switch + (if wipe then 35 else 0) }

/-- The head of the queue takes its pods (R191): all in one count, pod indexes in ascending pod
number. -/
def State.startHead (s : State) (k : Nat) (g : Program) : State :=
  let ps := s.freePods.take g.pods
  let s1 := ps.zipIdx.foldl (fun st x => st.takePod k g x.1 x.2) s
  let s2 := s1.modProg k (fun y => { y with state := .loading, on := ps, since := s.now })
  { s2 with pods := { s2.pods with queue := s2.pods.queue.drop 1 } }

/-- Start the head of the queue if it is new, or is a preempted program, as `again` asks. -/
def State.startNext (s : State) (again : Bool) : State :=
  match s.pods.queue with
  | [] => s
  | k :: _ =>
    match s.program k with
    | none => s
    | some g =>
      if g.restored = again ∧ g.pods ≤ s.freePods.length then s.whenActive (fun s => s.startHead k g) else s

def execProgramStart (s : State) : Outcome := .next (s.startNext false)
def execProgramRestore (s : State) : Outcome := .next (s.startNext true)

/-! ## Loading (R188, R190, R192, R202) -/

/-- Shared area of a pod. -/
def sharedBase : Nat := 2097152

/-- Offset of the argument block within the shared area. -/
def argOff : Nat := 0x1FFF00

/-- Core `x`'s state at the start of a program (R192), with the GCOMPs that an earlier execution of the share added
(R196). -/
def startCore (x : Core) (g : Program) (index : Nat) (added : Table Nat) : Core :=
  { dMiss := x.dMiss, dBusy := x.dBusy, pc := g.entry, running := true
    gadded := added, gcomps := []
    s := Table.put 0 (Table.put 0 (Table.put 0 [] 1 0x1FFF00) 2 (BitVec.ofNat 64 index)) 3
      (BitVec.ofNat 64 g.pods) }

/-- Segment 0 and the fifteen bound segments (R188). -/
def segTable (g : Program) : Table Segment :=
  (0, { kind := kPod, base := 0, limit := 2097152, handle := 0 }) ::
    ((g.segs.zipIdx).map (fun x => (x.2 + 1, x.1)))

/-- A pod's share is loaded from the start state: code, arguments, zeros elsewhere in the shared area,
and its cores begin, the first time or again. -/
def State.loadPod (s : State) (pod index : Nat) (g : Program) (code : Bytes) (run again : Bool) : State :=
  let a := podKey pod sharedBase
  let m := Store.write (Store.write (Store.clear s.pods.mem a 2097152) a code) (a + argOff) g.args
  let s1 := { s with pods := { s.pods with mem := m } }
  let s2 := s1.setPod pod { s1.pod pod with state := if run then .running else .saving
                                            segs := segTable g, index := BitVec.ofNat 7 index }
  (List.range 8).foldl (fun (st : State) i =>
    st.setCore (8 * pod + i) { startCore (st.core (8 * pod + i)) g index
      (if again then (st.core (8 * pod + i)).gadded else []) with running := run }) s2

/-- Move a stream's recorded position to a pod and reopen it there (R202). -/
def Core.onPod (x : Core) (pod : Nat) : Core :=
  { x with stream := x.stream.map (fun t => { t with next := pod * 4194304 + t.next % 4194304 }) }

/-- A saved pod is restored: code, arguments, the saved bytes, position words with the references they
kept, and its cores resume, their open streams queueing blocks from the recorded positions. -/
def State.restorePod (s : State) (pod index : Nat) (g : Program) (code : Bytes) (v : PodSave) : State :=
  let a := podKey pod 0
  let m0 := Store.clear s.pods.mem a 4194304
  let m1 := Store.write (Store.write m0 (a + sharedBase) code) (a + sharedBase + argOff) g.args
  let m2 := v.bytes.foldl (fun m e => Store.setByte m (a + e.1) e.2) m1
  let w := v.words.foldl (fun m e => Table.put rawMeta m (pod * 1024 + e.1) e.2) s.pods.words
  let s1 := { s with pods := { s.pods with mem := m2, words := w } }
  let s2 := s1.setPod pod { s1.pod pod with state := .running, segs := segTable g, index := BitVec.ofNat 7 index
                                            switch := (s1.pod pod).switch + BitVec.ofNat 32 (s.now - g.since) }
  (v.cores.zipIdx).foldl (fun (st : State) c =>
    let old := st.core (8 * pod + c.2)
    State.feedStream 2 (8 * pod + c.2) (st.setCore (8 * pod + c.2)
      { c.1.onPod pod with dMiss := old.dMiss, dBusy := old.dBusy, running := !c.1.halted })) s2

/-- The code of a program as its image holds it now, or the status of a block that cannot be read
(R190). -/
def State.codeOf (s : State) (g : Program) : Except Status Bytes :=
  s.readExt g.image (4096 * g.page + 4096) g.codeBytes

/-- The accesses and blocks of a program's code. -/
def Program.codeAccs (g : Program) : List Acc := accsOf g.image (4096 * g.page + 4096) g.codeBytes false
def Program.codeBlocks (g : Program) : List Slot := (Slot.ext g.image (4096 * g.page + 4096)).blocks g.codeBytes

/-- No core of a program executes further. -/
def State.stopCores (s : State) (pods : List Nat) : State :=
  { s with pods := { s.pods with cores := s.pods.cores.map (fun e =>
      if pods.contains (podOf e.1) then (e.1, { e.2 with running := false }) else e) } }

/-- A code block could not be loaded: the program ends on all its pods (R190). -/
def State.codeFail (s : State) (k : Nat) (g : Program) (st : Status) : State :=
  (s.modProg k (fun y => { y with state := .ending, loadFail := some (y.loadFail.getD st) })).stopCores g.on

/-- A starting or restoring program's pods leave LOADING (R188, R192, R202). -/
def execProgramLoadEnd (k : Nat) (s : State) : Outcome :=
  .next (
    match s.program k with
    | none => s
    | some g =>
      if g.state ≠ .loading ∨ g.on.any (fun p => decide ((s.pod p).state ≠ .loading)) then s
      else
        let fin := fun (st : State) => st.modProg k (fun y =>
          { y with state := .running, quantum := s.now + s.pods.quantum.toNat, saved := [], restored := false })
        if g.combine then
          fin (g.on.zipIdx.foldl (fun st x => st.setPod x.1 { st.pod x.1 with state := .running }) s)
        else s.withBlocks srcPods (.program k) g.codeAccs g.codeBlocks (fun s =>
          match s.codeOf g with
          | .error st => s.codeFail k g st
          | .ok code =>
            if g.restored then
              fin ((g.on.zip g.saved).zipIdx.foldl (fun st x => st.restorePod x.1.1 x.2 g code x.1.2) s)
            else fin (g.on.zipIdx.foldl (fun st x => st.loadPod x.1 x.2 g code true false) s)))

/-! ## Time-slicing (R199 to R202) -/

/-- A core stops for a save: a stalled instruction will execute again (R202 step 1). -/
def Core.stop (x : Core) : Core :=
  let y := match x.wait with
    | .pbar m _ => { x with pbars := Table.modify 0 x.pbars m.toNat (· - 1) }
    | _ => x
  { y with wait := .none, running := false }

/-- The position at which a stream will be reopened: its unread blocks are discarded (R202 step 4). -/
def Core.parkStream (x : Core) : Core :=
  match x.stream with
  | none => { x with obuf := [], taken := 0 }
  | some t =>
    let total := (t.left + t.pos) / 4096
    let start := t.next - 4096 * (total - t.blocks)
    let i := t.pos / 4096
    { x with stream := some { t with next := start + 4096 * i, blocks := total - i }
             obuf := [], taken := t.pos % 4096 }

def execQuantumExpiry (k : Nat) (s : State) : Outcome :=
  .next (
    match s.program k with
    | none => s
    | some g =>
      if g.state = .running ∧ g.ctx.isSome ∧ g.quantum ≤ s.now ∧ !s.pods.queue.isEmpty then
        let s1 := s.modProg k (fun y => { y with state := .saving, since := s.now })
        let s2 := g.on.foldl (fun (st : State) p =>
          if (st.pod p).state = .running then st.setPod p { st.pod p with state := .saving } else st) s1
        { s2 with pods := { s2.pods with cores := s2.pods.cores.map (fun e =>
            if g.on.contains (podOf e.1) then (e.1, e.2.stop) else e) } }
      else s)

/-- What a save keeps of a pod (R201).
(DESIGN CHOICE, assumption 76.) -/
def State.savePod (s : State) (pod : Nat) (g : Program) : PodSave :=
  let a := podKey pod 0
  let keep := fun o => (decide (o < sharedBase) && decide (o % 262144 < g.saveScratch)) ||
    (decide (sharedBase + codeRoom g.codeBytes ≤ o) &&
     decide (o < sharedBase + codeRoom g.codeBytes + g.saveShared))
  { words := (s.pods.words.filter (fun e => decide (e.1 / 1024 = pod))).map (fun e => (e.1 % 1024, e.2))
    bytes := ((s.pods.mem.filter (fun e => decide (a ≤ e.1) && decide (e.1 < a + 4194304))).map
      (fun e => (e.1 - a, e.2))).filter (fun e => keep e.1)
    cores := (List.range 8).map (fun i => (s.core (8 * pod + i)).parkStream) }

/-- A core record (R201); the control area's format is the device's, so its bytes are free values. -/
def State.coreRecord (s : State) (x : Core) : Bytes :=
  (List.range 32).flatMap (fun r => leBytes 8 (x.sreg (BitVec.ofNat 5 r)).toNat) ++
  (List.range 32).flatMap (fun r => bvBytes 64 (x.vregN r)) ++
  (List.range 8).flatMap (fun r => bvBytes 1024 (x.tile (BitVec.ofNat 3 r))) ++
  (List.range 256).map (Config.freeByte (s.free + 1))

/-- The bytes a save writes to a pod's context slot.
(DESIGN CHOICE, assumption 76.) -/
def State.slotImage (s : State) (pod : Nat) (g : Program) (v : PodSave) : Bytes :=
  (List.range 256).map (Config.freeByte s.free) ++
  (List.range 1024).flatMap (fun i => leBytes 4 (Table.get rawMeta v.words i).toNat) ++
  v.cores.flatMap s.coreRecord ++
  (List.range 8).flatMap (fun c => Store.read s.pods.mem (podKey pod (262144 * c)) g.saveScratch) ++
  Store.read s.pods.mem (podKey pod (sharedBase + codeRoom g.codeBytes)) g.saveShared

/-- A pod is freed; its last party stays. -/
def State.freePod (s : State) (pod : Nat) : State :=
  s.setPod pod { s.pod pod with state := .free, prog := none, segs := [] }

/-- The units that serve a pod forget its streams: banks' queues and the cores' streams.
(DESIGN CHOICE, assumption 78.) -/
def State.quietPod (s : State) (pod : Nat) : State :=
  let s1 := (s.emptyBank (2 * pod)).emptyBank (2 * pod + 1)
  (List.range 8).foldl (fun (st : State) i =>
    let x := st.core (8 * pod + i)
    st.setCore (8 * pod + i) { dMiss := x.dMiss, dBusy := x.dBusy }) s1

/-- A save of one pod: its slot is written, its words keep their references (R80), and it is freed. -/
def State.saveOne (s : State) (g : Program) (pod index : Nat) : State :=
  let v := s.savePod pod g
  let s1 := match g.ctx with
    | some (h, pg) => (s.writePlain (.ext h (4096 * pg + slotBytes * index)) (s.slotImage pod g v)).1
    | none => s
  let s2 := { s1 with free := s1.free + 2, pods := { s1.pods with
    words := s1.pods.words.filter (fun e => decide (e.1 / 1024 ≠ pod)) } }
  let s3 := (s2.quietPod pod).freePod pod
  s3.setPod pod { s3.pod pod with preempts := (s3.pod pod).preempts + 1
                                  switch := (s3.pod pod).switch + BitVec.ofNat 32 (s.now - g.since) }

/-- The matrix units have drained and every accepted block request has completed (R202 steps 2, 3), and no reset of the
pod is under way. -/
def State.podIdle (s : State) (pod : Nat) : Bool :=
  (List.range 8).all (fun i =>
    let x := s.core (8 * pod + i)
    x.mu.isEmpty && x.blks.isEmpty && decide ((s.pod pod).state = .saving))

/-- (DESIGN CHOICE, assumption 78.) -/
def execContextSaveEnd (k : Nat) (s : State) : Outcome :=
  .next (
    match s.program k with
    | none => s
    | some g =>
      if g.state ≠ .saving ∨ !(g.on.all s.podIdle) then s
      else match g.ctx with
        | none => s
        | some (h, pg) =>
          s.withAccess srcPods (.program k) (accsOf h (4096 * pg) (slotBytes * g.pods) true) (fun s =>
            let vs := g.on.map (fun p => s.savePod p g)
            let s1 := (g.on.zipIdx).foldl (fun st x => st.saveOne g x.1 x.2) s
            (s1.modProg k (fun y => { y with saved := vs, restored := true, on := [] })).enqueueProgram k))

/-! ## The end of a program (R80, R159, R160, R192) -/

/-- Operations in the matrix unit have finished and accepted block requests have completed. -/
def State.podDone (s : State) (pod : Nat) : Bool :=
  (List.range 8).all (fun i =>
    let x := s.core (8 * pod + i)
    !(x.mu.any (·.started)) && x.blks.isEmpty) && decide ((s.pod pod).state ≠ .resetting)

/-- Status and details of a program's LAUNCH (R159, R190, R239). -/
def Program.outcome (g : Program) : Status × DWord × DWord :=
  match g.loadFail, g.fault with
  | some st, _ => (st, 0, 0)
  | none, some f =>
    (Fc.status f.code, f.addr,
     BitVec.ofNat 64 (f.pc.toNat + 2 ^ 32 * (f.core % 1024) + 2 ^ 48 * f.code.toNat))
  | none, none => (St.ok, 0, 0)

/-- Release the references a saved context keeps. -/
def State.dropSaved (s : State) (v : List PodSave) : State :=
  v.foldl (fun st p => p.words.foldl (fun (st : State) e =>
    if mwId e.2 ≠ 0 then st.dropRef (mwId e.2) else st) st) s

/-- A program leaves: position words set to 0x3F, pods freed, its launch-table entry removed. -/
def State.endProgram (s : State) (k : Nat) (g : Program) : State :=
  let s1 := g.on.foldl (fun (st : State) p => ((st.clearWords p).quietPod p).freePod p) s
  let s2 := s1.dropSaved g.saved
  { s2 with pods := { s2.pods with
      programs := Table.del s2.pods.programs k
      queue := s2.pods.queue.filter (fun q => decide (q ≠ k)) } }

/-- The program can end (a REDUCE's combine program when the REDUCE has ended): every core of every pod has halted, or a fault or a load failure ended it. -/
def State.programOver (s : State) (g : Program) : Bool :=
  (decide (g.state = .running) && !g.combine && g.on.all (fun p => (List.range 8).all (fun i =>
    (s.core (8 * p + i)).halted))) || decide (g.state = .ending)

def execProgramEnd (k : Nat) (s : State) : Outcome :=
  .next (
    match s.program k with
    | none => s
    | some g =>
      if s.programOver g && g.on.all s.podDone then
        let o := g.outcome
        if g.combine then s.endProgram k g else (s.endProgram k g).endDesc g.desc o.1 o.2.1 o.2.2
      else s)

/-! ## Pod reset and re-execution (R195, R196, R414) -/

/-- A block of a BPUT of a pod that is being reset is stored, or held until its tract takes it (R36). -/
def State.flushPut (s : State) (r : BlkReq) (k : Nat) : State :=
  let a := r.addr + 4096 * k
  let w := s.posWord a
  if s.free_ (accsOf r.handle (4096 * (r.blk + k)) 4096 true) then s.moveBlk r k
  else
    let s1 := if mwId w ≠ 0 then s.addQueued (mwId w) else s
    { s1 with place := { s1.place with puts := s1.place.puts ++ [⟨r.handle, r.blk + k, w, s.posBytes a⟩] } }

/-- A held block of a BPUT whose tract is free is stored. -/
def State.landPut (s : State) (q : HeldPut) : State :=
  if s.free_ (accsOf q.handle (4096 * q.blk) 4096 true) then
    let s1 := s.storeBlk q.handle q.blk q.word q.bytes
    if mwId q.word ≠ 0 then s1.dropQueued (mwId q.word) else s1
  else { s with place := { s.place with puts := s.place.puts ++ [q] } }

/-- Held blocks are tried again, in order. -/
def State.landPuts (s : State) : State :=
  s.place.puts.foldl State.landPut { s with place := { s.place with puts := [] } }

/-- Block requests a pod has accepted run to their end: BPUTs are stored, the data of BGETs discarded;
blocks of BPUTEs already at the engines are stored from there. -/
def State.flushBlks (s : State) (c : Nat) : State :=
  (s.core c).blks.foldl (fun (st : State) r =>
    match r.kind with
    | .put => (List.range r.count).foldl (fun (u : State) k => u.flushPut r k) st
    | .get => st
    | .pute => st.dropQueued r.tableId) s

/-- A pod reset begins (R414 steps 1 to 3).
(DEDUCED, assumption 77.) -/
def State.podReset (s : State) (pod : Nat) : State :=
  let s1 := (List.range 8).foldl (fun (st : State) i => st.flushBlks (8 * pod + i)) s
  let kept := (List.range 8).map (fun i =>
    let x := s.core (8 * pod + i)
    x.gcomps.foldl (fun m e => Table.modify 0 m e.1 (fun v => max v e.2)) x.gadded)
  let s2 := s1.wipePod pod
  let s3 := kept.zipIdx.foldl (fun (st : State) g =>
    let x := st.core (8 * pod + g.2)
    st.setCore (8 * pod + g.2) { x with gadded := g.1 }) s2
  let s4 := s3.setPod pod { s3.pod pod with state := .resetting, moving := false, resets := (s3.pod pod).resets + 1 }
  let s5 := match s.progOf pod with
    | some (_, g) => s4.jrnFault g.desc Uk.pod pod 2 0
    | none => s4
  { s5 with rel := { s5.rel with podResets := s5.rel.podResets + 1 } }

def execPodReset (pod : Nat) (s : State) : Outcome :=
  .next (if pod < s.variant.pods ∧ (s.pod pod).state ≠ .out then s.podReset pod else s)

/-- A pod whose share is to be executed again, once its image's code is there: it starts from the start state of R192,
running, or stopped where the program is being saved (R195, R414). A code block that cannot be read ends the program on
all its pods (R190).
(DEDUCED, assumption 77.) -/
def State.reload (s : State) (pod : Nat) : State :=
  match s.progOf pod with
  | none => s
  | some (k, g) =>
    if (s.pod pod).state ≠ .loading ∨ g.state = .loading then s
    else s.withBlocks srcPods (.program k) g.codeAccs g.codeBlocks (fun s =>
      match s.codeOf g with
      | .error st => s.codeFail k g st
      | .ok code =>
        let index := (s.pod pod).index
        (s.loadPod pod index.toNat g code (decide (g.state = .running)) true).raise 0x0307 Sev.warning Uk.pod pod
          g.party.toNat index.toNat 0)

/-- The GCOMPs that a saved core's share has added to gates (R196). -/
def Core.added (x : Core) : Table Nat := x.gcomps.foldl (fun m e => Table.modify 0 m e.1 (fun v => max v e.2)) x.gadded

/-- A share being restored will start again: its saved context is replaced by the start state, with the GCOMPs already
added (R196, R414). -/
def State.restart (s : State) (k : Nat) (g : Program) (i : Nat) : State :=
  let old := g.saved.getD i ⟨[], [], []⟩
  let again : PodSave :=
    { words := [], bytes := []
      cores := (List.range 8).map (fun c => startCore {} g i (old.cores.getD c {}).added) }
  if i < g.saved.length then (s.dropSaved [old]).modProg k (fun y => { y with saved := y.saved.set i again }) else s

/-- A pod takes over the share of another: its own wipe first (R110, R122), then what the share has added to gates
(R196). -/
def State.moveShare (s : State) (pod onto : Nat) (k : Nat) (g : Program) : State :=
  if pod = onto then s
  else
    let s1 := s.takePod k g onto (s.pod pod).index.toNat
    let s2 := (List.range 8).foldl (fun (st : State) i =>
      let x := st.core (8 * pod + i)
      (st.setCore (8 * onto + i) { st.core (8 * onto + i) with gadded := x.gadded }).setCore (8 * pod + i)
        { x with gadded := [] }) s1
    (s2.setPod pod { s2.pod pod with prog := none }).modProg k (fun y =>
      { y with on := y.on.map (fun q => if q = pod then onto else q) })

/-- The share of a reset pod goes on, on that pod or another, or the pod is free. -/
def State.resume (s : State) (pod onto : Nat) : State :=
  match s.progOf pod with
  | none => s.setPod pod { s.pod pod with state := .free }
  | some (k, g) =>
    let s0 := (s.setPod pod { s.pod pod with reexecs := (s.pod pod).reexecs + 1 }).moveShare pod onto k g
    let s1 := s0.setPod onto { s0.pod onto with
      state := if g.state = .ending ∨ (g.combine ∧ g.state ≠ .loading) then .running else .loading }
    if g.state = .loading then s1.restart k g (s1.pod onto).index.toNat else s1.reload onto

/-- A pod that failed its self-check gives its share to a free pod, or the share waits for one; of an ending program it
drops the share. After the third failure in a row the pod leaves service (R414, R424). -/
def State.leavePod (s : State) (pod : Nat) : State :=
  let leave := fun (st : State) =>
    let p := st.pod pod
    let out := decide (3 ≤ p.checkFails)
    let st1 := st.setPod pod { p with prog := none, moving := false, state := if out then .out else .resetting }
    if out then st1.raise 0x0308 Sev.error Uk.pod pod p.checkFails 0 0 else st1
  match s.progOf pod, s.freePods with
  | none, _ => leave s
  | some (k, g), l =>
    if g.state = .ending then leave (s.modProg k (fun y => { y with on := y.on.filter (fun q => decide (q ≠ pod)) }))
    else match l with
      | q :: _ => leave (s.resume pod q)
      | [] => s.setPod pod { s.pod pod with moving := true }

/-- A pod that is resetting has passed its self-check, or failed it. -/
def State.podChecked (s : State) (pod : Nat) (passed : Bool) : State :=
  let p := s.pod pod
  if p.state ≠ .resetting ∨ p.moving then s
  else if passed then (s.setPod pod { p with checkFails := 0 }).resume pod pod
  else (s.setPod pod { p with checkFails := p.checkFails + 1 }).leavePod pod

/-- Shares that wait for a free pod, or for their code, are tried again. -/
def State.reloadPods (s : State) : State :=
  (List.range s.variant.pods).foldl (fun (st : State) p =>
    if (st.pod p).moving then st.leavePod p else st.reload p) s

/-- The next pod in service from `pod` on. -/
def State.servicePod (s : State) (pod : Nat) : Option Nat :=
  (List.range s.variant.pods).find? (fun p => decide (pod ≤ p) && decide ((s.pod p).state ≠ .out))

/-- ACTIVATE of POD_RUNTIME goes on to the pod's successor, or completes (R443). -/
def State.activatePods (s : State) (pod : Nat) : State :=
  match s.servicePod pod with
  | some p =>
    let s1 := s.podReset p
    { s1 with sec := { s1.sec with activating := some (2, p) } }
  | none => (s.fwActivated 2).secEnd 0x0A St.ok

def execPodResetEnd (pod : Nat) (passed : Bool) (s : State) : Outcome :=
  .next (
    let s1 := if s.fwOk 2 then s.podChecked pod passed else s
    if s.sec.activating = some (2, pod) ∧ (s1.pod pod).state ≠ .resetting then s1.activatePods (pod + 1) else s1)

end Sys2Proof.Machine
end

