-- ==== Sys2Proof/Machine/Banks.lean ====
section
/-! DEFINITION. Decode banks and the memory path: table slots, pod and egress bank queues, damaged
husks and their recovery (R79, R88 to R91, R94 to R112). -/

namespace Sys2Proof.Machine

/-! ## Pod banks (R101, R102, R105) -/

/-- Discard a core's queued blocks (R150). -/
def State.dropCoreBlks (s : State) (c : Nat) : State :=
  (s.coreQueue c).foldl (fun st q => st.dropBlk (c / 4) q) s

/-- The block of core `c` that its bank may start next: the first not yet checked, none where an earlier
one stopped or no half of the operand buffer is free. -/
def State.nextOf (s : State) (c : Nat) : Option BankBlock :=
  let l := s.coreQueue c
  let checked := (l.filter (fun q => decide (q.phase = .checked))).length
  if 2 ≤ (s.core c).obuf.length + checked then none
  else match l.find? (fun q => decide (q.phase ≠ .checked)) with
    | some q => if q.phase = .queued then some q else none
    | none => none

/-- The block whose turn it is at a pod bank: round robin over its four cores (R102). -/
def State.turn (s : State) (b : Nat) : Option BankBlock :=
  (List.range 4).findSome? (fun i =>
    let c := 4 * b + ((s.bank b).lastCore + 1 + i) % 4
    s.nextOf c)

/-- A core that waits for streamed bytes tries again. -/
def Core.unblock (x : Core) : Core := if x.wait = .stream then { x with wait := .none } else x

/-- A block of a pod bank stops its stream (R105). -/
def State.stopBlk (s : State) (b : Nat) (q : BankBlock) (code : BitVec 8) : State :=
  let s1 := s.setBank b { s.bank b with queue := (s.bank b).queue.map (fun r =>
    if r = q then { r with phase := .stopped code.toNat } else r) }
  s1.setCore q.owner (s1.core q.owner).unblock

/-- A pod bank holds a checked husk in a husk buffer: it moves ahead of the blocks that hold none, behind those
checked before it (R95, R97). -/
def State.checkBlk (s : State) (b : Nat) (q : BankBlock) : State :=
  let x := s.bank b
  let l := x.queue.erase q
  let done := l.filter (fun r => decide (r.phase = .checked))
  let rest := l.filter (fun r => decide (r.phase ≠ .checked))
  let data := Store.read s.pods.mem q.addr (64 * mwTag q.word)
  s.setBank b { x with queue := done ++ [{ q with phase := .checked, data := data }] ++ rest, lastCore := q.owner % 4 }

/-- A pod bank delivers a block to its core's operand buffer (R99, R101). -/
def State.deliver (s : State) (b : Nat) (q : BankBlock) (bytes : Bytes) : State :=
  let s1 := s.dropBlk b q
  let x := s1.bank b
  let raw := decide (mwTag q.word = 0x3F)
  let s2 := s1.setBank b { x with husks := x.husks + (if raw then 0 else 1)
                                  raws := x.raws + (if raw then 1 else 0)
                                  lastCore := if raw then q.owner % 4 else x.lastCore }
  let y := s2.core q.owner
  State.feedStream 2 q.owner (s2.setCore q.owner { y.unblock with obuf := y.obuf ++ [bytes] })

/-- The block is its core's oldest at the bank. -/
def State.oldestOf (s : State) (q : BankBlock) : Bool := decide ((s.coreQueue q.owner).head? = some q)

/-- A pod bank writes the last byte of a block: of the oldest checked husk whose slot is ready and whose core has no
earlier block there, so that a miss delays no other block (R99, R107); else of a raw block whose turn it is. -/
def State.podDecoded (s : State) (b : Nat) : State :=
  match (s.bank b).queue.find? (fun q => decide (q.phase = .checked) && (s.bank b).ready q.word && s.oldestOf q) with
  | some q =>
    (match (s.bank b).decode q with
     | .bytes v => s.deliver b q v
     | _ => (s.stopBlk b q Fc.invalid).countInvalid)
  | none =>
    match s.turn b with
    | some q =>
      if mwTag q.word = 0x3F && s.oldestOf q then s.deliver b q (Store.read s.pods.mem q.addr 4096) else s
    | none => s

/-! ## Egress banks (R112) -/

/-- Source slot of block `i` of a descriptor. -/
def State.srcAt (s : State) (x : Desc) (i : Nat) : Option Slot :=
  (x.slot 24).map (fun sl => (s.resolve sl).plus (4096 * i))
def State.dstAt (s : State) (x : Desc) (i : Nat) : Option Slot :=
  (x.slot 40).map (fun sl => (s.resolve sl).plus (4096 * i))

/-- Queue a DECODE's next blocks while its bank has room for them. -/
def State.feedDecode : Nat → Nat → State → State
  | 0, _, s => s
  | n + 1, d, s =>
    match s.desc d with
    | none => s
    | some x =>
      if x.opcode ≠ 3 ∨ x.phase ≠ .working ∨ x.field 56 4 ≤ x.aux ∨
          16 ≤ (s.bank (egressOf d)).queue.length then s
      else match s.srcAt x x.aux with
        | none => s
        | some sl =>
          let s1 := s.queueBlk (egressOf d) { owner := d, addr := x.aux, word := s.slotWord sl }
          State.feedDecode n d (s1.setDesc d { x with aux := x.aux + 1 })

/-- Every DECODE under way queues what its bank has room for. -/
def State.feedDecodes (s : State) : State :=
  (s.chan.descs.filter (fun e => decide (e.2.opcode = 3) && decide (e.2.phase = .working))).foldl
    (fun st e => State.feedDecode 16 e.1 st) s

/-- Write plain bytes at any destination but PEER. -/
def State.putPlain (s : State) (x : Desc) (dst : Slot) (bytes : Bytes) : State × Prog :=
  match dst with
  | .host a _ => (s.hostWrite x a bytes, { done := bytes.length })
  | _ => s.writePlain dst bytes

/-- End a block-wise descriptor with its progress in blocks (R239). -/
def State.endBlocks (s : State) (d : Nat) (p : Prog) : State :=
  s.endDesc d p.status (BitVec.ofNat 64 p.done) p.d1

/-- Progress of a descriptor so far. -/
def Desc.prog (x : Desc) : Prog := { done := x.done, bad := x.bad, poisoned := x.poisoned, stop := x.stop }
def Desc.withProg (x : Desc) (p : Prog) : Desc :=
  { x with done := p.done, bad := p.bad, poisoned := p.poisoned, stop := p.stop }

/-- A DECODE's block is done with: the descriptor goes on, or ends. -/
def State.decodeNext (s : State) (d : Nat) (x : Desc) (p : Prog) : State :=
  if p.stop.isSome ∨ x.field 56 4 ≤ p.done then
    let s1 := (s.bank (egressOf d)).queue.foldl
      (fun (st : State) q => if q.owner = d then st.dropBlk (egressOf d) q else st) s
    (s1.endBlocks d p).feedDecodes
  else (s.setDesc d (x.withProg p)).feedDecodes

/-- A DECODE's block is delivered: written raw at its destination (R112). -/
def State.decodeBlk (s : State) (b : Nat) (q : BankBlock) : State :=
  match s.desc q.owner with
  | none => s.dropBlk b q
  | some x =>
    match s.srcAt x q.addr, s.dstAt x q.addr with
    | some src, some dst =>
      if mwPoison q.word then (s.dropBlk b q).decodeNext q.owner x { (x.prog.poison q.addr) with done := x.done + 1 }
      else s.withAccess srcMovers (.desc x.go) (src.accs 4096 false ++ dst.accs 4096 true) (fun s =>
        let r := s.bankRead b q (s.slotStored src)
        let s2 := (s.dropBlk b q).countBank b q (decide (r ≠ .invalid))
        match r with
        | .bytes v =>
          if s2.podDenied x src || s2.podDenied x dst then
            s2.decodeNext q.owner x (x.prog.halt q.addr St.accessDenied)
          else if dst.isHost && x.cut then s2.decodeNext q.owner x (x.prog.halt q.addr x.short)
          else
            let r := s2.putPlain x dst v
            r.1.decodeNext q.owner x { x.prog with done := x.done + 1 }
        | .poisoned => s2.decodeNext q.owner x { (x.prog.poison q.addr) with done := x.done + 1 }
        | .invalid => s2.countInvalid.decodeNext q.owner x (x.prog.halt q.addr St.huskInvalid))
    | _, _ => s

/-- An egress bank delivers its next block: to a DECODE's destination, or to the request that waits for it. -/
def State.egressDecoded (s : State) (b : Nat) : State :=
  match (s.bank b).next [] (s.bank b).queue with
  | none => s
  | some q => match q.reader with
    | some w => s.deliverTo b q w
    | none => s.decodeBlk b q

/-- The slot that holds a block queued at an egress bank. -/
def State.bankSource (s : State) (q : BankBlock) : Option Slot :=
  match q.reader with
  | some _ => some (keySlot q.addr)
  | none => (s.desc q.owner).bind (fun x => s.srcAt x q.addr)

/-- An egress bank reads a husk's word and sectors into a husk buffer: a block that has been poisoned, or that is no
husk any longer, is taken as it is now (R58, R90). -/
def State.ingestBlk (s : State) (b : Nat) (q : BankBlock) : State :=
  match s.bankSource q with
  | none => s
  | some sl =>
    let w := s.slotWord sl
    if mwPoison w ∨ mwTag w = 0x3F then s.markBlk b q { q with word := w }
    else
      let s1 := if mwId w = mwId q.word then s else s.setBank b ((s.bank b).lookup (bankSlots b) (mwId w))
      s1.markBlk b q { q with word := w, phase := .checked, data := s.slotStored sl }

/-! ## Damaged husks (R88 to R91) -/

/-- A block is being recovered: stage `g`. -/
def State.recover (s : State) (k : Nat) (g : CrcStage) : State :=
  { s with comp := { s.comp with
      recovering := (s.comp.recovering.filter (fun r => decide (r.1 ≠ k))) ++ [(k, g)] } }

def State.recoverStage (s : State) (k : Nat) : Option CrcStage :=
  (s.comp.recovering.find? (fun r => decide (r.1 = k))).map (·.2)

def State.recovered (s : State) (k : Nat) : State :=
  { s with comp := { s.comp with recovering := s.comp.recovering.filter (fun r => decide (r.1 ≠ k)) } }

/-- A husk or a sector of a block fails at the memory path: it is read again (R88, R89, R396). -/
def State.crcFailed (s : State) (h : Word) (blk : Nat) : State :=
  match s.extent h with
  | none => s
  | some e =>
    let k := extBlkKey h blk
    if e.blocks ≤ blk ∨ mwPoison (s.blkMeta h blk) ∨ (s.recoverStage k).isSome then s
    else
      let s1 := (s.recover k .reread).jrnDelayed h blk 0
      { s1 with comp := { s1.comp with crcFail := s1.comp.crcFail + 1 } }

def execMempathCrcFailure (h : Word) (blk : Nat) (s : State) : Outcome := .next (s.crcFailed h blk)

def execRereadResult (h : Word) (blk : Nat) (passed : Bool) (s : State) : Outcome :=
  .next (
    let k := extBlkKey h blk
    if s.recoverStage k ≠ some .reread then s
    else if passed then
      let s1 := s.recovered k
      { s1 with comp := { s1.comp with rereadOk := s1.comp.rereadOk + 1 } }
    else (s.recover k .rebuild).jrnDelayed h blk 1)

/-- Poison a block: its POISON bit is set, its id and reference stay, its owner's event is raised.
(DESIGN CHOICE, assumption 112.) -/
def State.poisonBlk (s : State) (h : Word) (blk : Nat) : State :=
  let w := s.blkMeta h blk ||| 0x80
  let s1 := { s with ten := { s.ten with metas := Table.put rawMeta s.ten.metas (extBlkKey h blk) w } }
  let owner := match s.extent h with | some e => (e.owner.getD 0).toNat | none => 0
  let s2 := s1.raise 0x0300 Sev.error Uk.mempath 0 owner h.toNat blk
  { s2 with comp := { s2.comp with poisonCnt := s2.comp.poisonCnt + 1 } }

/-- The block rebuilt from parity is written back: the slot and the metadata word that the other slots of its stripe
give (State.rebuiltSlot, State.rebuiltWord), which are its own (rebuiltSlot_eq, rebuiltWord_eq), so no byte of it
changes (R59, R89, R404).
(DESIGN CHOICE, assumption 112.) -/
def execParityRebuildResult (h : Word) (blk : Nat) (passed : Bool) (s : State) : Outcome :=
  .next (
    let k := extBlkKey h blk
    if s.recoverStage k ≠ some .rebuild ∧ s.recoverStage k ≠ some .scrub then s
    else if passed then
      let s1 := if s.recoverStage k = some .rebuild then (s.recovered k).hardFaultAt h blk else s.recovered k
      { s1 with comp := { s1.comp with rebuildOk := s1.comp.rebuildOk + 1 } }
    else (s.recovered k).poisonBlk h blk)

/-- An egress bank's CRC failure: the husk is fetched again, from a stack by R89, from a pod store once
more, after which the block counts as poisoned (R91). No block of an egress bank comes from a fabric port: a READ of
plain bytes is expanded at the peer (R339, R342). -/
def State.egressRefetch (s : State) (b : Nat) (q : BankBlock) : State :=
  match s.bankSource q with
  | some (.ext h o) => s.recover (extBlkKey h (o / 4096)) .reread
  | some (.pod _ _) =>
    if q.retried then s.markBlk b q { q with word := q.word ||| 0x80 } else s.markBlk b q { q with retried := true }
  | _ => s

/-! ## The events of a bank -/

/-- The bank is resetting: an egress bank by itself, a pod bank with its pod (R414, R415). -/
def State.bankDown (s : State) : BankRef → Bool
  | .egress n => s.unitDown .egress n
  | .pod b => decide ((Table.get {} s.pods.pods (b / 2)).state = .resetting)

def execSlotFillEnd (bank : BankRef) (id : BitVec 16) (s : State) : Outcome :=
  .next (if s.bankDown bank then s else
    let x := s.bank (bankKey bank)
    let fill := fun (t : BankSlot) => match s.table id with
      | some e => t.fill e.list
      | none => { t with filling := false }
    s.setBank (bankKey bank) { x with slots := x.slots.map (fun t => if t.id = id then fill t else t) })

/-- A husk's sectors are in a husk buffer and its CRC result is ready (R95). A failure at a pod bank resets the
pod (R91). -/
def execBankIngestEnd (bank : BankRef) (crcOk : Bool) (s : State) : Outcome :=
  .next (if s.bankDown bank then s else
    match bank with
    | .pod b =>
      if 2 ≤ ((s.bank b).queue.filter (fun q => decide (q.phase = .checked))).length then s
      else match s.turn b with
        | none => s
        | some q =>
          if mwTag q.word = 0x3F then s
          else if crcOk then s.checkBlk b q
          else s.podReset (b / 2)
    | .egress n =>
      match (s.bank (1000 + n)).ingests with
      | none => s
      | some q => if crcOk then s.ingestBlk (1000 + n) q else s.egressRefetch (1000 + n) q)

def execBlockDecoded (bank : BankRef) (s : State) : Outcome :=
  .next (if s.bankDown bank then s else match bank with
    | .pod b => s.podDecoded b
    | .egress n => s.egressDecoded (1000 + n))

end Sys2Proof.Machine
end

