-- ==== Sys2Proof/Machine/Regions.lean ====
section
/-! DEFINITION. Shared regions: version slots, PUBLISH and FETCH_VERSION on this module (R306 to R308). -/

namespace Sys2Proof.Machine

/-- Blocks of a version slot, and the first block of slot `k` (R306). -/
def Extent.slotBlocks (e : Extent) : Nat := if e.vslots = 0 then 0 else e.blocks / e.vslots
def Extent.slotBase (e : Extent) (k : Nat) : Nat := k * e.slotBlocks

/-- The version after `v`; 0 is skipped. -/
def nextVersion (v : Word) : Word := if v + 1 = 0 then 1 else v + 1

/-- Slot `k` of a region. -/
def Extent.vslot (e : Extent) (k : Nat) : VSlot := e.slots.getD k {}
def Extent.setVslot (e : Extent) (k : Nat) (v : VSlot) : Extent := { e with slots := e.slots.set k v }

/-- The slot that holds a version; version 0 is none. -/
def Extent.holder (e : Extent) (v : Word) : Option Nat :=
  if v = 0 then none
  else (List.range e.slots.length).find? (fun k =>
    decide ((e.vslot k).state = .held) && decide ((e.vslot k).version = v))

/-- A PUBLISH may take the slot: not CURRENT, not WRITING, no readers (R307). -/
def Extent.takeable (e : Extent) (k : Nat) : Bool :=
  let v := e.vslot k
  decide (v.state ≠ .writing) && decide (v.readers = 0) &&
    !(decide (v.state = .held) && decide (v.version = e.current))

/-- Age of a version: how many versions ago it was current. -/
def Extent.age (e : Extent) (k : Nat) : Nat := (e.current - (e.vslot k).version).toNat

/-- The slot taken: never-used ones first in ascending order, then the one of the oldest version; none while VSLOTS − 1
PUBLISHes are writing (R306). -/
def Extent.pick (e : Extent) : Option Nat :=
  let l := (List.range e.slots.length).filter e.takeable
  if e.vslots ≤ (e.slots.filter (fun v => decide (v.state = .writing))).length + 1 then none
  else match l.find? (fun k => !(e.vslot k).used) with
  | some k => some k
  | none => l.foldl (fun (a : Option Nat) k => match a with
      | none => some k
      | some j => if e.age j < e.age k then some k else some j) none

/-- The version that FETCH_VERSION delivers and its slot: the one asked for if it is held, else the current one (R308). -/
def Extent.chooseVersion (e : Extent) (v : Word) : Option (Nat × Word) :=
  match e.holder v with
  | some k => some (k, v)
  | none => (e.holder e.current).map (fun k => (k, e.current))

/-- A reader is counted on a slot, or dropped. -/
def State.addReader (s : State) (h : Word) (k : Nat) : State :=
  match s.extent h with
  | some e => s.setExtent h (e.setVslot k { e.vslot k with readers := (e.vslot k).readers + 1 })
  | none => s
def State.dropReader (s : State) (h : Word) (k : Nat) : State :=
  match s.extent h with
  | some e => s.setExtent h (e.setVslot k { e.vslot k with readers := (e.vslot k).readers - 1 })
  | none => s

/-- A slot that was being written becomes FREE. -/
def State.freeVslot (s : State) (h : Word) (k : Nat) : State :=
  match s.extent h with
  | some e => s.setExtent h (e.setVslot k { e.vslot k with state := .free, version := 0, blocks := 0, writer := none })
  | none => s

/-- A slot becomes WRITING for a publisher. -/
def State.takeVslot (s : State) (h : Word) (k : Nat) (w : Option (Nat × Word)) : State :=
  match s.extent h with
  | some e => s.setExtent h (e.setVslot k { e.vslot k with state := .writing, version := 0, blocks := 0, used := true, writer := w })
  | none => s

/-- Commit slot `k` made against `base` (R307): the new version and true, or the current one and false,
with the event and count of a conflict. -/
def State.commit (s : State) (h : Word) (k blocks : Nat) (base : Word) : State × Word × Bool :=
  match s.extent h with
  | none => (s, 0, false)
  | some e =>
    if e.current = base then
      let v := nextVersion e.current
      let e1 := e.setVslot k { e.vslot k with state := .held, version := v, blocks := blocks, writer := none }
      (s.setExtent h { e1 with current := v }, v, true)
    else
      let s1 := (s.freeVslot h k).raise 0x0203 Sev.notice Uk.module 0 h.toNat base.toNat e.current.toNat
      ({ s1 with ten := { s1.ten with vconflicts := s1.ten.vconflicts + 1 } }, e.current, false)

/-- A VERSION_CONFLICT met at acceptance or at a peer's BEGIN is counted at the region's module (R313).
(DESIGN CHOICE, assumption 136.) -/
def State.countConflict (s : State) (st : Status) : State :=
  if st = St.versionConflict then { s with ten := { s.ten with vconflicts := s.ten.vconflicts + 1 } } else s

/-- Statuses of a PUBLISH at its acceptance after reach (R307): OUT_OF_BOUNDS, VERSION_CONFLICT. -/
def publishStatus (e : Extent) (base : Word) (blocks : Nat) : Option Status :=
  if e.slotBlocks < blocks then some St.outOfBounds
  else if base ≠ e.current then some St.versionConflict
  else none

/-! ## PUBLISH and FETCH_VERSION of regions on this module -/

/-- The region slot of a descriptor at `lo`, resolved: its handle where it lies on this module. -/
def State.regionAt (s : State) (x : Desc) (lo : Nat) : Option Word :=
  match (x.slot lo).map s.resolve with | some (.ext h _) => some h | _ => none

/-- Copy block `i` of a PUBLISH into its slot: HOST bytes raw; the owner's blocks in stored form; any other
party's expanded (R307). -/
def State.publishBlk (_s : State) (x : Desc) (own : Bool) (h : Word) (base : Nat) (host : HostData)
    (src : Slot) (a : State × Prog) (i : Nat) : State × Prog :=
  if a.2.stop.isSome then a
  else match src with
    | .host _ _ =>
      if host.bytes.length < 4096 * (i + 1) then (a.1, a.2.halt i x.short)
      else (a.1.storeBlk h (base + i) rawMeta (sliceBytes host.bytes (4096 * i) 4096), { a.2 with done := a.2.done + 1 })
    | _ =>
      let sl := src.plus (4096 * i)
      let w := a.1.slotWord sl
      if mwPoison w then (a.1, a.2.halt i St.poisoned)
      else if own then (a.1.storeBlk h (base + i) w (a.1.slotStored sl), { a.2 with done := a.2.done + 1 })
      else match a.1.slotPlain sl with
        | .bytes b => (a.1.storeBlk h (base + i) rawMeta b, { a.2 with done := a.2.done + 1 })
        | .poisoned => (a.1, a.2.halt i St.poisoned)
        | .invalid => (a.1, a.2.halt i St.huskInvalid)

/-- A new request of a region is held while a wipe waits or runs: one accepted, or that arrived, at its command's count
or later (R302). -/
def State.wipeHolds (s : State) (e : Extent) (at_ : Nat) : Bool :=
  e.wipeHold && (match e.wipeDesc.bind s.desc with | some y => decide (y.accept ≤ at_) | none => true)

/-- The source slot, extents and blocks of a PUBLISH on this module, and its writing. -/
def State.publishHere (s : State) (d : Nat) (x : Desc) (h : Word) (host : HostData) : State :=
  match s.extent h, (x.slot 24).map s.resolve with
  | some e, some src =>
    if s.wipeHolds e x.accept then s
    else match e.pick with
      | none => s
      | some k =>
        let n := x.field 60 4
        let own := decide (e.owner = x.party)
        let accs := src.accs (4096 * n) false ++ accsOf h (4096 * e.slotBase k) (4096 * n) true
        s.withBlocks srcMovers (.desc x.go) accs (if own then [] else src.blocks (4096 * n)) (fun s =>
          let s1 := s.takeVslot h k none
          let r := (List.range n).foldl (s1.publishBlk x own h (e.slotBase k) host src) (s1, {})
          match r.2.stop with
          | some st =>
            let d1 := if st = St.translationFault then host.refused.getD 0 else r.2.d1
            (r.1.freeVslot h k).endDesc d st (BitVec.ofNat 64 r.2.done) d1
          | none => r.1.modDesc d (fun y => { y with phase := .working, aux := k + 1, done := n }))
  | _, _ => s

/-- A publish has landed: it commits at the end of the count (R307). -/
def State.land (s : State) (h : Word) (l : Landed) : State :=
  match s.extent h with
  | some e => if e.landed.contains l then s else s.setExtent h { e with landed := e.landed ++ [l] }
  | none => s

/-- PUBLISH_COMMIT on a region of this module: OK with the new version, or VERSION_CONFLICT (R307).
(DEDUCED, assumption 56.) -/
def State.commitHere (s : State) (d : Nat) (x : Desc) (h : Word) : State :=
  let r := s.commit h (x.aux - 1) (x.field 60 4) (BitVec.ofNat 32 (x.field 56 4))
  let v : DWord := BitVec.ofNat 64 (r.2.1.toNat * 2 ^ 32)
  if r.2.2 then r.1.endDesc d St.ok (BitVec.ofNat 64 x.done) v else r.1.endDesc d St.versionConflict 0 v

/-- The form in which a block of a version reaches its destination (R308). -/
def State.fetchBlk (_s : State) (x : Desc) (own : Bool) (h : Word) (base : Nat) (dst : Slot)
    (a : State × Prog) (i : Nat) : State × Prog :=
  let sl := Slot.ext h (4096 * (base + i))
  let dest := dst.plus (4096 * i)
  let w := a.1.slotWord sl
  if a.2.stop.isSome then a
  else if mwPoison w then (a.1, { (a.2.poison i) with done := a.2.done + 1 })
  else if own && (dst.isExt || dst.isPod) then
    (a.1.slotStore dest w (a.1.slotForm sl), { a.2 with done := a.2.done + 1 })
  else match a.1.slotPlain sl with
    | .bytes b =>
      match dest with
      | .host ad _ =>
        if x.cut then (a.1, a.2.halt i x.short)
        else (a.1.hostWrite x ad b, { a.2 with done := a.2.done + 1 })
      | _ =>
        (match a.1.slotWrite dest b with
         | .ok s' => (s', { a.2 with done := a.2.done + 1 })
         | .poisoned => (a.1, { (a.2.poison i) with done := a.2.done + 1 })
         | .invalid => (a.1, a.2.halt i St.huskInvalid))
    | .poisoned => (a.1, { (a.2.poison i) with done := a.2.done + 1 })
    | .invalid => (a.1, a.2.halt i St.huskInvalid)

/-- FETCH_VERSION from a region of this module: `aux` is its slot + 1, `aux2` the version. -/
def State.fetchHere (s : State) (d : Nat) (x : Desc) (h : Word) : State :=
  match s.extent h, (x.slot 40).map s.resolve with
  | some e, some dst =>
    if s.wipeHolds e x.accept then s
    else if x.aux = 0 then s.endDesc d St.ok 0 0
    else if s.podDenied x dst then s.endDesc d St.accessDenied 0 x.noFail
    else
      let k := x.aux - 1
      let n := min (x.field 60 4) (e.vslot k).blocks
      let accs := accsOf h (4096 * e.slotBase k) (4096 * n) false ++ dst.accs (4096 * n) true
      let own := decide (e.owner = x.party)
      let plain := if own && (dst.isExt || dst.isPod) then [] else
        (Slot.ext h (4096 * e.slotBase k)).blocks (4096 * n) ++ dst.partials (4096 * n)
      s.withBlocks srcMovers (.desc x.go) accs plain (fun s =>
        let r := (List.range n).foldl (s.fetchBlk x own h (e.slotBase k) dst) (s, {})
        let st := r.2.status
        r.1.endDesc d st (BitVec.ofNat 64 r.2.done)
          (if st = St.ok then BitVec.ofNat 64 (x.aux2 * 2 ^ 32) else r.2.d1))
  | _, _ => s

end Sys2Proof.Machine
end

