-- ==== Sys2Proof/Machine/Collective.lean ====
section
/-! DEFINITION. REDUCE at its acceptance: the group, the checks, RED_READY (R343 to R345). -/

namespace Sys2Proof.Machine

def State.group (s : State) (g : Nat) : Group := Table.get {} s.fab.groups g
def State.setGroup (s : State) (g : Nat) (x : Group) : State :=
  { s with fab := { s.fab with groups := Table.put {} s.fab.groups g x } }

/-- DID at a rank; 0xFFF where none was written (R351). -/
def Group.did (g : Group) (r : Nat) : BitVec 12 := Table.get 0xFFF g.dids r

/-- Successor and predecessor of a rank. -/
def Group.next (g : Group) : Nat := (g.rank.toNat + 1) % g.members.toNat
def Group.prev (g : Group) : Nat := (g.rank.toNat + g.members.toNat - 1) % g.members.toNat

/-- Fields of a REDUCE (R232). -/
def Desc.redSrc (x : Desc) : Word × Nat := (BitVec.ofNat 32 (x.field 24 4), x.field 28 4)
def Desc.redDst (x : Desc) : Word × Nat := (BitVec.ofNat 32 (x.field 32 4), x.field 36 4)
def Desc.redBlocks (x : Desc) : Nat := x.field 40 4
def Desc.redTable (x : Desc) : BitVec 16 := BitVec.ofNat 16 (x.field 44 2)
def Desc.redHctx (x : Desc) : BitVec 8 := BitVec.ofNat 8 (x.field 46 1)
def Desc.redPods (x : Desc) : Nat := x.field 47 1
def Desc.redGroup (x : Desc) : Nat := x.field 48 2
def Desc.redElem (x : Desc) : Nat := x.field 50 1

/-- The first of R344's statuses that applies at acceptance. -/
def State.reduceStatus (s : State) (x : Desc) (p : BitVec 8) : Option Status :=
  let g := s.group x.redGroup
  let b := x.redBlocks
  let r1 := s.reach (s.gpid p) x.redSrc.1 (4096 * x.redSrc.2) (4096 * b) .data false s.now
  let r2 := s.reach (s.gpid p) x.redDst.1 (4096 * x.redDst.2) (8192 * b) .data true s.now
  let some1 := fun (st : Status) => decide (r1 = some st ∨ r2 = some st)
  let t := s.table x.redTable
  if some1 St.revoked then some St.revoked
  else if decide (1024 ≤ x.redGroup) || !g.valid || decide (g.party ≠ p) ||
      decide (s.fab.did ≠ some (g.did g.rank.toNat)) || some1 St.accessDenied ||
      (match t with | some e => decide (e.owner ≠ p) | none => false) || !(s.hctxOk x.redHctx.toNat p)
  then some St.accessDenied
  else if some1 St.outOfBounds then some St.outOfBounds
  else if some1 St.readOnly then some St.readOnly
  else if !(match t with | some e => e.loadRef | none => false) then some St.tableUnloaded
  else if x.redPods = 0 then some St.malformedProgram
  else none

/-- CRC-32C of the list an id holds. -/
def State.tableCrc (s : State) (id : BitVec 16) : Nat :=
  match s.table id with | some e => crc32c e.list | none => 0

/-- The RED_READY body of a REDUCE (R338). -/
def State.readyBody (s : State) (x : Desc) : Bytes :=
  leBytes 1 x.subop ++ leBytes 1 x.redElem ++ leBytes 2 x.redTable.toNat ++ leBytes 4 (s.tableCrc x.redTable) ++
    leBytes 4 x.redBlocks ++ leBytes 4 x.redDst.1.toNat ++ leBytes 4 x.redDst.2 ++ leBytes 4 0

/-- ARG of a collective packet: group and k. -/
def redArg (g k : Nat) : Nat := g + 65536 * (k % 2 ^ 32)

/-- An accepted REDUCE: its k, its names, its entry, and RED_READY to the predecessor (R345). -/
def State.reduceAccept (s : State) (d : Nat) (x : Desc) (p : BitVec 8) : State :=
  let g := s.group x.redGroup
  let k := g.k
  let kept := g.ready.find? (fun r => decide (r.1 = k))
  let s1 := s.setGroup x.redGroup { g with k := k + 1, ready := g.ready.filter (fun r => decide (r.1 ≠ k)) }
  let s2 := (s1.claimHctx x.redHctx.toNat p).addQueued x.redTable
  let s3 := s2.modDesc d (fun y => { y with aux := k, named := [x.redTable] })
  let e : Reduce :=
    { desc := d, group := x.redGroup, k := k, heard := s.now, ready := kept.map (fun r => r.2.body) }
  let s3a := match kept with
    | some r => State.answer { s3 with fab := { s3.fab with
        serving := s3.fab.serving.filter (fun q => decide (q.pkt.src ≠ r.2.src ∨ q.pkt.txid ≠ r.2.txid)) } } r.2 { ptype := 0 } []
    | none => s3
  let s4 := { s3a with fab := { s3a.fab with reduces := s3a.fab.reduces ++ [e] } }
  if s.evt.replay then s4
  else s4.descReq d x 0 0 { ptype := pRedReady, arg := redArg x.redGroup k } (g.did g.prev).toNat (s4.readyBody x)

end Sys2Proof.Machine
end

