-- ==== Sys2Proof/Machine/Accept.lean ====
section
/-! DEFINITION. The checks of a descriptor at its acceptance (R226 to R232, R241, R242). -/

namespace Sys2Proof.Machine

/-! ## Decoding (R226, R228, R231, R232) -/

/-- LAUNCH: MODE and its fields (R228). -/
def Desc.launchBits (x : Desc) : Nat := x.field 8 8
def Desc.mode (x : Desc) : Nat := x.launchBits / 2 ^ 62
def Desc.launchN (x : Desc) : Nat := x.launchBits % 2 ^ 62
def Desc.launchGate (x : Desc) : BitVec 8 := BitVec.ofNat 8 (x.launchBits / 2 ^ 32)
def Desc.launchDelta (x : Desc) : Nat := x.launchBits % 2 ^ 32
/-- DONE_GATE. -/
def Desc.doneGate (x : Desc) : Option (BitVec 8) := gateField (x.field 6 2)
def Desc.irq (x : Desc) : Bool := bitOf (x.field 3 1) 0

/-- SUBOP values of an opcode (R231): how many there are, 0 for an undefined opcode. -/
def subops (op : Nat) : Nat :=
  match op with
  | 0x01 => 2 | 0x02 => 2 | 0x03 => 1
  | 0x10 => 1 | 0x11 => 1 | 0x12 => 1 | 0x13 => 1
  | 0x14 => 3 | 0x18 => 1 | 0x19 => 1 | 0x20 => 1 | 0x21 => 2
  | 0x28 => 3 | 0x30 => 1 | 0x31 => 1 | 0x32 => 2 | 0x33 => 2 | 0x38 => 1
  | 0x40 => 1 | 0x41 => 1 | 0x42 => 1 | 0x43 => 1 | 0x44 => 1 | 0x45 => 1
  | _ => 0

/-- Bytes 24 to 63 that the opcode's fields list, as (first, length) (R232). -/
def usedBytes (op sub : Nat) : List (Nat × Nat) :=
  match op with
  | 0x01 => [(24, 40)]
  | 0x02 => [(24, 40)]
  | 0x03 => [(24, 36)]
  | 0x10 => [(24, 16), (56, 8)]
  | 0x11 => [(24, 16), (56, 8)]
  | 0x12 => [(24, 16), (56, 8)]
  | 0x13 => [(24, 16), (56, 8)]
  | 0x14 => if sub = 0 then [(24, 1), (40, 20)] else if sub = 1 then [(24, 1), (28, 4)] else [(24, 1)]
  | 0x18 => [(24, 40)]
  | 0x19 => [(24, 40)]
  | 0x20 => [(24, 35)]
  | 0x21 => [(24, 27)]
  | 0x28 => if sub = 0 then [(24, 2), (40, 16)] else if sub = 1 then [(24, 3)] else [(24, 2)]
  | 0x31 => [(24, 1), (28, 4)]
  | 0x32 => [(24, 1), (26, 6)]
  | 0x33 => [(24, 1)]
  | 0x38 => [(40, 16)]
  | 0x30 => []
  | _ => [(40, 20)]

/-- Every byte that the opcode does not list is 0. -/
def Desc.restZero (x : Desc) : Bool :=
  (List.range 40).all (fun i =>
    (usedBytes x.opcode x.subop).any (fun r => decide (r.1 ≤ 24 + i) && decide (24 + i < r.1 + r.2)) ||
      decide (x.field (24 + i) 1 = 0))

/-- The slot at `lo` is well formed and of an allowed form. -/
def Desc.form (x : Desc) (lo : Nat) (host ext peer pod : Bool) : Bool :=
  match x.slot lo with
  | some (.host _ _) => host
  | some (.ext _ _) => ext
  | some (.peer _ _ _) => peer
  | some (.pod _ _) => pod
  | none => false

/-- A slot's address or offset is a multiple of 4,096.
(DEDUCED, assumption 61.) -/
def Desc.aligned (x : Desc) (lo : Nat) : Bool :=
  match x.slot lo with | some sl => decide (sl.off % 4096 = 0) | none => false

/-- A slot's offset is 0. -/
def Desc.atZero (x : Desc) (lo : Nat) : Bool :=
  match x.slot lo with | some sl => decide (sl.off = 0) | none => false

/-- Both slots are HOST, or both PEER. -/
def Desc.sameOutside (x : Desc) : Bool :=
  match x.slot 24, x.slot 40 with
  | some a, some b => (a.isHost && b.isHost) || (a.isPeer && b.isPeer)
  | _, _ => false

/-- The opcode's own fields are well formed (R232, R233).
(DEDUCED, assumption 61.) -/
def Desc.bodyOk (x : Desc) : Bool :=
  match x.opcode with
  | 0x01 =>
    x.form 24 true true true true && x.form 40 true true true true && !x.sameOutside &&
      decide (x.field 56 8 ≠ 0) &&
      (decide (x.subop = 1) || (decide (x.field 56 8 % 4096 = 0) && x.aligned 24 && x.aligned 40))
  | 0x02 =>
    x.form 24 true true false true && x.form 40 false true false true && decide (x.field 56 4 ≠ 0) &&
      x.aligned 24 && x.aligned 40 && decide (x.field 62 1 < 16) && (elemShape (x.field 62 1)).isSome
  | 0x03 =>
    x.form 24 false true true true && x.form 40 true true false true && decide (x.field 56 4 ≠ 0) &&
      x.aligned 24 && x.aligned 40
  | 0x10 => x.form 24 false true false false && decide (x.field 56 8 ≠ 0)
  | 0x11 => x.form 24 false true false false && decide (x.field 56 8 ≠ 0)
  | 0x12 => x.form 24 false true false false && decide (x.field 56 8 ≠ 0)
  | 0x13 => x.form 24 false true false false && decide (x.field 56 8 ≠ 0)
  | 0x14 => decide (x.field 24 1 < 64) && (decide (x.subop ≠ 0) || x.form 40 true true false false)
  | 0x18 =>
    x.form 24 true true false false && x.form 40 false true true false && x.atZero 40 && decide (x.field 60 4 ≠ 0)
  | 0x19 =>
    x.form 24 false true true false && x.atZero 24 && x.form 40 true true false true && decide (x.field 60 4 ≠ 0)
  | 0x20 => x.form 32 true true false false && decide (x.field 58 1 < 128)
  | 0x21 =>
    decide (x.redBlocks ≠ 0) && decide (x.redPods < 128) && decide (x.redElem = 4 ∨ x.redElem = 6)
  | 0x28 => decide (x.subop ≠ 0) || x.form 40 true true false false
  | 0x30 => true
  | 0x31 => true
  | 0x32 => decide (bitsOf (x.field 26 2) 14 12 = 0)
  | 0x33 => decide (x.field 24 1 < 8)
  | 0x38 => x.form 40 true true false false
  | _ => x.form 40 true false false false

/-- LAUNCH's reserved bits are 0 and MODE is not 3 (R228). -/
def Desc.launchOk (x : Desc) : Bool :=
  match x.mode with
  | 0 => decide (x.launchBits = 0)
  | 1 => true
  | 2 => decide (bitsOf x.launchBits 61 40 = 0)
  | _ => false

/-- R242, step 1. -/
def Desc.wellFormed (x : Desc) : Bool :=
  decide (x.subop < subops x.opcode) && decide (x.field 2 1 < 64) && decide (x.field 3 1 < 2) &&
    gateFieldOk (x.field 6 2) && decide (x.field 20 4 = 0) && x.launchOk && x.restZero && x.bodyOk

/-! ## Statuses of acceptance (R241) -/

/-- The part number lacks what the descriptor needs (R4, R189, R344). -/
def State.unsupported (s : State) (x : Desc) : Bool :=
  (!s.variant.deep && decide (x.opcode = 0x10 ∨ x.opcode = 0x11 ∨ x.opcode = 0x14)) ||
    (decide (x.opcode = 0x20) && decide (s.variant.pods < x.field 58 1)) ||
    (decide (x.opcode = 0x21) && decide (s.variant.pods < x.redPods))

/-- The party holds the gate. -/
def State.partyHolds (s : State) (p : Option (BitVec 8)) (g : BitVec 8) : Bool :=
  match (s.gate g).owner, p with | some o, some q => decide (o = q) | _, _ => false

/-- R241, step 3: an unbound channel, or a gate of the header that the party does not hold. -/
def State.headDenied (s : State) (x : Desc) : Bool :=
  (decide (x.party = none) && decide (x.opcode ≠ 0x38) && decide (x.opcode < 0x40)) ||
    (match x.doneGate with | some g => !(s.partyHolds x.party g) | none => false) ||
    (decide (x.mode = 2) && !(s.partyHolds x.party x.launchGate))

/-- Reach of the slot at `lo` for a run of bytes (R230, R241 step 4); PEER slots are checked at the
target. -/
def State.slotReach (s : State) (x : Desc) (lo len : Nat) (u : Use) (wr : Bool) : Option Status :=
  match (x.slot lo).map s.resolve with
  | some (.ext h off) => s.reach (x.party.bind s.gpid) h off len u wr s.now
  | some (.pod _ off) => if 4194304 < off + len then some St.outOfBounds else none
  | _ => none

/-- The first of two statuses. -/
def firstOf (a b : Option Status) : Option Status := match a with | some x => some x | none => b

/-- R82 and R86 for an ENCODE. -/
def State.encodeStatus (s : State) (x : Desc) (p : BitVec 8) : Option Status :=
  match s.table (BitVec.ofNat 16 (x.field 60 2)) with
  | none => some St.tableUnloaded
  | some t =>
    if t.owner ≠ p then some St.accessDenied
    else if !t.loadRef then some St.tableUnloaded
    else if x.subop = 1 ∧ !(s.hctxOk (x.field 63 1) p) then some St.accessDenied
    else none

/-- A REMOTE GATE_OPEN names another module (R232, R268).
(DEDUCED, assumption 63.) -/
def State.remoteGate (s : State) (x : Desc) : Option Nat :=
  let r := x.field 26 2
  if bitOf r 15 ∧ s.fab.did ≠ some (BitVec.ofNat 12 r) then some (r % 4096) else none

/-- The descriptor's Z7 window is enabled and its party's (R373). -/
def State.zwinHeld (s : State) (x : Desc) : Bool :=
  let w := Table.get {} s.host.wins (x.field 24 1)
  w.en && decide (x.party = some w.party)

/-- Statuses of R241 step 4 that the descriptor and the module's state decide. -/
def State.step4 (s : State) (x : Desc) (p : BitVec 8) : Option Status :=
  let blocks := x.field 56 4
  match x.opcode with
  | 0x01 => firstOf (s.slotReach x 24 (x.field 56 8) .data false) (s.slotReach x 40 (x.field 56 8) .data true)
  | 0x02 =>
    firstOf (firstOf (s.slotReach x 24 (4096 * blocks) .data false) (s.slotReach x 40 (4096 * blocks) .data true))
      (s.encodeStatus x p)
  | 0x03 => firstOf (s.slotReach x 24 (4096 * blocks) .data false) (s.slotReach x 40 (4096 * blocks) .data true)
  | 0x14 =>
    if x.subop = 0 then s.slotReach x 40 blocks .data false
    else (match s.window (x.field 24 1) with
      | some w => if w.party = p then none else some St.accessDenied
      | none => some St.accessDenied)
  | 0x18 =>
    firstOf (firstOf (s.slotReach x 24 (4096 * x.field 60 4) .data false) (s.slotReach x 40 0 .publish true))
      (match s.regionAt x 40 with
       | some h => (s.extent h).bind (fun e => publishStatus e (BitVec.ofNat 32 (x.field 56 4)) (x.field 60 4))
       | none => none)
  | 0x19 =>
    firstOf (firstOf (s.slotReach x 24 0 .fetch false) (s.slotReach x 40 (4096 * x.field 60 4) .data true))
      (match s.regionAt x 24 with
       | some h => (s.extent h).bind (fun e => if e.slotBlocks < x.field 60 4 then some St.outOfBounds else none)
       | none => none)
  | 0x20 =>
    let reach := fun (h : Word) (off len : Nat) (wr : Bool) => s.reach (s.gpid p) h off len .data wr s.now
    firstOf (firstOf (reach (BitVec.ofNat 32 (x.field 24 4)) (4096 * x.field 28 4) 4096 false)
        (s.slotReach x 32 (x.field 56 2) .data false))
      (match x.ctx with | some (h, pg) => reach h (4096 * pg) 1 true | none => none)
  | 0x21 => s.reduceStatus x p
  | 0x28 =>
    let id := x.field 24 2
    firstOf (if x.subop = 0 then s.slotReach x 40 128 .data false else none)
      (if id = 0 ∨ id = 0xFFFF then some St.malformedTable
       else if x.subop = 2 then
         (match s.table (BitVec.ofNat 16 id) with
          | some t => if t.owner = p then none else some St.accessDenied
          | none => none)
       else none)
  | 0x31 => if s.partyHolds (some p) (BitVec.ofNat 8 (x.field 24 1)) then none else some St.accessDenied
  | 0x32 =>
    (match s.remoteGate x with
     | some _ => none
     | none => if s.partyHolds (some p) (BitVec.ofNat 8 (x.field 24 1)) then none else some St.accessDenied)
  | 0x33 => if s.zwinHeld x then none else some St.accessDenied
  | _ =>
    if 0x10 ≤ x.opcode ∧ x.opcode ≤ 0x13 then
      (match (x.slot 24) with
       | some (.ext h off) =>
         firstOf (s.reach (s.gpid p) h off (x.field 56 8) .place false s.now)
           (s.placeStatus x.opcode h (rangeTracts off (x.field 56 8)) p)
       | _ => none)
    else none

/-- The statuses of acceptance in R241's order. -/
def State.acceptStatus (s : State) (x : Desc) : Option Status :=
  if !x.wellFormed then some St.malformed
  else if s.unsupported x then some St.unsupported
  else if s.headDenied x then some St.accessDenied
  else match x.party with
    | some p => if x.opcode = 0x38 then s.slotReach x 40 64 .data true else s.step4 x p
    | none => if x.opcode = 0x38 then s.slotReach x 40 64 .data true else none

/-- MALFORMED, or ACCESS_DENIED at step 3: the descriptor completes at acceptance and adds no gate
completion (R228). -/
def State.endsAtOnce (s : State) (x : Desc) : Bool :=
  !x.wellFormed || (!(s.unsupported x) && s.headDenied x)

/-! ## What an accepted descriptor names -/

/-- DETAIL1 of a status decided at acceptance (R239). -/
def State.acceptD1 (s : State) (x : Desc) (st : Status) : DWord :=
  if st = St.versionConflict then
    (match (s.regionAt x 40).bind s.extent with
     | some e => BitVec.ofNat 64 (e.current.toNat * 2 ^ 32)
     | none => x.noFail)
  else x.noFail

/-- The names and choices that an opcode makes at acceptance: the table and context of an ENCODE, the
context of a BUILD, the state of a DROP, the version of a FETCH_VERSION, a REDUCE's k. -/
def State.acceptNames (s : State) (d : Nat) (x : Desc) (p : BitVec 8) : State :=
  match x.opcode with
  | 0x02 =>
    let id : BitVec 16 := BitVec.ofNat 16 (x.field 60 2)
    let s1 := if x.subop = 1 then s.claimHctx (x.field 63 1) p else s
    (s1.addQueued id).modDesc d (fun y => { y with named := [id] })
  | 0x19 =>
    (match s.regionAt x 24 with
     | some h =>
       (match (s.extent h).bind (fun e => e.chooseVersion (BitVec.ofNat 32 (x.field 56 4))) with
        | some (k, v) => (s.addReader h k).modDesc d (fun y => { y with aux := k + 1, aux2 := v.toNat })
        | none => s)
     | none => s)
  | 0x21 => s.reduceAccept d x p
  | 0x28 =>
    if x.subop = 1 then s.claimHctx (x.field 26 1) p
    else if x.subop = 2 then
      (match s.table (BitVec.ofNat 16 (x.field 24 2)) with
       | some t => s.modDesc d (fun y => { y with aux := natOf t.loadRef })
       | none => s)
    else s
  | _ => s

end Sys2Proof.Machine
end

