-- ==== Sys2Proof/Machine/Channels.lean ====
section
/-! DEFINITION. Channels: doorbells, acceptance, starts, completions, MSI-X, channel states (R212 to R245,
R259, R260). -/

namespace Sys2Proof.Machine

/-! ## Doorbells (R216 to R219) -/

/-- The channel's port runs CXL.cache (R355). -/
def State.portCache (s : State) (p : Nat) : Bool :=
  match (s.hport p).link with | some l => (s.hport p).up && l.cache | none => false

/-- Read the doorbell line. -/
def State.readLine (s : State) (ch : Nat) : State :=
  (s.setCh ch { s.ch ch with reading := true, lastRead := s.now }).send (.dbRead ch)

def execDoorbellPoll (ch : BitVec 10) (s : State) : Outcome :=
  .next (if s.unitDown .scanner 0 then s else
    let c := s.ch ch.toNat
    if c.state = .running ∧ !c.watched ∧ !c.reading ∧ c.lastRead + c.poll.toNat ≤ s.now then s.readLine ch.toNat
    else s)

/-- The host's write of the line invalidates it: it is read again, after a read under way (R218). -/
def execDoorbellInvalidation (ch : BitVec 10) (s : State) : Outcome :=
  .next (if s.unitDown .scanner 0 then s else
    let c := s.ch ch.toNat
    if c.state = .running ∧ c.watched then
      if c.reading then s.setCh ch.toNat { c with stale := true } else s.readLine ch.toNat
    else s)

/-- The channel's line is watched from now on: it is read once into Shared state. -/
def State.watchLine (s : State) (ch : Nat) : State :=
  let c := s.ch ch
  if c.reading then s.setCh ch { c with watched := true, stale := true }
  else (s.setCh ch { c with watched := true }).readLine ch

/-- A doorbell line read returns; a new SQ_TAIL wakes the module and is journaled. -/
def execDoorbellReadReturn (ch : BitVec 10) (sqTail cqHead : Word) (s : State) : Outcome :=
  .next (if s.unitDown .scanner 0 then s else
    let c := s.ch ch.toNat
    if c.state = .running ∧ c.reading then
      let s0 := s.setCh ch.toNat { c with reading := false, stale := false, sqTail := sqTail, cqHead := cqHead }
      let s1 := if c.stale then s0.readLine ch.toNat else s0
      if sqTail = c.sqTail then s1
      else
        ((s1.jrn ch.toNat 2 1 s.now none (leBytes 4 sqTail.toNat ++ leBytes 4 cqHead.toNat)).wake Wk.doorbell)
    else s)

/-! ## Acceptance (R220 to R222, R261) -/

/-- Ring entries (R215). -/
def Chan.size (c : Chan) : Nat := 2 ^ c.sqLog2.toNat

/-- Accepted descriptors of the channel that have not completed. -/
def State.open_ (s : State) (ch : Nat) : List (Nat × Desc) := s.chan.descs.filter (fun e => decide (e.2.chan = ch))

/-- A descriptor that holds the later ones of its channel: an incomplete FENCE, GATE_WAIT or FENCE_WINDOW (R220). -/
def Desc.holds (x : Desc) : Bool := decide (x.opcode = 0x30 ∨ x.opcode = 0x31 ∨ x.opcode = 0x33)

/-- LAUNCHes that hold or will hold one of the 2,048 entries of R189's table. -/
def State.launches (s : State) : Nat :=
  (s.chan.descs.filter (fun e => decide (e.2.opcode = 0x20) && !e.2.decided && decide (e.2.phase ≠ .ended))).length

/-- The conditions of R220 but for the launch table.
(DESIGN CHOICE, assumption 14.) -/
def State.mayAccept (s : State) (ch : Nat) : Bool :=
  let c := s.ch ch
  let l := s.open_ ch
  decide (c.state = .running) && decide (c.sqHead ≠ c.sqTail) && decide (l.length < c.outMax.toNat) &&
    decide ((c.sqHead - c.cqHead).toNat < c.size) && !(l.any (fun e => e.2.holds)) &&
    decide (s.chan.descs.length < 32768)

/-- The channel's next descriptor can be accepted: R220, with the journal's room of R465; one known to be a LAUNCH waits
for the launch table. -/
def State.canAccept (s : State) (ch : Nat) : Bool :=
  s.mayAccept ch && s.jrnRoom ch && !((s.ch ch).waitsLaunch && decide (2048 ≤ s.launches))

/-- Channels a turn away from `ch`, in round-robin order, up to and without `dest`. -/
def between (ch dest : Nat) : List Nat := (List.range ((dest + 1024 - ch - 1) % 1024)).map (fun i => (ch + 1 + i) % 1024)

/-- Round robin: the channel whose turn it is goes on up to 16 descriptors; then the next one that can
accept, in ascending order, takes its turn (R222). The first turn is the lowest channel's.
(DESIGN CHOICE, assumption 14.) -/
def State.turnOk (s : State) (ch : Nat) : Bool :=
  let t := s.chan.turn.getD (1023, 16)
  if t.1 = ch ∧ t.2 < 16 then true
  else (decide (16 ≤ t.2) || !(s.canAccept t.1)) && !((between t.1 ch).any s.canAccept)

/-- The channel's turn is over: its next descriptor cannot be accepted (R222). -/
def State.endTurn (s : State) (ch : Nat) : State :=
  if (s.chan.turn.getD (1023, 16)).1 = ch ∧ !(s.canAccept ch) then { s with chan := { s.chan with turn := some (ch, 16) } }
  else s

/-- Descriptors accepted in this count (R222). -/
def State.accepts (s : State) : Nat := if s.chan.countAt = s.now then s.chan.count else 0

/-- The start count of a descriptor accepted now, if it is known (R259, R266). -/
def State.startOf (s : State) (x : Desc) : Option Nat :=
  match x.mode with
  | 0 => some s.now
  | 1 => some x.launchN
  | _ =>
    let g := s.gate x.launchGate
    if g.wasOpen && s.gateMet x.launchGate x.target then some (g.openAt.toNat + x.launchDelta) else none

/-- The descriptor-table entry of a descriptor accepted now. -/
def State.entry (s : State) (ch : Nat) (bits : BitVec 512) : Desc :=
  let c := s.ch ch
  let x : Desc :=
    { chan := ch, index := c.sqHead, bits := bits, party := c.party
      pasid := if c.pasidEn then some c.pasid else none
      accept := s.now, go := s.chan.go, start := none, known := s.now, target := 0 }
  let y := { x with target := if x.mode = 2 then (s.gate x.launchGate).t else 0 }
  { y with start := s.startOf y }

/-- The descriptor is copied into the table and SQ_HEAD advances. -/
def State.takeDesc (s : State) (ch : Nat) (x : Desc) : State :=
  let c := s.ch ch
  let s1 := s.setCh ch { c with sqHead := c.sqHead + 1, waitsLaunch := false, accepted := c.accepted + 1 }
  let n := s.accepts + 1
  let used := match s.chan.turn with | some (t, k) => if t = ch ∧ k < 16 then k else 0 | none => 0
  { s1 with chan := { s1.chan with
      descs := Table.set s1.chan.descs s1.chan.next x, next := s1.chan.next + 1, go := s1.chan.go + 1
      count := n, countAt := s.now, turn := some (ch, if n = 64 then 16 else used + 1) } }

/-- Transactions of a descriptor's data phases and parameter blocks: blocks, or runs of up to 4,096 plain bytes
(R274, R276). Those of a REDUCE are its WRITEs. -/
def Desc.transactions (x : Desc) : Nat :=
  match x.opcode with
  | 0x01 => (x.field 56 8 + 4095) / 4096
  | 0x02 => x.field 56 4
  | 0x03 => x.field 56 4
  | 0x18 => x.field 60 4
  | 0x19 => x.field 60 4
  | 0x20 => natOf (decide (x.field 56 2 ≠ 0))
  | 0x14 => natOf (decide (x.subop = 0))
  | 0x28 => natOf (decide (x.subop = 0))
  | 0x38 => 1
  | op => natOf (decide (0x40 ≤ op))

/-- The slots of a descriptor that may name host memory. -/
def Desc.hostSlots (x : Desc) : List Nat :=
  match x.opcode with
  | 0x01 => [24, 40]
  | 0x02 => [24]
  | 0x18 => [24]
  | 0x20 => [32]
  | 0x03 => [40]
  | 0x14 => [40]
  | 0x19 => [40]
  | 0x28 => [40]
  | 0x38 => [40]
  | op => if 0x40 ≤ op then [40] else []

/-- Its transactions at the movers and at the host port of its channel are issued (R278); those with a PEER operand are
issued with its requests.
(DESIGN CHOICE, assumption 41.) -/
def State.chargeDesc (s : State) (x : Desc) : State :=
  if s.reachesPeer x then s
  else
    let n := x.transactions
    let s1 := s.charge resMovers x.cls x.party n
    let host := x.hostSlots.any (fun lo => match x.slot lo with | some sl => sl.isHost | none => false)
    if host then s1.charge (64 + (s.ch x.chan).port.toNat) x.cls x.party n else s1

/-- A descriptor is handed to its unit: it asks for its buffers; a LAUNCH becomes eligible (R191, R260).
(DEDUCED, assumption 62.) -/
def State.hand (s : State) (d : Nat) (x : Desc) : State :=
  let s1 := (s.setDesc d { x with phase := .started }).chargeDesc x
  if s.evt.replay && s.reachesPeer x then
    s1.replayPeer d x (fun (st : State) dst b => (st.putPlain x dst b).1)
  else if x.opcode = 0x20 then s1.enqueueProgram d else s1.askBufs x.chan d (s1.buffersFor x)

/-- The gate and value of a GATE_OPEN. -/
def Desc.openGate (x : Desc) : BitVec 8 := BitVec.ofNat 8 (x.field 24 1)
def Desc.openValue (x : Desc) : Word := BitVec.ofNat 32 (x.field 28 4)

/-- Carry a GATE_OPEN to the gate's module (R268, R338). -/
def State.sendGate (s : State) (d : Nat) (x : Desc) (did : Nat) : State :=
  (s.modDesc d (fun y => { y with phase := .working })).descReq d x 0 0
    { ptype := pGate, flags := fOnce
      arg := x.openGate.toNat + 256 * x.subop + 2 ^ 32 * x.openValue.toNat } did []

/-- A MODE 0 ARM sets T at the moment it is performed (R265). -/
def State.armGate (s : State) (g : BitVec 8) (v : Word) : State := s.setGate g { s.gate g with t := v }

/-- A MODE 1 or MODE 2 ARM starts: the launch unit performs it after the ARMs accepted in the count (R265). -/
def State.startArm (s : State) (x : Desc) (g : BitVec 8) (v : Word) : State :=
  s.setGate g { s.gate g with starts := (s.gate g).starts ++ [(x.chan, x.go, v)] }

/-- A GATE_OPEN is performed: ADD or ARM, on this module or another (R261, R265, R268). -/
def State.performGateOpen (s : State) (d : Nat) (x : Desc) : State :=
  match s.remoteGate x with
  | some did => s.sendGate d x did
  | none =>
    (if x.subop = 0 then s.addGate x.openGate x.openValue
     else if x.mode = 0 then s.armGate x.openGate x.openValue
     else s.startArm x x.openGate x.openValue).endDesc d St.ok 0 0

/-- A MODE 0 GATE_OPEN is performed as it is accepted (R261). -/
def State.openAccepted (s : State) (d : Nat) (x : Desc) : State :=
  let s1 := s.hand d x
  match s1.desc d with
  | some y => if y.phase = .started then s1.performGateOpen d y else s1
  | none => s1

/-- The acceptance checks, and what the descriptor names (R241). -/
def State.checkDesc (s : State) (d : Nat) (x : Desc) : State :=
  match s.acceptStatus x with
  | some st =>
    if s.endsAtOnce x then s.modDesc d (fun y => { y with phase := .ended, status := st, d1 := x.noFail, noGate := true })
    else (if x.opcode = 0x18 then s.countConflict st else s).settle d st (s.acceptD1 x st)
  | none =>
    let s1 := match x.party with | some p => s.acceptNames d x p | none => s
    if x.opcode = 0x20 then s1.askBufs x.chan d (s1.buffersFor x)
    else if x.opcode = 0x32 ∧ x.mode = 0 then s1.openAccepted d x
    else s1

/-- A LAUNCH waits while the launch table is full (R189). -/
def launchFits (s : State) (x : Desc) : Bool := decide (x.opcode ≠ 0x20) || decide (s.launches < 2048)

/-- The descriptor read of the channel's next index returns `desc`: it is accepted where R220 and R222
allow it and its journal entry has room (R465).
(DESIGN CHOICE, assumption 17.) -/
def execDescriptorAccept (ch : BitVec 10) (desc : BitVec 512) (s : State) : Outcome :=
  .next (if s.unitDown .scanner 0 then s else
    let n := ch.toNat
    let x := s.entry n desc
    if !(s.mayAccept n) || !(s.turnOk n) || decide (64 ≤ s.accepts) || s.evt.replay then s
    else s.whenActive (fun s =>
      if !(s.jrnRoom n) then (s.jrnWait n).endTurn n
      else if !(launchFits s x) then (s.setCh n { s.ch n with waitsLaunch := true }).endTurn n
      else
        let d := s.chan.next
        let s1 := (s.takeDesc n x).jrn n 3 3 s.now (some (x.go, x.cls))
          (leBytes 8 x.go ++ leBytes 4 x.index.toNat ++ leBytes 4 0 ++ bvBytes 64 desc)
        (s1.checkDesc d x).endTurn n))

/-! ## Starts (R259 to R261) -/

/-- The count at which a descriptor may start, once known. -/
def Desc.due (x : Desc) : Option Nat :=
  match x.start with
  | none => none
  | some t => some (if x.mode = 0 then t else max t (x.known + 2))

/-- Its start count arrives (R259). A descriptor whose status is decided completes without starting
(R241). A LAUNCH starts once its argument block has been read. -/
def execDescriptorStart (d : Nat) (s : State) : Outcome :=
  .next (
    match s.desc d with
    | none => s
    | some x =>
      match x.due with
      | none => s
      | some t =>
        if x.phase ≠ .accepted ∨ s.now < t then s
        else if x.decided then s.endDesc d x.status x.d0 x.d1
        else if x.opcode = 0x20 ∧ (s.program d).isNone then s
        else s.whenActive (fun s =>
          let late := decide (x.mode ≠ 0) && decide (x.start.getD 0 < s.now)
          let s1 := if late then { s with clk := { s.clk with launchLate := s.clk.launchLate + 1 } } else s
          s1.hand d x))

/-! ## Completions (R227, R228, R235 to R240) -/

/-- The entry is written after the deadline count.
(DEDUCED, assumption 62.) -/
def Desc.late (x : Desc) (now : Nat) : Bool :=
  match x.deadline with | some t => decide (t < now) | none => false

/-- A completion entry (R237). -/
def entryBytes (x : Desc) (head : Word) (phase : Nat) (late : Bool) : Bytes :=
  leBytes 4 (x.field 16 4) ++ leBytes 4 x.index.toNat ++ leBytes 4 head.toNat ++ leBytes 2 x.status.toNat ++
    leBytes 1 x.opcode ++ leBytes 1 (phase + 2 * natOf late) ++ leBytes 8 x.d0.toNat ++ leBytes 8 x.d1.toNat

/-- PHASE at completion index `j` of a ring of `n` entries. -/
def phaseAt (j n : Nat) : Nat := 1 - (j / n) % 2

/-- IRQ: a message now, or one at the end of the holdoff (R238). -/
def State.irqNow (s : State) (ch : Nat) : State :=
  let c := s.ch ch
  match c.holdEnd with
  | some t =>
    if s.now < t then s.setCh ch { c with owed := true }
    else (s.setCh ch { c with holdEnd := some (s.now + c.holdoff.toNat), owed := false }).msix c.port.toNat c.vector ch
  | none => (s.setCh ch { c with holdEnd := some (s.now + c.holdoff.toNat), owed := false }).msix c.port.toNat c.vector ch

/-- Write the completion entry, unless the channel has lost its port (R214).
(DESIGN CHOICE, assumption 17.) -/
def State.writeEntry (s : State) (x : Desc) : State :=
  let ch := x.chan
  let c := s.ch ch
  let late := x.late s.now
  let flags := phaseAt c.cqTail.toNat c.size + 2 * natOf late
  let s0 := s.jrn ch 7 2 s.now (some (x.go, x.cls)) (leBytes 8 x.go ++ leBytes 2 x.status.toNat ++ leBytes 1 flags ++ leBytes 5 0 ++
    leBytes 8 x.d0.toNat ++ leBytes 8 x.d1.toNat)
  if c.state = .stopped then s0
  else
    let bytes := entryBytes x c.sqHead (phaseAt c.cqTail.toNat c.size) late
    let addr := c.cqBase + BitVec.ofNat 64 (32 * (c.cqTail.toNat % c.size))
    let s1 := s0.send (.write c.port.toNat addr x.pasid false bytes)
    let s2 := s1.setCh ch { s1.ch ch with cqTail := c.cqTail + 1 }
    if x.irq then s2.irqNow ch else s2

/-- A late completion counts against the class that regulates the descriptor: its label, or 63 where its party does not
own it (R279, R290). -/
def State.countLate (s : State) (x : Desc) : State :=
  if x.late s.now then
    let c := s.regulatedAs x.cls x.party
    s.setQclass c { s.qclass c with late := (s.qclass c).late + 1 }
  else s

/-- A FETCH_VERSION's reader is dropped as it completes (R308). -/
def State.endReader (s : State) (x : Desc) : State :=
  if x.opcode = 0x19 ∧ 0 < x.aux then
    (match s.regionAt x 24 with | some h => s.dropReader h (x.aux - 1) | none => s)
  else s

/-- A request answered REVOKED is counted (R313).
(DEDUCED, assumption 64.) -/
def State.countRevoked (s : State) (x : Desc) : State :=
  if x.status = St.revoked then { s with ten := { s.ten with revokedReqs := s.ten.revokedReqs + 1 } } else s

/-- A descriptor completes: gate completion, names released, entry, table entry freed. -/
def State.finish (s : State) (d : Nat) (x : Desc) : State :=
  let s1 := match x.doneGate with
    | some g => if x.noGate then s else s.addGate g 1
    | none => s
  let s2 := x.named.foldl State.dropQueued (s1.dropBufs d x)
  let s3 := ((((s2.endReader x).countLate x).countRevoked x).compareEntry x).writeEntry x
  { s3 with chan := { s3.chan with descs := Table.del s3.chan.descs d }
            fab := { s3.fab with reduces := s3.fab.reduces.filter (fun r => decide (r.desc ≠ d)) } }

def execDescriptorComplete (d : Nat) (s : State) : Outcome :=
  .next (
    match s.desc d with
    | some x => if x.phase = .ended then s.finish d x else s
    | none => s)

def execMsixHoldoffEnd (ch : BitVec 10) (s : State) : Outcome :=
  .next (
    let c := s.ch ch.toNat
    match c.holdEnd with
    | some t =>
      if s.now < t then s
      else if c.owed then
        (s.setCh ch.toNat { c with owed := false, holdEnd := some (s.now + c.holdoff.toNat) }).msix
          c.port.toNat c.vector ch.toNat
      else s.setCh ch.toNat { c with holdEnd := none }
    | none => s)

/-! ## Channel states (R213, R214) -/

/-- An accepted descriptor that has not started ends CANCELLED; a LAUNCH gives up its launch-table entry. -/
def State.cancelOne (s : State) (d : Nat) : State :=
  let s1 := s.endDesc d St.cancelled 0 (match s.desc d with | some x => x.noFail | none => 0)
  { s1 with pods := { s1.pods with programs := Table.del s1.pods.programs d } }

/-- Every accepted descriptor of the channel that has not started, and their number. -/
def State.unstarted (s : State) (ch : Nat) : List Nat :=
  ((s.open_ ch).filter (fun e => decide (e.2.phase = .accepted))).map Prod.fst
def State.cancelAll (s : State) (ch : Nat) : State := (s.unstarted ch).foldl State.cancelOne s

/-- The channel loses its port (R214): STOPPED, unstarted descriptors CANCELLED, host accesses cut. -/
def State.stopChannel (s : State) (ch : Nat) : State :=
  let n := (s.unstarted ch).length
  let s1 := s.cancelAll ch
  let s2 := s1.setCh ch { s1.ch ch with
    state := .stopped, reading := false, watched := false, owed := false, leaving := !(s1.ch ch).enable }
  let cut := s2.chan.descs.map (fun (e : Nat × Desc) => if e.2.chan = ch then (e.1, { e.2 with cut := true }) else e)
  let s3 := { s2 with chan := { s2.chan with descs := cut } }
  s3.raise 0x0105 Sev.notice Uk.hostPort (s.ch ch).port.toNat ch n 0

/-- Channels of a port that it stops: RUNNING or DRAINING. -/
def State.portChannels (s : State) (p : Nat) : List Nat :=
  (s.chan.chans.filter (fun e => decide (e.2.port.toNat = p) &&
    decide (e.2.state = .running ∨ e.2.state = .draining))).map Prod.fst

/-- A port loses its link or enters D3hot (R214, R257): how many channels stopped. -/
def State.stopPort (s : State) (p : Nat) : State := (s.portChannels p).foldl State.stopChannel s

/-- The port that the channel names exists on the part number (R5). -/
def State.portExists (s : State) (p : Nat) : Bool := decide (p < s.variant.hostPorts)

/-- A channel enters RUNNING: indexes at 0, its first doorbell read, a START entry in its journal.
(DEDUCED, assumption 101.) -/
def State.enableChannel (s : State) (ch : Nat) : State :=
  let c := s.ch ch
  let w := c.watch && s.portCache c.port.toNat
  let s1 := s.setCh ch { c with state := .running, enable := true, sqHead := 0, cqTail := 0, sqTail := 0, cqHead := 0
                                watched := w, stale := false, leaving := false, waitsLaunch := false }
  (s1.readLine ch).jrnStart ch

/-- ENABLE applied as 1: in DISABLED the channel enters RUNNING (R213). -/
def State.enableOn (s : State) (ch : Nat) : State :=
  let c := s.ch ch
  if c.state = .disabled ∧ s.portExists c.port.toNat then s.enableChannel ch else s.setCh ch { c with enable := true }

def execChannelEnable (ch : BitVec 10) (s : State) : Outcome := .next (s.enableOn ch.toNat)

/-- ENABLE applied as 0: RUNNING drains, its unstarted descriptors CANCELLED; STOPPED may be left. -/
def State.disableChannel (s : State) (ch : Nat) : State :=
  let c := s.ch ch
  match c.state with
  | .running =>
    let s1 := s.cancelAll ch
    s1.setCh ch { s1.ch ch with state := .draining, enable := false, reading := false, watched := false }
  | .stopped => s.setCh ch { c with enable := false, leaving := true }
  | _ => s.setCh ch { c with enable := false }

def execChannelDisable (ch : BitVec 10) (s : State) : Outcome := .next (s.disableChannel ch.toNat)

/-- The last accepted descriptor of a DRAINING channel, or of a STOPPED one whose ENABLE has been applied as 0, has ended. -/
def execChannelDrained (ch : BitVec 10) (s : State) : Outcome :=
  .next (
    let c := s.ch ch.toNat
    if (s.open_ ch.toNat).isEmpty ∧ (c.state = .draining ∨ (c.state = .stopped ∧ c.leaving)) then
      s.setCh ch.toNat { c with state := .disabled }
    else s)

end Sys2Proof.Machine
end

