-- ==== Sys2Proof/Machine/Copy.lean ====
section
/-! DEFINITION. COPY, ENCODE, DECODE and CAPS descriptors (R70 to R75, R112, R116, R230, R233, R234). -/

namespace Sys2Proof.Machine

/-! ## Requests that read husks (R78) -/

/-- A descriptor first reads husks that name these ids: each is queued once until it completes. -/
def State.nameIds (s : State) (d : Nat) (ids : List (BitVec 16)) : State :=
  match s.desc d with
  | none => s
  | some x =>
    let fresh := ids.filter (fun i => !(x.named.contains i))
    fresh.foldl State.addQueued (s.setDesc d { x with named := x.named ++ fresh })

/-- The ids named by the blocks that a run of bytes at a slot touches. -/
def State.idsAt (s : State) (sl : Slot) (len : Nat) : List (BitVec 16) :=
  if sl.isExt || sl.isPod then
    let base := match sl with
      | .ext h o => Slot.ext h (o - o % 4096)
      | .pod p o => Slot.pod p (o - o % 4096)
      | y => y
    s.idsOf base ((sl.off % 4096 + len + 4095) / 4096)
  else []

/-- What every data phase checks first: a POD operand's pod runs a program of the party (R230), and a
destination extent takes writes (R422). -/
def State.phaseStatus (s : State) (x : Desc) (src dst : Slot) : Option Status :=
  if s.podDenied x src || s.podDenied x dst then some St.accessDenied
  else match dst with
    | .ext h _ => if s.readOnly h then some St.readOnly else none
    | _ => none

/-! ## STORED mode (R73, R74, R233) -/

/-- The form of a block that arrives from outside: a raw block, or a husk that passes every check of R70
but the stream decode and those of its table, its CRC among them (R74). -/
def formOk (tag : Nat) (b : Bytes) : Bool :=
  decide (tag = 0x3F) ||
    (decide (1 ≤ tag ∧ tag ≤ 0x3C) && huskCrcOk b &&
      huskHeadTail tag b)
where
  /-- Header, tail and raw lengths. -/
  huskHeadTail (tag : Nat) (b : Bytes) : Bool :=
    match elemShape ((b.getD 1 0).toNat) with
    | none => false
    | some (_, c) =>
      let p := subStart b 32
      decide (b.getD 0 0 = 0x10) && decide (fieldAt b 57 3 = 0) && decide ((b.getD 56 0).toNat = tag) &&
        decide (tag = 1 + (p + 63) / 64) &&
        (sliceBytes b (64 + p) (64 * tag - (64 + p))).all (fun y => decide (y = 0)) &&
        (List.range 32).all (fun i => decide (i < c) || decide (subLen b i = 1024))

/-- The table of an arriving husk is held for the owning party, with the same list (R74). -/
def State.tableOk (s : State) (tag : Nat) (owner : Option (BitVec 8)) (b : Bytes) : Bool :=
  decide (tag = 0x3F) ||
    (match s.table (BitVec.ofNat 16 (fieldAt b 2 2)) with
     | some t => decide (some t.owner = owner) && decide (fieldAt b 52 4 = crc32c t.list)
     | none => false)

/-- Metadata word of an arriving block. -/
def wordOf (tag : Nat) (b : Bytes) : Word :=
  if tag = 0x3F then rawMeta else mkMeta (BitVec.ofNat 16 (fieldAt b 2 2)) false tag

/-- The party whose tables a destination's husks name: the extent's owner, or the descriptor's party. -/
def State.tableParty (s : State) (x : Desc) (dst : Slot) : Option (BitVec 8) :=
  match dst with
  | .ext h _ => (s.extent h).bind (·.owner)
  | _ => x.party

/-- Tag byte and sectors of block `i` as read from the host, one after the other (assumption 11); none
where the reads did not reach its end. -/
def hostBlock (h : HostData) (i : Nat) : Option (Nat × Bytes) :=
  if h.bytes.length < 4097 * (i + 1) then none
  else
    let tag := (h.bytes.getD (4097 * i) 0).toNat
    some (tag, sliceBytes h.bytes (4097 * i + 1) (if tag = 0x3F then 4096 else 64 * (tag % 64)))

/-- Import block `i`. -/
def importBlk (x : Desc) (h : HostData) (dst : Slot) (a : State × Prog) (i : Nat) : State × Prog :=
  if a.2.stop.isSome then a
  else match hostBlock h i with
    | none => (a.1, { a.2 with stop := some x.short })
    | some (tag, b) =>
      let s := if tag = 0x3F then a.1 else a.1.nameFor (.desc x.go) (mwId (wordOf tag b))
      if formOk tag b && s.tableOk tag (s.tableParty x dst) b then
        (s.slotStore (dst.plus (4096 * i)) (wordOf tag b) b, { a.2 with done := a.2.done + 1 })
      else (s.countInvalid, a.2.halt i St.huskInvalid)

/-- Export block `i`: its sectors and its tag byte; of a poisoned block the tag byte alone. -/
def exportBlk (x : Desc) (len : Nat) (src : Slot) (base : DWord) (a : State × Prog) (i : Nat) : State × Prog :=
  let sl := src.plus (4096 * i)
  let w := a.1.slotWord sl
  let tag : Bytes := [w.extractLsb' 0 8]
  let tagAt := base + BitVec.ofNat 64 (len + i)
  if mwPoison w then (a.1.hostWrite x tagAt tag, { (a.2.poison i) with done := a.2.done + 1 })
  else
    ((a.1.hostWrite x (base + BitVec.ofNat 64 (4096 * i)) (a.1.slotStored sl)).hostWrite x tagAt tag,
      { a.2 with done := a.2.done + 1 })

/-- Move block `i` within the module: of a poisoned block its word alone (R58, R73). -/
def moveStored (src dst : Slot) (a : State × Prog) (i : Nat) : State × Prog :=
  let sl := src.plus (4096 * i)
  let w := a.1.slotWord sl
  let p := if mwPoison w then a.2.poison i else a.2
  (a.1.slotStore (dst.plus (4096 * i)) w (a.1.slotForm sl), { p with done := p.done + 1 })

/-- Send block `i` of a module or host source to a peer (R342). -/
def sendStored (d : Nat) (x : Desc) (h : HostData) (src : Slot) (did : BitVec 12) (hd : Word) (off : Nat)
    (a : State × Prog) (i : Nat) : State × Prog :=
  let head := fun (id : BitVec 16) (btag : Nat) =>
    ({ ptype := pWrite, flags := fStored, handle := hd, offset := off + 4096 * i, table := id, btag := btag } : ReqHead)
  if a.2.stop.isSome then a
  else match src with
    | .host _ _ =>
      (match hostBlock h i with
       | none => (a.1, { a.2 with stop := some x.short })
       | some (tag, b) =>
         if formOk tag b then
           (a.1.descReq d x i 1 (head (mwId (wordOf tag b)) tag) did.toNat b, { a.2 with done := a.2.done + 1 })
         else (a.1.countInvalid, a.2.halt i St.huskInvalid))
    | _ =>
      let sl := src.plus (4096 * i)
      let w := a.1.slotWord sl
      let p := if mwPoison w then a.2.poison i else a.2
      (a.1.descReq d x i 1 (head (mwId w) (w.extractLsb' 0 8).toNat) did.toNat
        (a.1.slotForm sl), { p with done := p.done + 1 })

/-- Ask a peer for stored block `i`. -/
def askStored (d : Nat) (x : Desc) (did : BitVec 12) (hd : Word) (off : Nat) (s : State) (i : Nat) : State :=
  s.descReq d x i 1 { ptype := pRead, flags := fStored, handle := hd, offset := off + 4096 * i, arg := 4096 } did.toNat []

/-- DETAIL1 of ended work: the refused address for TRANSLATION_FAULT (R239). -/
def Prog.detail1 (p : Prog) (h : HostData) : DWord :=
  if p.stop = some St.translationFault then h.refused.getD 0 else p.d1

/-- End a descriptor with its progress. -/
def State.endProg (s : State) (d : Nat) (h : HostData) (p : Prog) : State :=
  s.endDesc d p.status (BitVec.ofNat 64 p.done) (p.detail1 h)

/-- A descriptor goes on waiting for its peer requests; without one it ends. -/
def State.waitPeers (s : State) (d : Nat) (h : HostData) (p : Prog) : State :=
  match s.desc d with
  | none => s
  | some x =>
    if x.peers.isEmpty then s.endProg d h p
    else s.setDesc d { x.withProg p with phase := .working, refused := h.refused }

/-- Blocks or bytes written to the host before the refused address (R230, R239), none once the port is lost (R214). -/
def Desc.untilRefused (x : Desc) (h : HostData) (base : DWord) (len unit : Nat) : Nat :=
  if x.cut then 0
  else match h.refused with
  | none => len / unit
  | some r =>
    let o := (r - base).toNat
    if o < len then o / unit else if unit = 1 then len else o - len

/-- (DESIGN CHOICE, assumption 11.) -/
def execCopyStored (d : Nat) (h : HostData) (s : State) : Outcome :=
  .next (s.work d 1 0 (fun x =>
    let h := x.got h
    match (x.slot 24).map s.resolve, (x.slot 40).map s.resolve with
    | some src, some dst =>
      let len := x.field 56 8
      let n := len / 4096
      let is := List.range n
      match s.phaseStatus x src dst with
      | some st => s.endDesc d st 0 x.noFail
      | none =>
        s.withAccess srcMovers (.desc x.go) (src.accs len false ++ dst.accs len true) (fun s =>
          let s0 := s.nameIds d (s.idsAt src len)
          match src, dst with
          | .peer did hd off, _ =>
            (is.foldl (askStored d x did hd off) s0).waitPeers d ⟨[], none⟩ { done := n }
          | _, .peer did hd off =>
            let r := is.foldl (sendStored d x h src did hd off) (s0, {})
            r.1.waitPeers d h r.2
          | .host _ _, _ =>
            let r := is.foldl (importBlk x h dst) (s0, {})
            r.1.endProg d h r.2
          | _, .host base _ =>
            let m := min n (x.untilRefused h base len 4096)
            let r := (List.range m).foldl (exportBlk x len src base) (s0, {})
            r.1.endProg d h (if m < n then { r.2 with stop := some x.short } else r.2)
          | _, _ =>
            let r := is.foldl (moveStored src dst) (s0, {})
            r.1.endProg d h r.2)
    | _, _ => s))

/-! ## PLAIN mode (R73, R75, R113) -/

/-- Pieces of [p, p + n) of a run that do not cross a block of a source at offset `off`. -/
def cutAt (off : Nat) (q : Nat × Nat) : List (Nat × Nat) :=
  (pieces (off + q.1) q.2).map (fun r => (q.1 + r.1, r.2))

/-- Plain bytes of a piece within one block of a module source. -/
def State.segment (s : State) (src : Slot) (q : Nat × Nat) : BlkRead :=
  match s.slotPlain (src.plus q.1).block with
  | .bytes b => .bytes (sliceBytes b ((src.off + q.1) % 4096) q.2)
  | r => r

/-- The segments of a destination piece read so far: bytes joined where nothing failed between. -/
def State.segments (s : State) (src : Slot) (q : Nat × Nat) : List ((Nat × Nat) × BlkRead) :=
  (cutAt src.off q).map (fun r => (r, s.segment src r))

/-- Put the bytes of a piece at its destination: host memory or a module slot. -/
def putPiece (x : Desc) (dst : Slot) (bytes : Bytes) (a : State × Prog) (q : Nat × Nat) : State × Prog :=
  if a.2.stop.isSome then a
  else match dst with
    | .host base _ =>
      if x.cut then (a.1, { a.2 with stop := some x.short })
      else (a.1.hostWrite x (base + BitVec.ofNat 64 q.1) bytes, { a.2 with done := a.2.done + q.2 })
    | _ =>
      match a.1.slotWrite (dst.plus q.1) bytes with
      | .ok s => (s, { a.2 with done := a.2.done + q.2 })
      | .poisoned => (a.1, { (a.2.poison q.1) with done := a.2.done + q.2 })
      | .invalid => (a.1, a.2.halt q.1 St.huskInvalid)

/-- One segment of a piece: delivered, passed over as poisoned, or the end of the work. -/
def putSegment (put : Bytes → State × Prog → Nat × Nat → State × Prog) (a : State × Prog)
    (g : (Nat × Nat) × BlkRead) : State × Prog :=
  if a.2.stop.isSome then a
  else match g.2 with
    | .bytes b => put b a g.1
    | .poisoned => (a.1, { (a.2.poison g.1.1) with done := a.2.done + g.1.2 })
    | .invalid => (a.1, a.2.halt g.1.1 St.huskInvalid)

/-- One destination piece of a run from a module source: whole where all its segments are readable. -/
def movePlain (src : Slot) (put : Bytes → State × Prog → Nat × Nat → State × Prog) (a : State × Prog)
    (q : Nat × Nat) : State × Prog :=
  let l := a.1.segments src q
  if l.all (fun g => match g.2 with | .bytes _ => true | _ => false) then
    if a.2.stop.isSome then a
    else put (l.flatMap (fun g => match g.2 with | .bytes b => b | _ => [])) a q
  else l.foldl (putSegment put) a

/-- Send a piece of plain bytes to a peer. -/
def sendPlain (d : Nat) (x : Desc) (did : BitVec 12) (hd : Word) (off : Nat) (bytes : Bytes)
    (a : State × Prog) (q : Nat × Nat) : State × Prog :=
  if a.2.stop.isSome then a
  else (a.1.descReq d x q.1 q.2 { ptype := pWrite, handle := hd, offset := off + q.1 } did.toNat bytes,
    { a.2 with done := a.2.done + q.2 })

/-- Ask a peer for the plain bytes of a piece. -/
def askPlain (d : Nat) (x : Desc) (did : BitVec 12) (hd : Word) (off : Nat) (s : State) (q : Nat × Nat) : State :=
  s.descReq d x q.1 q.2 { ptype := pRead, flags := fPlain, handle := hd, offset := off + q.1, arg := q.2 } did.toNat []

/-- The pieces in which the plain bytes of a peer are asked for: within one block of the peer, so that a block that
cannot be read takes no other byte with it, and within one block of a module destination (R73, R90). -/
def peerPieces (off : Nat) (dst : Slot) (len : Nat) : List (Nat × Nat) :=
  if dst.isExt || dst.isPod then (pieces dst.off len).flatMap (cutAt off) else pieces off len

/-- The blocks of a module destination that a plain COPY merges into: those it covers in part, and those of whose
source a block cannot be read. -/
def State.mergesOf (s : State) (w : Who) (src dst : Slot) (len : Nat) : List Slot :=
  dst.partials len ++
    (if dst.isExt || dst.isPod then
      ((pieces dst.off len).filter (fun q => ((src.plus q.1).blocks q.2).any (s.unreadable w))).map
        (fun q => (dst.plus q.1).block)
    else [])

/-- The work of a PLAIN COPY: `len` bytes. -/
def copyPlain (d : Nat) (x : Desc) (h : HostData) (src dst : Slot) (len : Nat) (s : State) : State :=
  match src, dst with
  | .peer did hd off, _ =>
    ((peerPieces off dst len).foldl (askPlain d x did hd off) s).waitPeers d ⟨[], none⟩ { done := len }
  | .host _ _, .peer did hd off =>
    let m := min len h.bytes.length
    let r := (pieces off m).foldl (fun a q => sendPlain d x did hd off (sliceBytes h.bytes q.1 q.2) a q) (s, {})
    r.1.waitPeers d h (if m < len then { r.2 with stop := some x.short } else r.2)
  | _, .peer did hd off =>
    let r := (pieces off len).foldl (movePlain src (sendPlain d x did hd off)) (s, {})
    r.1.waitPeers d h r.2
  | .host _ _, _ =>
    let m := min len h.bytes.length
    let r := (pieces dst.off m).foldl (fun a q => putPiece x dst (sliceBytes h.bytes q.1 q.2) a q) (s, {})
    r.1.endProg d h (if m < len ∧ r.2.stop.isNone then { r.2 with stop := some x.short } else r.2)
  | _, .host base _ =>
    let m := min len (x.untilRefused h base len 1)
    let r := (pieces src.off m).foldl (movePlain src (putPiece x dst)) (s, {})
    r.1.endProg d h (if m < len ∧ r.2.stop.isNone then { r.2 with stop := some x.short } else r.2)
  | _, _ =>
    let r := (pieces dst.off len).foldl (movePlain src (putPiece x dst)) (s, {})
    r.1.endProg d h r.2

def execCopyPlain (d : Nat) (h : HostData) (s : State) : Outcome :=
  .next (s.work d 1 1 (fun x =>
    let h := x.got h
    match (x.slot 24).map s.resolve, (x.slot 40).map s.resolve with
    | some src, some dst =>
      let len := x.field 56 8
      match s.phaseStatus x src dst with
      | some st => s.endDesc d st 0 x.noFail
      | none =>
        let w : Who := .desc x.go
        s.withBlocks srcMovers w (src.accs len false ++ (if src.isPeer then [] else dst.accs len true))
          (src.blocks len ++ (if src.isPeer then [] else s.mergesOf w src dst len)) (fun s =>
            copyPlain d x h src dst len (s.nameIds d (s.idsAt src len)))
    | _, _ => s))

/-! ## ENCODE (R82, R86, R115, R116) -/

/-- The blocks of an ENCODE's source that go to the engines, and what stopped or was passed over. -/
def encodeBlk (s : State) (x : Desc) (h : HostData) (src : Slot) (a : List (Nat × Bytes) × Prog) (i : Nat) :
    List (Nat × Bytes) × Prog :=
  if a.2.stop.isSome then a
  else match src with
    | .host _ _ =>
      if h.bytes.length < 4096 * (i + 1) then (a.1, { a.2 with stop := some x.short })
      else (a.1 ++ [(i, sliceBytes h.bytes (4096 * i) 4096)], { a.2 with done := a.2.done + 1 })
    | _ =>
      match s.slotPlain (src.plus (4096 * i)) with
      | .bytes b => (a.1 ++ [(i, b)], { a.2 with done := a.2.done + 1 })
      | .poisoned => (a.1, { (a.2.poison i) with done := a.2.done + 1 })
      | .invalid => (a.1, a.2.halt i St.huskInvalid)

/-- The engine's job for block `i` of an ENCODE. -/
def Desc.job (x : Desc) (d : Nat) (dst : Slot) (i : Nat) (bytes : Bytes) : EncJob :=
  let dest := dst.plus (4096 * i)
  { desc := some d, core := none, index := i, bytes := bytes, toPod := dst.isPod
    dst := match dest with | .ext h o => extBlkKey h (o / 4096) | .pod p o => podKey p o | _ => 0
    tableId := BitVec.ofNat 16 (x.field 60 2), elem := BitVec.ofNat 4 (x.field 62 1)
    hctx := if x.subop = 1 then some (BitVec.ofNat 8 (x.field 63 1)) else none, order := x.go }

/-- ENCODE: SUBOP's bit 0 (HCTX_EN) may be 0 or 1. -/
def execEncode (d : Nat) (h : HostData) (s : State) : Outcome :=
  .next (s.work d 2 ((s.desc d).elim 0 Desc.subop) (fun x =>
    let h := x.got h
    match (x.slot 24).map s.resolve, (x.slot 40).map s.resolve with
    | some src, some dst =>
      let n := x.field 56 4
      match s.phaseStatus x src dst with
      | some st => s.endDesc d st 0 x.noFail
      | none => s.withBlocks srcMovers (.desc x.go) (src.accs (4096 * n) false) (src.blocks (4096 * n)) (fun s =>
          let s0 := s.nameIds d (s.idsAt src (4096 * n))
          let r := (List.range n).foldl (encodeBlk s x h src) ([], {})
          if r.1.isEmpty then s0.endProg d h r.2
          else
            (s0.modDesc d (fun y => { y.withProg r.2 with phase := .working, jobs := r.1.length
                                                          refused := h.refused })).enqueue
              (r.1.map (fun b => x.job d dst b.1 b.2)))
    | _, _ => s))

/-! ## DECODE (R112) -/

def execDecode (d : Nat) (s : State) : Outcome :=
  .next (s.work d 3 0 (fun x =>
    match (x.slot 24).map s.resolve, (x.slot 40).map s.resolve with
    | some src, some dst =>
      let n := x.field 56 4
      match s.phaseStatus x src dst with
      | some st => s.endDesc d st 0 x.noFail
      | none =>
        match src with
        | .peer did hd off =>
          ((peerPieces off dst (4096 * n)).foldl (fun (st : State) q =>
            askPlain d x did hd off st q) s).waitPeers d ⟨[], none⟩ { done := n }
        | _ =>
          let s1 := (s.nameIds d (s.idsAt src (4096 * n))).modDesc d (fun y => { y with phase := .working })
          State.feedDecode 16 d s1
    | _, _ => s))

/-! ## CAPS (R234) -/

/-- The record of a CAPS descriptor. -/
def State.capsRecord (s : State) (x : Desc) : Bytes :=
  let v := s.variant
  leBytes 1 v.code ++ leBytes 1 v.pods ++ leBytes 1 v.znStacks ++ leBytes 1 v.zdStacks ++
    leBytes 1 v.fabPorts ++ leBytes 1 v.hostPorts ++ ([8, 16, 64, 0] : Bytes) ++
    leBytes 2 1024 ++ leBytes 2 256 ++ leBytes 2 256 ++
    leBytes 4 s.place.nearUsable ++ leBytes 4 s.place.deepUsable ++ leBytes 4 s.nearPool ++
    leBytes 2 (match s.fab.did with | some n => 0x8000 + n.toNat | none => 0) ++
    leBytes 1 ((x.party.getD 0).toNat) ++ leBytes 1 (natOf x.party.isSome + 2 * natOf s.ten.isSealed) ++
    leBytes 8 (s.lcntOf moverUnit).toNat ++ zeros 24

def execCaps (d : Nat) (s : State) : Outcome :=
  .next (s.work d 0x38 0 (fun x =>
    match (x.slot 40).map s.resolve with
    | some dst =>
      s.withBlocks srcMovers (.desc x.go) (dst.accs 64 true) (dst.partials 64) (fun s =>
        match s.phaseStatus x dst dst with
        | some st => s.endDesc d st 0 x.noFail
        | none =>
          let r := (pieces dst.off 64).foldl (fun a q => putPiece x dst (sliceBytes (s.capsRecord x) q.1 q.2) a q)
            (s, ({} : Prog))
          r.1.endDesc d r.2.status 0 0)
    | none => s))

end Sys2Proof.Machine
end

