-- ==== Sys2Proof/Machine/Tables.lean ====
section
/-! DEFINITION. TABLE_LOAD descriptors: LOAD, BUILD and DROP (R68, R76 to R87, R118). -/

namespace Sys2Proof.Machine

/-- Store a list under an id: LOADED, owned by the issuer (R81). -/
def State.loadTable (s : State) (id : BitVec 16) (p : BitVec 8) (list : Bytes) : State :=
  { s with comp := { s.comp with
      tables := Table.set s.comp.tables id.toNat { owner := p, list := list, loadRef := true } } }

/-- The id a TABLE_LOAD names. -/
def Desc.tableId (x : Desc) : BitVec 16 := BitVec.ofNat 16 (x.field 24 2)

def execLoad (d : Nat) (h : HostData) (s : State) : Outcome :=
  .next (s.work d 0x28 0 (fun x =>
    match (x.slot 40).map s.resolve, x.party with
    | some sl, some p =>
      s.withBlocks srcMovers (.desc x.go) (sl.accs 128 false) (sl.blocks 128) (fun s =>
        match s.paramBlock x sl 128 (x.got h) with
        | .error st => s.endWith d st (x.got h)
        | .ok list =>
          if s.comp.inUse x.tableId then s.endDesc d St.tableBusy 0 0
          else if !(listOk list) then s.endDesc d St.malformedTable 0 0
          else (s.loadTable x.tableId p list).endDesc d St.ok 0 0)
    | _, _ => s))

/-! ## BUILD (R87, R118) -/

/-- A BUILD at its unit begins its wait. -/
def execBuild (d : Nat) (s : State) : Outcome :=
  .next (s.work d 0x28 1 (fun x => s.setDesc d { x with phase := .working }))

/-- A request that counts into the context, accepted before (or after) `go`: an ENCODE, a REDUCE, or the
blocks of a BPUTE that are not stored yet. -/
def State.counting (s : State) (ctx : Nat) (p : Nat → Bool) : List (Option (BitVec 8)) :=
  let ds := s.chan.descs.filter (fun e =>
    decide ((e.2.opcode = 2 ∧ e.2.subop = 1 ∧ e.2.field 63 1 = ctx) ∨ (e.2.opcode = 0x21 ∧ e.2.redHctx.toNat = ctx)) &&
      decide (e.2.phase ≠ .ended) && !e.2.decided && p e.2.go)
  let js := (s.comp.encQueue ++ s.comp.engines.flatMap (·.2)).filter (fun j =>
    j.core.isSome && decide (j.hctx.map (·.toNat) = some ctx) && p j.order)
  ds.map (fun e => e.2.party) ++ js.map s.jobParty

/-- Counts held aside for which no BUILD waits any longer join the context. -/
def State.joinAside (s : State) (ctx : Nat) : State :=
  let x := s.hctxOf ctx
  let due := fun (e : Nat × Nat) => !(s.buildWaits ctx (e.1 / 256))
  let add := (x.aside.filter due).map (fun (e : Nat × Nat) => (e.1 % 256, e.2))
  let rest := x.aside.filter (fun e => !(due e))
  s.setHctx ctx { x with counts := addCounts x.counts add, aside := rest
                         owner := if add.isEmpty then x.owner else (match x.owner with | some o => some o | none => x.asideBy)
                         asideBy := if rest.isEmpty then none else x.asideBy }

/-- The list a BUILD installs: in replay the recorded one (R469). -/
def State.buildList (s : State) (x : Desc) (ctx : Nat) : Bytes :=
  let own := packLens (buildLens (fun i => Table.get 0 (s.hctxOf ctx).counts i))
  if s.evt.replay then
    (match s.recorded x.chan 5 x.go with | some e => sliceBytes e 32 128 | none => own)
  else own

/-- The BUILD's checks and its effect once its wait is over. -/
def State.runBuild (s : State) (d : Nat) (x : Desc) (p : BitVec 8) : State :=
  let ctx := x.field 26 1
  let id := x.tableId
  if s.comp.inUse id then (s.endDesc d St.tableBusy 0 0).joinAside ctx
  else if !(s.hctxOk ctx p) then (s.endDesc d St.accessDenied 0 0).joinAside ctx
  else
    let list := s.buildList x ctx
    let later := (s.counting ctx (fun o => decide (x.go < o))).findSome? (fun q => q)
    let s1 := (s.loadTable id p list).jrn x.chan 5 5 s.now (some (x.go, x.cls))
      (leBytes 2 id.toNat ++ leBytes 2 0 ++ leBytes 8 x.go ++ leBytes 4 0 ++ list)
    let s2 := s1.setHctx ctx { s1.hctxOf ctx with owner := later, counts := [] }
    (s2.endDesc d St.ok 0 0).joinAside ctx

/-- The wait of a BUILD is over (R118). -/
def State.buildDue (s : State) (x : Desc) : Bool :=
  decide (x.opcode = 0x28 ∧ x.subop = 1 ∧ x.phase = .working) &&
    (s.counting (x.field 26 1) (fun o => decide (o ≤ x.go))).isEmpty

/-- The engine that a BUILD occupies, if it has one. -/
def State.engineOf (s : State) (d : Nat) : Option Nat := (s.comp.engBuild.find? (fun e => decide (e.2 = d))).map Prod.fst

/-- A BUILD whose wait is over and whose checks pass occupies an engine, where one has room (R118). -/
def State.takeEngine (s : State) (d : Nat) (x : Desc) : State :=
  let ok := match x.party with
    | some p => !(s.comp.inUse x.tableId) && s.hctxOk (x.field 26 1) p
    | none => false
  if s.buildDue x && ok && (s.engineOf d).isNone && decide (s.freeEngine.1 < 16) then
    { s with comp := { s.comp with engBuild := Table.set s.comp.engBuild s.freeEngine.1 d } }
  else s

/-- At the end of every count BUILDs whose wait is over occupy engines, in order of acceptance. -/
def State.takeEngines (s : State) : State :=
  (sortBy (fun e => e.2.go) (s.chan.descs.filter (fun e => s.buildDue e.2))).foldl
    (fun (st : State) e => st.takeEngine e.1 e.2) s

/-- The engine of a BUILD is free again and takes waiting blocks. -/
def State.leaveEngine (s : State) (d : Nat) : State :=
  match s.engineOf d with
  | some n => State.feedEngines 3 { s with comp := { s.comp with engBuild := Table.del s.comp.engBuild n } }
  | none => s

/-- A BUILD that occupies an engine, or finds one with room, is done. -/
def execBuildRun (d : Nat) (s : State) : Outcome :=
  .next (
    match s.desc d with
    | none => s
    | some x =>
      match x.party with
      | none => s
      | some p =>
        if s.buildDue x && ((s.engineOf d).isSome || decide (s.freeEngine.1 < 16)) then (s.runBuild d x p).leaveEngine d
        else s)

/-! ## DROP (R81, R83) -/

/-- DROP: `aux` says whether the id was LOADED at acceptance. -/
def execDrop (d : Nat) (s : State) : Outcome :=
  .next (s.work d 0x28 2 (fun x =>
    let id := x.tableId
    match s.table id with
    | some t =>
      if x.aux = 1 ∧ t.loadRef then
        let s1 := s.modTable id (fun e => { e with loadRef := false })
        { s1 with comp := s1.comp.freeIfUnused id }.endDesc d St.ok 0 0
      else (s.raise 0x0205 Sev.notice Uk.tableStore 0 x.chan id.toNat 0).endDesc d St.ok 0 0
    | none => (s.raise 0x0205 Sev.notice Uk.tableStore 0 x.chan id.toNat 0).endDesc d St.ok 0 0))

end Sys2Proof.Machine
end

