-- ==== Sys2Proof/Machine/Order.lean ====
section
/-! DEFINITION. FENCE, GATE_WAIT and GATE_OPEN descriptors, and the steps of PUBLISH and FETCH_VERSION
(R235, R261 to R268, R306 to R308). -/

namespace Sys2Proof.Machine

/-! ## FENCE and gates -/

/-- An earlier descriptor of the channel has not completed. -/
def State.earlier (s : State) (x : Desc) : Bool :=
  s.chan.descs.any (fun e => decide (e.2.chan = x.chan) && decide (e.2.go < x.go))

def execFence (d : Nat) (s : State) : Outcome :=
  .next (s.work d 0x30 0 (fun x => if s.earlier x then s else s.endDesc d St.ok 0 0))

def execGateWait (d : Nat) (s : State) : Outcome :=
  .next (s.work d 0x31 0 (fun x =>
    if s.gateMet (BitVec.ofNat 8 (x.field 24 1)) (BitVec.ofNat 32 (x.field 28 4)) then s.endDesc d St.ok 0 0
    else s))

/-- (DEDUCED, assumption 63.) -/
def execGateOpenAdd (d : Nat) (s : State) : Outcome := .next (s.work d 0x32 0 (fun x => s.performGateOpen d x))

def execGateOpenArm (d : Nat) (s : State) : Outcome := .next (s.work d 0x32 1 (fun x => s.performGateOpen d x))

/-! ## PUBLISH -/

/-- The peer, handle and offset of the slot at `lo`, where it lies on another module. -/
def State.peerAt (s : State) (x : Desc) (lo : Nat) : Option (BitVec 12 × Word) :=
  match (x.slot lo).map s.resolve with | some (.peer did h _) => some (did, h) | _ => none

/-- PUBLISH BEGIN at a peer: the host's bytes are kept until a slot is named (R338). -/
def State.beginPeer (s : State) (d : Nat) (x : Desc) (did : BitVec 12) (hd : Word) (h : HostData) : State :=
  let h := x.got h
  (s.setDesc d { x with phase := .working, data := h.bytes, refused := h.refused }).descReq d x 0 0
    { ptype := pPublish, flags := fOnce, handle := hd
      arg := 256 * (x.field 60 4 % 2 ^ 24) + 2 ^ 32 * x.field 56 4 } did.toNat []

def execPublish (d : Nat) (h : HostData) (s : State) : Outcome :=
  .next (s.work d 0x18 0 (fun x =>
    match s.peerAt x 40, s.regionAt x 40 with
    | some (did, hd), _ => s.beginPeer d x did hd h
    | none, some r =>
      let len := 4096 * x.field 60 4
      (s.nameIds d (match (x.slot 24).map s.resolve with | some sl => s.idsAt sl len | none => [])).publishHere d x r (x.got h)
    | none, none => s))

/-- One block of a PEER publish: a WRITE with FLAGS PUBLISH of its plain bytes into slot `k`.
(DESIGN CHOICE, assumption 18.) -/
def publishSend (d : Nat) (x : Desc) (did : BitVec 12) (hd : Word) (k : Nat) (src : Slot) (a : State × Prog)
    (i : Nat) : State × Prog :=
  let send := fun (b : Bytes) =>
    (a.1.descReq d x i 1 { ptype := pWrite, flags := fPublish, handle := hd, offset := 4096 * i, arg := k } did.toNat b,
      { a.2 with done := a.2.done + 1 })
  if a.2.stop.isSome then a
  else match src with
    | .host _ _ =>
      if x.data.length < 4096 * (i + 1) then (a.1, a.2.halt i x.short)
      else send (sliceBytes x.data (4096 * i) 4096)
    | _ => match a.1.slotPlain (src.plus (4096 * i)) with
      | .bytes b => send b
      | .poisoned => (a.1, a.2.halt i St.poisoned)
      | .invalid => (a.1, a.2.halt i St.huskInvalid)

/-- The BEGIN of a PEER publish was answered with slot `k`: its blocks are sent. -/
def State.publishTo (s : State) (d : Nat) (x : Desc) (k : Nat) : State :=
  match s.peerAt x 40, (x.slot 24).map s.resolve with
  | some (did, hd), some src =>
    let n := x.field 60 4
    let r := (List.range n).foldl (publishSend d x did hd k src) (s.nameIds d (s.idsAt src (4096 * n)), {})
    r.1.modDesc d (fun y => { y.withProg r.2 with aux := k + 1, data := [] })
  | _, _ => s

/-- PUBLISH COMMIT at a peer, once every block is answered; a publish that stopped ends with its status
and its slot is left to the peer. -/
def State.commitPeer (s : State) (d : Nat) (x : Desc) (did : BitVec 12) (hd : Word) : State :=
  if x.aux = 0 ∨ x.aux2 ≠ 0 ∨ !x.peers.isEmpty then s
  else match x.stop with
    | some st => s.endDesc d st (BitVec.ofNat 64 x.done)
        (if st = St.translationFault then x.refused.getD 0 else match x.bad with | some i => BitVec.ofNat 64 i | none => allOnes)
    | none =>
      (s.setDesc d { x with aux2 := 1 }).descReq d x 0 0
        { ptype := pPublish, flags := fOnce, handle := hd
          arg := 1 + 256 * (x.field 60 4 % 2 ^ 24) + 2 ^ 32 * x.field 56 4 } did.toNat []

/-- A PUBLISH's last block has landed: it commits at the end of the count; at a peer, its COMMIT is sent (R307). -/
def execPublishCommit (d : Nat) (s : State) : Outcome :=
  .next (
    match s.desc d with
    | none => s
    | some x =>
      if x.opcode ≠ 0x18 ∨ x.phase ≠ .working then s
      else match s.peerAt x 40, s.regionAt x 40 with
        | some (did, hd), _ => s.commitPeer d x did hd
        | none, some r => s.land r (.desc d)
        | none, none => s)

/-! ## FETCH_VERSION -/

/-- VERSION OPEN at a peer (R338). -/
def State.openPeer (s : State) (d : Nat) (x : Desc) (did : BitVec 12) (hd : Word) : State :=
  (s.setDesc d { x with phase := .working }).descReq d x 0 0
    { ptype := pVersion, flags := fOnce, handle := hd, arg := 2 ^ 32 * x.field 56 4 } did.toNat []

def execFetchVersion (d : Nat) (s : State) : Outcome :=
  .next (s.work d 0x19 0 (fun x =>
    match s.peerAt x 24, s.regionAt x 24 with
    | some (did, hd), _ => s.openPeer d x did hd
    | none, some r =>
      let ids := match s.extent r with
        | some e => if x.aux = 0 then [] else
            s.idsOf (.ext r (4096 * e.slotBase (x.aux - 1))) (min (x.field 60 4) (e.vslot (x.aux - 1)).blocks)
        | none => []
      (s.nameIds d ids).fetchHere d x r
    | none, none => s))

/-- OPEN was answered with a version and its blocks: they are read plain.
(DESIGN CHOICE, assumption 18.) -/
def State.fetchFrom (s : State) (d : Nat) (x : Desc) (v : Word) (blocks : Nat) : State :=
  match s.peerAt x 24 with
  | none => s
  | some (did, hd) =>
    let n := min (x.field 60 4) blocks
    if v = 0 then s.endDesc d St.ok 0 0
    else
      (List.range n).foldl (fun (st : State) i => st.descReq d x i 1
        { ptype := pRead, flags := fPublish + fPlain, handle := hd, offset := 4096 * i
          arg := 4096 + 2 ^ 32 * v.toNat } did.toNat [])
        (s.modDesc d (fun y => { y with aux := 1, aux2 := v.toNat }))

/-- Every block has arrived: CLOSE drops the reader. -/
def State.closePeer (s : State) (d : Nat) (x : Desc) : State :=
  match s.peerAt x 24 with
  | none => s
  | some (did, hd) =>
    (s.setDesc d { x with aux := 2 }).descReq d x 0 0
      { ptype := pVersion, flags := fOnce, handle := hd, arg := 1 + 2 ^ 32 * x.aux2 } did.toNat []

end Sys2Proof.Machine
end

