-- ==== Sys2Proof/Machine/Shadow.lean ====
section
/-! DEFINITION. Shadows of the set-up registers: pending writes, the fields they name, and how those whose
boundary has come are taken out and applied in order of arrival (R18, R498 to R500). -/

namespace Sys2Proof.Machine

/-- Block numbers, BAR0 bits [23:16] (R13). -/
inductive Blk where
  | ident | clk | host | chan | qos | tier | comp | fab | ten | rel | sec | evt | win | pod | lch
  deriving DecidableEq, Repr

/-- The number of a block. -/
def Blk.num : Blk → Nat
  | .ident => 0 | .clk => 1 | .host => 2 | .chan => 3 | .qos => 4 | .tier => 5 | .comp => 6 | .fab => 7
  | .ten => 8 | .rel => 9 | .sec => 10 | .evt => 11 | .win => 12 | .pod => 13 | .lch => 14

/-- The block of a number. -/
def Blk.ofNum : Nat → Option Blk
  | 0 => some .ident | 1 => some .clk | 2 => some .host | 3 => some .chan | 4 => some .qos | 5 => some .tier
  | 6 => some .comp | 7 => some .fab | 8 => some .ten | 9 => some .rel | 10 => some .sec | 11 => some .evt
  | 12 => some .win | 13 => some .pod | 14 => some .lch | _ => none

/-- The pending write names bit `lo` among those that apply. -/
def PendWrite.has (p : PendWrite) (lo : Nat) : Bool := p.mask.getLsbD lo

/-- The field of `w` bits at `lo`, as the write leaves it. -/
def PendWrite.bits {w : Nat} (p : PendWrite) (lo : Nat) (old : BitVec w) : BitVec w :=
  if p.has lo then (p.value >>> lo).setWidth w else old

/-- The bit at `lo`, as the write leaves it. -/
def PendWrite.bit (p : PendWrite) (lo : Nat) (old : Bool) : Bool := if p.has lo then p.value.getLsbD lo else old

/-- A write-one-to-clear bit at `lo` (R502). -/
def PendWrite.w1c (p : PendWrite) (lo : Nat) (old : Bool) : Bool := old && !(p.has lo && p.value.getLsbD lo)

/-- The number in the field of `w` bits at `lo`. -/
def PendWrite.num (p : PendWrite) (lo w : Nat) : Nat := bitsOf p.value.toNat (lo + w - 1) lo

/-- The writes that wait in a block's shadows (R498). -/
def State.pendOf (s : State) (b : Blk) : List PendWrite := s.regs.shadows.filter (fun p => decide (p.block = b.num))

/-- The block's PENDING bit. -/
def State.hasPend (s : State) (b : Blk) : Bool := s.regs.shadows.any (fun p => decide (p.block = b.num))

/-- The part of a write under a mask; nothing where no bit is left. -/
def PendWrite.part (p : PendWrite) (m : Word) : Option PendWrite :=
  if p.mask &&& m = 0 then none else some { p with mask := p.mask &&& m }

/-- The block may apply writes now: only IDENT, CLK, SEC and EVT before the module is locally ready, not CLK in
recovery; SEC and EVT wait while Pip resets (R428, R436, R501, R503).
(DESIGN CHOICE, assumption 106.) -/
def State.mayApply (s : State) (b : Blk) : Bool :=
  match b with
  | .ident => true
  | .clk => decide (s.power.boot ≠ .recovery)
  | .sec => !(s.unitDown .pip 0)
  | .evt => !(s.unitDown .pip 0)
  | _ => s.isReady

/-- The bits `sel` names, of a block that may apply writes now. -/
def State.selNow (s : State) (sel : PendWrite → Word) (p : PendWrite) : Word :=
  match Blk.ofNum p.block with
  | some b => if s.mayApply b then sel p else 0
  | none => 0

/-- Take the bits `sel` names out of the shadows and give them to `f`, in order of arrival. -/
def State.applyPend (s : State) (sel : PendWrite → Word) (f : State → PendWrite → State) : State :=
  let all := s.regs.shadows
  (all.filterMap (fun p => p.part (s.selNow sel p))).foldl f
    { s with regs := { s.regs with shadows := all.filterMap (fun p => p.part (~~~ (s.selNow sel p))) } }

/-- Discard the bits `sel` names. -/
def State.dropPend (s : State) (sel : PendWrite → Word) : State :=
  { s with regs := { s.regs with shadows := s.regs.shadows.filterMap (fun p => p.part (~~~ (s.selNow sel p))) } }

/-- Two writes reach the same shadow: the same register of the same instance. -/
def PendWrite.same (p q : PendWrite) : Bool :=
  decide (p.block = q.block) && decide (p.off = q.off) && decide (p.inst = q.inst)

/-- The bits of a register where a write of 0 leaves an earlier write of 1 standing: W1C bits, and action
bits, whose merged writes of 1 act once (R502). -/
def stickyBits (block off : Nat) : Word :=
  match block, off with
  | 1, 0x00 => 0x00000100 | 1, 0x18 => 0x0000007F | 1, 0x120 => 0x80000000
  | 2, 0x08 => 0x00010000
  | 3, 0x00 => 0x00000002 | 4, 0x00 => 0x00000002
  | 7, 0x1C => 0x00000100
  | 10, 0x00 => 0x00000008 | 10, 0x0C => 0x00000001 | 10, 0x34 => 0x00000001
  | 11, 0x00 => 0x00000010 | 11, 0x68 => 0x00000002
  | 12, 0x00 => 0x00000002 | 12, 0x08 => 0x00000001
  | _, _ => 0

/-- A later write on top of one that waits in the same shadow (R19): it takes its place, sticky bits add up,
and masked writes (IDENT) merge bit by bit. -/
def PendWrite.merge (old new : PendWrite) : PendWrite :=
  let v :=
    if old.block = 0 then
      let m := (new.value >>> 16) &&& 0xFFFF
      (old.value &&& 0xFFFF &&& ~~~ m) ||| (new.value &&& 0xFFFF &&& m) |||
        ((old.value ||| new.value) &&& 0xFFFF0000)
    else new.value ||| (old.value &&& old.mask &&& stickyBits old.block old.off)
  { new with value := v, mask := old.mask ||| new.mask }

/-- A write joins its shadow: it merges with one that waits there (R19), and counts as arriving last. -/
def State.addPend (s : State) (p : PendWrite) : State :=
  let new := match s.regs.shadows.find? p.same with | some q => q.merge p | none => p
  { s with regs := { s.regs with shadows := s.regs.shadows.filter (fun q => !(p.same q)) ++ [new] } }

/-- Every bit of the writes to one offset of a block. -/
def onReg (b : Blk) (off : Nat) (p : PendWrite) : Word :=
  if p.block = b.num ∧ p.off = off then 0xFFFFFFFF else 0

end Sys2Proof.Machine
end

