-- ==== Sys2Proof/Machine/Z7.lean ====
section
/-! DEFINITION. The Z7 window mode: windows, directory, window requests, epochs (R366 to R380). -/

namespace Sys2Proof.Machine

/-! ## Windows (R367 to R369) -/

/-- log2 of the window's size: the five bits of LOG2_SIZE name 28 to 31 and, as 0 to 4, 32 to 36
(DESIGN CHOICE, assumption 50); none for any other value. -/
def ZWin.log (w : ZWin) : Option Nat :=
  if 28 ≤ w.log2.toNat then some w.log2.toNat
  else if w.log2.toNat ≤ 4 then some (32 + w.log2.toNat)
  else none

/-- (DEDUCED, assumption 50.) -/
def ZWin.size (w : ZWin) : Nat := match w.log with | some n => 2 ^ n | none => 0

/-- The window covers the DPA on the port. -/
def ZWin.covers (w : ZWin) (port dpa : Nat) : Bool :=
  w.en && decide (w.port.toNat = port) && decide (w.base.toNat ≤ dpa) && decide (dpa < w.base.toNat + w.size)

/-- Window number, window and byte offset in its extent that a mapping gives a DPA of a port. -/
def zmap (wins : Table ZWin) (port dpa : Nat) : Option (Nat × ZWin × Nat) :=
  (wins.find? (fun e => e.2.covers port dpa)).map (fun (e : Nat × ZWin) =>
    (e.1, e.2, e.2.off.toNat * 268435456 + (dpa - e.2.base.toNat)))

/-- Extent and byte that a mapping gives a DPA. -/
def zloc (wins : Table ZWin) (port dpa : Nat) : Option (Word × Nat) :=
  (zmap wins port dpa).map (fun x => (x.2.1.handle, x.2.2))

/-- The mapping of an epoch: the applied one, or an older one still in use. -/
def State.winsOf (s : State) (epoch : Word) : Table ZWin :=
  if epoch = s.host.epoch then s.host.wins
  else match s.host.old.find? (fun e => decide (e.1 = epoch)) with
    | some e => e.2
    | none => []

/-- Two windows of one port overlap. -/
def ZWin.overlaps (a b : ZWin) : Bool :=
  decide (a.port = b.port) && decide (a.base.toNat < b.base.toNat + b.size) &&
    decide (b.base.toNat < a.base.toNat + a.size)

/-- Window `n` of a configuration meets R368. -/
def State.winOk (s : State) (wins : Table ZWin) (n : Nat) (w : ZWin) : Bool :=
  decide (w.port.toNat < s.variant.hostPorts) && w.log.isSome &&
    decide (w.base.toNat % w.size = 0) && decide (w.base.toNat + w.size ≤ 2 ^ 39) &&
    !(wins.any (fun e => decide (e.1 ≠ n) && e.2.en && e.2.overlaps w)) &&
    (s.gpid w.party).isSome &&
    (match s.extent w.handle with
     | some e => decide (e.state = .owned) && decide (e.owner = some w.party) && decide (e.kind = .pinnedNear) &&
         decide (e.vslots = 0) && decide (w.off.toNat * 268435456 + w.size ≤ e.size)
     | none => false)

/-- The first window of a configuration that fails R368. -/
def State.badWin (s : State) (wins : Table ZWin) : Option Nat :=
  (wins.find? (fun e => e.2.en && !(s.winOk wins e.1 e.2))).map Prod.fst

/-! ## The directory (R370, R371) -/

/-- Change an entry of the directory. -/
def State.setDir (s : State) (f : DirEnt → DirEnt) : State := { s with host := { s.host with dir := s.host.dir.map f } }

/-- The entry of a line. -/
def State.dirEnt (s : State) (port : Nat) (dpa : BitVec 39) : Option DirEnt :=
  s.host.dir.find? (fun e => decide (e.port = port) && decide (e.dpa = dpa))

/-- The entry is that of the line. -/
def DirEnt.isAt (e : DirEnt) (port : Nat) (dpa : BitVec 39) : Bool := decide (e.port = port) && decide (e.dpa = dpa)

/-- Back-invalidation of the holders that `p` names becomes due. -/
def DirEnt.snoop (e : DirEnt) (p : Nat → Bool) : DirEnt :=
  { e with due := e.due ++ e.holders.filter (fun h => p h && !(e.due.contains h) && !(e.snooped.contains h)) }

/-- Back-invalidations outstanding on a port. -/
def State.snoopsOut (s : State) (port : Nat) : Nat :=
  (s.host.dir.filter (fun e => decide (e.port = port))).foldl (fun a e => a + e.snooped.length) 0

/-- Issue one due back-invalidation of an entry if the port has fewer than 512 outstanding. -/
def issueOne (s : State) (e : DirEnt) : State :=
  match e.due with
  | [] => s
  | h :: r =>
    if 512 ≤ s.snoopsOut e.port then s
    else
      let s1 := s.setDir (fun x => if x.isAt e.port e.dpa then { x with due := r, snooped := x.snooped ++ [h] } else x)
      ({ s1 with host := { s1.host with bisnps := s1.host.bisnps + 1 } }).send (.bisnp e.port h e.dpa)

/-- Issue every back-invalidation that may be: `n` passes over the entries, one holder each. -/
def State.issueSnoops (s : State) : Nat → State
  | 0 => s
  | n + 1 => (s.host.dir.foldl issueOne s).issueSnoops n

/-- Issue what is due; an entry has at most eight holders. -/
def State.snoopAll (s : State) : State := s.issueSnoops 8

/-- Make back-invalidation due on the entries that `p` names, and issue it. -/
def State.invalidate (s : State) (p : DirEnt → Bool) : State :=
  (s.setDir (fun e => if p e then e.snoop (fun _ => true) else e)).snoopAll

/-- Entries the directory holds at most. -/
def dirSize : Nat := 16777216

/-- The least recently granted entry. -/
def State.oldestEnt (s : State) : Option DirEnt :=
  s.host.dir.foldl (fun (a : Option DirEnt) e =>
    match a with | none => some e | some b => if e.order < b.order then some e else a) none

/-! ## Serving a request (R369, R371, R375) -/

/-- The port serves window traffic (R366). -/
def State.zport (s : State) (p : Nat) : Bool :=
  let h := s.hport p
  h.up && h.memEn && h.hdmEn && (match h.link with | some l => l.mem && decide (l.cxl = 2) | none => false)

/-- Sixty-four bytes of ones. -/
def onesLine : BitVec 512 := BitVec.allOnes 512

/-- Answer a request: data for a read, a completion for a write. -/
def State.answerZ (s : State) (r : ZReq) (data : BitVec 512) (poison : Bool) : State :=
  match r.write with
  | none => s.send (.memData r.port r.spid r.dpa data poison)
  | some _ => s.send (.memCmp r.port r.spid r.dpa)

/-- Log an error of a port in AER, with whether the host has made its severity fatal (R361; what
the log holds: DEDUCED, assumption 107). -/
def State.logAer (s : State) (p : Nat) (e : AerErr) : State :=
  s.setHport p { s.hport p with aer := (s.hport p).aer ++ [(e, (s.hport p).severe.contains e)] }

/-- UR on CXL.mem (R369). -/
def State.urZ (s : State) (r : ZReq) : State :=
  let s1 := (s.answerZ r onesLine true).logAer r.port .unsupportedRequest
  { s1 with host := { s1.host with winUr := s1.host.winUr + 1 } }

/-- The line's 64 bytes at an extent's byte. -/
def State.readLine64 (s : State) (h : Word) (off : Nat) : BitVec 512 :=
  BitVec.ofNat 512 (leNat (Store.read s.ten.mem (extByteKey h off) 64))

/-- Write a line at an extent's byte; a read-only-degraded extent takes no write (R422). -/
def State.writeLine64 (s : State) (h : Word) (off : Nat) (data : BitVec 512) : State :=
  if s.readOnly h then s else (s.mergeBlk h off (leBytes 64 data.toNat)).crossBlk h (off / 4096)

/-- The block is raw and not poisoned. -/
def State.lineOk (s : State) (h : Word) (off : Nat) : Bool :=
  let w := s.blkMeta h (off / 4096)
  decide (mwTag w = 0x3F) && !(mwPoison w)

/-- The window request meets a husk or a poisoned block: counted, with its event. -/
def State.formErrZ (s : State) (r : ZReq) (win : Nat) (h : Word) (off : Nat) : State :=
  let s1 := s.answerZ r onesLine true
  ({ s1 with host := { s1.host with formErr := s1.host.formErr + 1 } }).raise 0x0110 Sev.notice Uk.window win
    win h.toNat (off / 4096)

/-- The line is granted to a reader: a new entry, or the reader among the holders of its entry. An entry of
an older epoch whose line has since been mapped differently is back-invalidated at once (R374). -/
def State.grantZ (s : State) (r : ZReq) (h : Word) (off : Nat) : State :=
  let n := s.host.grants + 1
  let s1 := { s with host := { s.host with grants := n } }
  let s2 := match s1.dirEnt r.port r.dpa with
    | some _ => s1.setDir (fun e => if e.isAt r.port r.dpa then
        { e with excl := r.excl, holders := e.holders.filter (fun x => decide (x ≠ r.spid)) ++ [r.spid], order := n } else e)
    | none => { s1 with host := { s1.host with dir := s1.host.dir ++
        [{ port := r.port, dpa := r.dpa, handle := h, off := off, epoch := r.epoch, excl := r.excl
           holders := [r.spid], order := n }] } }
  if r.epoch ≠ s2.host.epoch ∧ zloc s2.host.wins r.port r.dpa.toNat ≠ some (h, off) then
    s2.invalidate (fun e => e.isAt r.port r.dpa)
  else s2

/-- What a request must wait for: the holders to be back-invalidated first, in this order of the rules: an
entry of another epoch; every other holder before an exclusive grant or a write; an exclusive holder, or
the least recently granted of eight, before a shared grant. None: it waits for nothing. -/
def DirEnt.blocks (e : DirEnt) (r : ZReq) : Option (Nat → Bool) :=
  if e.epoch ≠ r.epoch then some (fun _ => true)
  else
    let other := fun (h : Nat) => decide (h ≠ r.spid)
    if r.write.isSome || r.excl then (if e.holders.any other then some other else none)
    else if e.excl then (if e.holders.any other then some other else none)
    else if 8 ≤ e.holders.length ∧ !(e.holders.contains r.spid) then
      (match e.holders with | h :: _ => some (fun x => decide (x = h)) | [] => none)
    else none

/-- Served under its mapping: one transaction of the window's class at the port. -/
def State.serveZ (s : State) (r : ZReq) (n : Nat) (w : ZWin) (off : Nat) : State :=
  let s1 := s.charge (64 + r.port) w.cls (some w.party) 1
  if !(s1.lineOk w.handle off) then s1.formErrZ r n w.handle off
  else match r.write with
    | some data => (s1.writeLine64 w.handle off data).answerZ r 0 false
    | none => (s1.answerZ r (s1.readLine64 w.handle off) false).grantZ r w.handle off

/-- One attempt at a request: served, or made to wait (true). -/
def State.tryZ (s : State) (r : ZReq) : State × Bool :=
  match zmap (s.winsOf r.epoch) r.port r.dpa.toNat with
  | none => (s.urZ r, false)
  | some (n, w, off) =>
    match s.dirEnt r.port r.dpa with
    | some e =>
      match e.blocks r with
      | some p => ((s.setDir (fun x => if x.isAt r.port r.dpa then x.snoop p else x)).snoopAll, true)
      | none => (s.serveZ r n w off, false)
    | none =>
      if r.write.isNone ∧ dirSize ≤ s.host.dir.length then
        match s.oldestEnt with
        | some o =>
          if o.due.isEmpty && o.snooped.isEmpty then
            let s1 := s.invalidate (fun e => e.isAt o.port o.dpa)
            ({ s1 with host := { s1.host with dirOvf := s1.host.dirOvf + 1 } }, true)
          else (s, true)
        | none => (s, true)
      else (s.serveZ r n w off, false)

/-- Requests that wait are tried again in order of arrival; those that still wait stay. -/
def State.retryZ (s : State) : State :=
  if !s.active then s
  else s.host.waits.foldl (fun (st : State) r =>
    let x := st.tryZ r
    if x.2 then { x.1 with host := { x.1.host with waits := x.1.host.waits ++ [r] } } else x.1)
    { s with host := { s.host with waits := [] } }

/-- Hold a window request until ACTIVE (R255): one that will be served, or that will be answered UR. -/
def State.holdZ (s : State) (r : ZReq) (ok : Bool) : State :=
  (if ok then { s with host := { s.host with waits := s.host.waits ++ [r] } }
   else { s with host := { s.host with asks := s.host.asks ++ [HostAsk.window r] } }).wake Wk.host

/-- A window request arrives: tagged with the current epoch; held until ACTIVE while the module sleeps
(R255, R374). A port in D3hot takes none (R256). -/
def State.arriveZ (s : State) (r : ZReq) : State :=
  if (s.hport r.port).d3hot then s
  else if !s.active then s.holdZ r (s.zport r.port)
  else if !(s.zport r.port) then s.urZ r
  else
    let x := s.tryZ r
    if x.2 then { x.1 with host := { x.1.host with waits := x.1.host.waits ++ [r] } } else x.1

/-- The DPA of the line that holds an address. -/
def dpaLine (dpa : BitVec 39) : BitVec 39 := dpa &&& ~~~ 63#39

def execMemrd (port spid : Nat) (dpa : BitVec 39) (excl : Bool) (s : State) : Outcome :=
  .next (s.arriveZ ⟨port, spid, dpaLine dpa, none, excl, s.host.epoch, 0⟩)

/-- A write as it arrives: it takes the next order number (R373). -/
def State.writeZ (s : State) (port spid : Nat) (dpa : BitVec 39) (data : BitVec 512) : ZReq :=
  ⟨port, spid, dpaLine dpa, some data, false, s.host.epoch, s.host.grants + 1⟩

/-- The order number is taken. -/
def State.numberZ (s : State) : State := { s with host := { s.host with grants := s.host.grants + 1 } }

def execMemwr (port spid : Nat) (dpa : BitVec 39) (data : BitVec 512) (s : State) : Outcome :=
  .next (s.numberZ.arriveZ (s.writeZ port spid dpa data))

/-- A partial write is served only with every byte enable set; otherwise UR (R369). -/
def execMemwrptl (port spid : Nat) (dpa : BitVec 39) (data : BitVec 512) (be : BitVec 64) (s : State) : Outcome :=
  .next (
    let r := s.writeZ port spid dpa data
    if be = BitVec.allOnes 64 ∨ (s.hport port).d3hot then s.numberZ.arriveZ r
    else if s.active then s.urZ r else s.holdZ r false)

/-! ## Acknowledgments and write-backs (R371) -/

/-- Dirty data land at the location the entry records. -/
def State.landZ (s : State) (e : DirEnt) (data : BitVec 512) : State :=
  if s.lineOk e.handle e.off then s.writeLine64 e.handle e.off data else s

/-- A holder no longer holds the line; an entry without holders is gone. -/
def State.dropHolder (s : State) (port : Nat) (dpa : BitVec 39) (spid : Nat) : State :=
  let f := fun (e : DirEnt) => if e.isAt port dpa then
    { e with holders := e.holders.filter (fun x => decide (x ≠ spid)), due := e.due.filter (fun x => decide (x ≠ spid))
             snooped := e.snooped.filter (fun x => decide (x ≠ spid)) } else e
  { s with host := { s.host with dir := (s.host.dir.map f).filter (fun e => !e.holders.isEmpty) } }

def execBisnpAck (port : Nat) (dpa : BitVec 39) (spid : Nat) (dirty : Option (BitVec 512)) (s : State) : Outcome :=
  .next (
    match s.dirEnt port (dpaLine dpa) with
    | some e =>
      if e.snooped.contains spid then
        let s1 := match dirty with | some x => if e.excl then s.landZ e x else s | none => s
        (s1.dropHolder port (dpaLine dpa) spid).snoopAll.retryZ
      else s
    | none => s)

def execDirtyWriteback (port : Nat) (dpa : BitVec 39) (spid : Nat) (data : BitVec 512) (s : State) : Outcome :=
  .next (
    match s.dirEnt port (dpaLine dpa) with
    | some e =>
      if e.excl && e.holders.contains spid then
        ((s.landZ e data).dropHolder port (dpaLine dpa) spid).snoopAll.retryZ
      else s
    | none => s)

/-! ## Epochs (R374 to R376) -/

/-- The shadow of one window: its pending writes over its applied values. -/
def winWrite (wins : Table ZWin) (p : PendWrite) : Table ZWin :=
  let w := Table.get {} wins p.inst
  let w' : ZWin := match p.off with
    | 0x10 => { w with en := p.bit 31 w.en, port := p.bits 28 w.port, log2 := p.bits 16 w.log2
                       party := p.bits 8 w.party, cls := p.bits 0 w.cls }
    | 0x14 => { w with base := BitVec.ofNat 39 (w.base.toNat / 2 ^ 32 * 2 ^ 32 + p.num 28 4 * 2 ^ 28) }
    | 0x18 => { w with base := BitVec.ofNat 39 (p.num 0 7 * 2 ^ 32 + w.base.toNat % 2 ^ 32) }
    | 0x1C => { w with handle := p.value }
    | 0x20 => { w with off := p.bits 0 w.off }
    | _ => w
  Table.put {} wins p.inst w'

/-- The writes that form the window shadow. -/
def winShadow (p : PendWrite) : Word :=
  if p.block = Blk.win.num ∧ 0x10 ≤ p.off ∧ p.off ≤ 0x20 then 0xFFFFFFFF else 0

/-- The mapping that the shadow forms. -/
def State.shadowWins (s : State) : Table ZWin :=
  (s.regs.shadows.filter (fun p => decide (winShadow p ≠ 0))).foldl winWrite s.host.wins

/-- Steps 3 and 4 of R374: the new mapping, and back-invalidation of what it maps differently. -/
def State.switchTo (s : State) (wins : Table ZWin) : State :=
  let s1 := { s with host := { s.host with
    old := s.host.old ++ [(s.host.epoch, s.host.wins)], epoch := s.host.epoch + 1, wins := wins, switching := true } }
  s1.invalidate (fun e => decide (zloc wins e.port e.dpa.toNat ≠ some (e.handle, e.off)))

/-- GO: the shadow is checked and switched to, or discarded. -/
def State.winGo (s : State) : State :=
  let wins := s.shadowWins
  let s1 := s.dropPend winShadow
  match s.badWin wins with
  | some n =>
    ({ s1 with host := { s1.host with reject := true, goWait := false } }).raise 0x0111 Sev.notice Uk.window n n 0 0
  | none => { (s1.switchTo wins) with host := { (s1.switchTo wins).host with goWait := false } }

/-- GO is written: the switch comes at the end of its count, or of the count in which SWITCHING clears. -/
def State.winSwitch (s : State) : State := { s with host := { s.host with goWait := true } }

/-- The end of a count: a GO that waits for no earlier switch is checked and switched to. -/
def State.winTurn (s : State) : State := if s.host.goWait && !s.host.switching then s.winGo else s

def execWinSwitchGo (s : State) : Outcome := .next s.winSwitch

/-- Some enabled window of the mapping maps the extent. -/
def mapsExtent (wins : Table ZWin) (h : Word) : Bool := wins.any (fun e => e.2.en && decide (e.2.handle = h))

/-- A revocation point disables every window of the extent at a new epoch; the shadow stands. -/
def State.switchRevoke (s : State) (h : Word) : State :=
  if mapsExtent s.host.wins h then
    s.switchTo (s.host.wins.map (fun (e : Nat × ZWin) => if e.2.handle = h then (e.1, { e.2 with en := false }) else e))
  else s

/-- Nothing of an older epoch is left: no request waits, and no line that the mapping changed is held. -/
def State.epochDrained (s : State) : Bool :=
  !(s.host.waits.any (fun r => decide (r.epoch ≠ s.host.epoch))) &&
    !(s.host.dir.any (fun e => decide (zloc s.host.wins e.port e.dpa.toNat ≠ some (e.handle, e.off))))

def execEpochDrainEnd (s : State) : Outcome :=
  .next (
    if s.host.switching && s.epochDrained then { s with host := { s.host with switching := false, old := [] } } else s)

/-- Back-invalidation of an extent's window lines, and the switch that removed its windows, are done
(R305, R376).
(DESIGN CHOICE, assumption 28.) -/
def State.windowsGone (s : State) (h : Word) : Bool :=
  !(s.host.dir.any (fun e => decide (e.handle = h))) &&
    !(s.host.switching && s.host.old.any (fun e => mapsExtent e.2 h))

/-! ## Native brackets (R373) -/

/-- The entry belongs to a window of the applied mapping. -/
def State.entOf (s : State) (n : Nat) (e : DirEnt) : Bool :=
  match zmap s.host.wins e.port e.dpa.toNat with | some x => decide (x.1 = n) | none => false

/-- Back-invalidate the lines of window `n` granted from `lo` on. -/
def State.invalidateWin (s : State) (n lo : Nat) : State :=
  s.invalidate (fun e => s.entOf n e && decide (lo ≤ e.order))

/-- No line of window `n` granted from `lo` on and before `hi` is held. -/
def State.winClear (s : State) (n lo hi : Nat) : Bool :=
  !(s.host.dir.any (fun e => s.entOf n e && decide (lo ≤ e.order) && decide (e.order < hi)))

/-! ## Link loss (R377) -/

/-- A port that carries windows loses its link; the host requests it held for the module's wake are gone too. -/
def State.windowsLost (s : State) (port : Nat) : State :=
  let lost := (s.host.dir.filter (fun e => decide (e.port = port) && e.excl)).length
  let s1 := { s with host := { s.host with
    waits := s.host.waits.filter (fun r => decide (r.port ≠ port))
    asks := s.host.asks.filter (fun a => decide (a.port ≠ port))
    dir := s.host.dir.filter (fun e => decide (e.port ≠ port)) } }
  if s.host.wins.any (fun e => e.2.en && decide (e.2.port.toNat = port)) then
    (s1.raise 0x0112 Sev.error Uk.window port port lost 0).retryZ
  else s1.retryZ

end Sys2Proof.Machine
end

