-- ==== Sys2Proof/Machine/Gates.lean ====
section
/-! DEFINITION. The end of a count, module states, wakes and the references (R246 to R269). -/

namespace Sys2Proof.Machine

/-! ## Gates at the end of a count (R265, R266) -/

/-- T once the ARMs that started in the count are performed, in ascending channel number and on one channel in order
of acceptance (R265). -/
def Gate.order (x : Gate) : List (Nat × Nat × Word) := sortBy (fun y => y.1) (sortBy (fun y => y.2.1) x.starts)
def Gate.started (x : Gate) : Word := x.order.foldl (fun _ y => y.2.2) x.t

/-- A gate at the end of a count: the ARMs started in it, completions, remote ARMs in arrival order, the open test. -/
def Gate.endCount (x : Gate) (g : Nat) (now : DWord) : Gate :=
  let c := x.c + x.adds
  let t := x.arms.foldl (fun _ v => v) x.started
  let isOpen := x.geq g now.toNat c t
  { x with c := c, t := t, adds := 0, starts := [], arms := []
           openAt := if isOpen && !x.wasOpen then now else x.openAt
           wasOpen := isOpen }

/-- Every gate. -/
def State.endGates (s : State) : State :=
  s.clk.gates.foldl (fun (st : State) e => st.setGate (BitVec.ofNat 8 e.1) (e.2.endCount e.1 st.clk.lcnt)) s

/-- A MODE 2 descriptor whose gate has reached its target learns its start count (R259, R266). -/
def State.learnStart (s : State) (x : Desc) : Desc :=
  if x.mode = 2 ∧ x.start = none ∧ s.gateMet x.launchGate x.target then
    { x with start := some (s.now + x.launchDelta), known := s.now }
  else x

/-- Every waiting descriptor. -/
def State.learnStarts (s : State) : State :=
  { s with chan := { s.chan with descs := s.chan.descs.map (fun (e : Nat × Desc) => (e.1, s.learnStart e.2)) } }

/-- ARMs of several channels that started in the count meet at their gate (R265, R464). -/
def State.meetArms (s : State) : State :=
  s.clk.gates.foldl (fun (st : State) e => st.jrnMeet 5 (e.2.order.map (fun y => (y.1, y.2.1)))) s

/-- What the gates do at the end of a count. -/
def State.countEnd (s : State) : State := s.meetArms.endGates.learnStarts

def execGateCountEnd (s : State) : Outcome := .next s.countEnd

/-! ## Quiet and the sleep states (R250 to R252) -/

/-- The module is quiet (R251). -/
def State.quiet (s : State) : Bool :=
  !(s.pods.pods.any (fun e => decide (e.2.state = .running ∨ e.2.state = .loading ∨ e.2.state = .saving))) &&
    !(s.chan.descs.any (fun e => decide (e.2.phase ≠ .accepted))) && decide (s.heldBufs = 0) &&
    s.comp.encQueue.isEmpty && s.comp.engines.isEmpty && s.comp.engBuild.isEmpty &&
    !(s.comp.banks.any (fun e => decide (1000 ≤ e.1) && !e.2.queue.isEmpty)) &&
    !(s.place.tracts.any (fun e => decide (e.2.state = .promoting ∨ e.2.state = .evicting) || e.2.fetching || e.2.moving)) &&
    !(s.fab.reqs.any (fun e => decide (e.2.pkt.ptype = pGate)))

/-- The module works at all: every memory is up (R250, D0). -/
def State.inD0 (s : State) : Bool := decide (s.power.boot = .ready)

def execEnterIdle (s : State) : Outcome :=
  .next (if s.unitDown .pip 0 then s else
    let k := s.clk
    if s.active && k.idleEn && s.quiet && s.inD0 && decide (k.idleDelay.toNat ≤ k.quietFor) then
      { s with clk := { k with mstate := .idle, idleFor := 0, quietFor := 0 } }
    else s)

/-- The start counts that are known of descriptors that wait for them. -/
def State.launchCounts (s : State) : List (Nat × Nat) :=
  s.chan.descs.filterMap (fun e =>
    if e.2.phase = .accepted then e.2.start.map (fun t => (t, e.2.known)) else none)

/-- SLEEP_REQ on every UP port that may sleep (R325). -/
def State.askSleep (s : State) : State :=
  (s.fab.ports.filter (fun e => decide (e.2.state = .up) && e.2.sleepEn)).foldl
    (fun (st : State) e => (st.setFport e.1 { st.fport e.1 with asked := true }).sendLink e.1 [4]) s

/-- Stacks in READY enter self-refresh, or leave it (R250, R402). -/
def State.selfRefresh (s : State) (on : Bool) : State :=
  { s with rel := { s.rel with stks := s.rel.stks.map (fun (e : Nat × Stack) =>
      if on && decide (e.2.state = .ready) then (e.1, { e.2 with state := .selfRefresh })
      else if !on && decide (e.2.state = .selfRefresh) then (e.1, { e.2 with state := .ready })
      else e) } }

/-- Ports whose host has enabled ASPM L1 enter L1 in DOZE, and leave it on the wake (R365). -/
def State.portsL1 (s : State) (on : Bool) : State :=
  { s with host := { s.host with ports := s.host.ports.map (fun (e : Nat × HostPort) =>
      (e.1, { e.2 with inL1 := on && e.2.up && e.2.aspmL1 })) } }

def execEnterDoze (s : State) : Outcome :=
  .next (if s.unitDown .pip 0 then s else
    let k := s.clk
    if k.mstate = .idle ∧ k.waking = none ∧ k.dozeEn ∧ k.idleEn ∧ k.dozeDelay.toNat ≤ k.idleFor ∧
        !(s.launchCounts.any (fun t => decide (t.1 ≤ s.now + 1100))) then
      (({ s with clk := { k with mstate := .doze } }.selfRefresh true).portsL1 true).askSleep
    else s)

/-! ## Wakes (R253, R254) -/

/-- A wake source is present: the wake starts and every source shows in WAKE_CAUSE. -/
def execWakeStart (sources : BitVec 7) (s : State) : Outcome :=
  .next (if sources = 0 then s else s.wake sources)

/-- Power up every pod as R122 leaves it: wiped, with no last party, nothing added to POD_SWITCH, its copy of LCNT
resynchronized (R249). -/
def State.powerPods (s : State) : State :=
  (List.range s.variant.pods).foldl (fun (st : State) p =>
    let t := st.wipePod p
    let u := t.setPod p { t.pod p with party := none }
    { u with clk := { u.clk with syncs := Table.modify 0 u.clk.syncs p (· + 1) } }) s

/-- A launch count comes near while the module sleeps: LAUNCH, or INTERNAL where it became known too late
for the LAUNCH source. -/
def execLaunchWakeTimer (s : State) : Outcome :=
  .next (
    let ahead := match s.clk.mstate with | .active => 0 | .idle => 52 | .doze => 1050
    if s.active then s
    else match s.launchCounts.find? (fun t => decide (t.1 ≤ s.now + ahead)) with
      | none => s
      | some t => s.wake (if t.2 + ahead ≤ t.1 then Wk.launch else Wk.internal))

/-- WAKE_IN or the WAKE_AT count (R253, R258): in D3cold WAKE# on the ports with PME enabled; otherwise a PME
message from those in D3hot, and a wake. -/
def State.wakeEvent (s : State) (src : BitVec 7) : State :=
  if s.power.boot = .d3cold then
    { s with host := { s.host with ports := s.host.ports.map (fun (e : Nat × HostPort) =>
        if e.2.pmeEn then (e.1, { e.2 with wakeOut := true }) else e) } }
  else
    let ports := s.host.ports.filter (fun e => e.2.d3hot && e.2.pmeEn)
    (ports.foldl (fun (st : State) e =>
      (st.setHport e.1 { st.hport e.1 with pmeStatus := true }).send (.pme e.1)) s).wake src

def execWakeAtTimer (s : State) : Outcome :=
  .next (
    if s.clk.wakeAt ≠ 0 ∧ s.now = s.clk.wakeAt.toNat * 4096 then s.wakeEvent Wk.timer else s)

/-! ## The references (R247) -/

/-- The selected reference drifts more than 500 ppm from the other, or stops (all its counts are missing).
(DEDUCED, assumption 15.) -/
def execRefSwitch (driftPpm : Nat) (s : State) : Outcome :=
  .next (
    if driftPpm ≤ 500 then s
    else
      let n := !s.clk.refSel
      ({ s with clk := { s.clk with refSel := n, refFault := true } }).raise 0x0006 Sev.warning Uk.pip 0
        (natOf n) driftPpm 0)

end Sys2Proof.Machine
end

