-- ==== Sys2Proof/Machine/Links.lean ====
section
/-! DEFINITION. Fabric links: link-state advertisements, training, the hello exchange, SLEEP, received flits and
the violations of a partner (R316 to R329, R432). -/

namespace Sys2Proof.Machine

open Sys2Proof.Crypto

/-! ## Link-state advertisements (R329) -/

def pLsa : Nat := 0x20
def pDidAssign : Nat := 0x21

/-- A MGMT packet to the neighbor on a port. -/
def State.sendMgmt (s : State) (port ptype : Nat) (body : Bytes) : State :=
  let src := match s.fab.did with | some d => d.toNat | none => 0
  s.dispatch { vc := 3, port := some port, pkt := mkPacket { ptype := ptype } src 0xFFF s.fab.life.toNat 0 body
               since := s.now, spent := none }

/-- The body of an LSA. -/
def lsaBytes (l : Lsa) : Bytes :=
  leBytes 8 l.uid.toNat ++ leBytes 2 (match l.did with | some d => 32768 + d.toNat | none => 0) ++ leBytes 1 l.part.toNat ++
    leBytes 1 l.links.length ++ leBytes 8 l.seq.toNat ++ leBytes 4 0 ++
    l.links.flatMap (fun k => leBytes 8 k.uid.toNat ++ leBytes 1 k.own.toNat ++ leBytes 1 k.port.toNat ++
      leBytes 1 k.rate.toNat ++ leBytes 1 0)

/-- Ports whose link is there: UP, or SLEEP, which keeps it. -/
def State.linkPorts (s : State) : List Nat := (s.fab.ports.filter (fun e => e.2.sealed)).map Prod.fst

/-- This module's advertisement now. -/
def State.ownLsa (s : State) : Lsa :=
  { uid := s.sec.uid, did := s.fab.did, part := BitVec.ofNat 8 s.variant.code, seq := s.clk.lcnt, stamp := s.now
    links := s.linkPorts.map (fun p =>
      let x := s.fport p
      { uid := x.peerUid, own := BitVec.ofNat 8 p, port := (match x.peer with | some h => h.port | none => 0)
        rate := BitVec.ofNat 8 x.rate }) }

/-- The LSA held for a UID. -/
def State.lsaOf (s : State) (uid : DWord) : Option Lsa := s.fab.lsas.find? (fun l => decide (l.uid = uid))

/-- Hold an LSA: a change of anything but its SEQ changes the database; a DID that it no longer holds is
released.
(DEDUCED, assumption 47.) -/
def State.storeLsa (s : State) (l : Lsa) : State :=
  let old := s.lsaOf l.uid
  let same := match old with | some o => decide (o.did = l.did ∧ o.part = l.part ∧ o.links = l.links) | none => false
  let freed := match old with
    | some o => (match o.did with | some d => if l.did = some d then [] else [(d, s.now)] | none => [])
    | none => []
  let f := s.fab
  { s with fab := { f with
      lsas := f.lsas.filter (fun o => decide (o.uid ≠ l.uid)) ++ [l]
      assigns := if l.did.isSome then f.assigns.filter (fun a => decide (a.2.1 ≠ l.uid)) else f.assigns
      released := f.released ++ freed
      changed := if same then f.changed else s.now, routesValid := f.routesValid && same } }

/-- Originate an LSA and send it on some ports.
(DEDUCED, assumption 47.) -/
def State.originateOn (s : State) (ps : List Nat) : State :=
  if !s.isReady then s
  else
    let l := s.ownLsa
    ps.foldl (fun (st : State) p => st.sendMgmt p pLsa (lsaBytes l)) (s.storeLsa l)

/-- On every port whose link is there: a sleeping one is woken for it.
(DESIGN CHOICE, assumption 45.) -/
def State.originate (s : State) : State := s.originateOn s.linkPorts

/-- A port has entered or left SLEEP: the ports in UP carry the LSA.
(DESIGN CHOICE, assumption 45.) -/
def State.originateUp (s : State) : State := s.originateOn (s.linkPorts.filter (fun p => decide ((s.fport p).state = .up)))

/-! ## States of a port (R317, R323, R327) -/

/-- The port may leave DOWN. -/
def State.canTrain (s : State) (p : Nat) : Bool :=
  decide (p < s.variant.fabPorts) && (s.fport p).enable && (s.fport p).backoff.isNone && s.railsUp

/-- What leaving AUTH, UP or SLEEP discards: hellos, keys, credits, retry buffer, numbering. -/
def FabPort.cleared (x : FabPort) : FabPort :=
  { x with own := none, peer := none, ephKey := 0, certs := [], verified := false, txKey := 0, rxKey := 0, txPos := 0, rxPos := 0
           rxSeq := 0, txSeq := 0, acked := 0xFFF, unacked := [], nak := false, replaying := none, linkWait := []
           credits := [], rxFill := [], rx := [], asked := false, waking := none }

/-- The port goes to DOWN or TRAINING; a link that was there is gone. -/
def State.dropLink (s : State) (p : Nat) (st : PortState) : State :=
  let x := s.fport p
  let s1 := s.setFport p { x.cleared with state := st }
  let s2 := { s1 with fab := { s1.fab with waiting := s1.fab.waiting.filter (fun w => decide (w.port ≠ some p)) } }
  if x.sealed then s2.originate else s2

/-- MAX_SPEED and ALLOW_X2 of the port.
(DEDUCED, assumption 84.) -/
def speedMask (p : Nat) (w : PendWrite) : Word := if w.block = Blk.fab.num ∧ w.off = 0x18 ∧ w.inst = p then 6 else 0
def speedApply (s : State) (w : PendWrite) : State :=
  let x := s.fport w.inst
  s.setFport w.inst { x with maxSpeed := w.bit 1 x.maxSpeed, allowX2 := w.bit 2 x.allowX2 }

/-- The port enters TRAINING, or stays DOWN where it may not. -/
def State.toTraining (s : State) (p : Nat) : State :=
  let s1 := s.dropLink p .down
  if !(s1.canTrain p) then s1
  else
    let s2 := s1.applyPend (speedMask p) speedApply
    s2.setFport p { s2.fport p with state := .training, trainFrom := s.now }

/-- A return to TRAINING is counted. -/
def State.retrain (s : State) (p : Nat) : State :=
  let s1 := s.toTraining p
  if (s1.fport p).state = .training then s1.setFport p { s1.fport p with retrains := (s1.fport p).retrains + 1 } else s1

/-- More than 16 violations within a second: DOWN for 2^(k − 1) s, at most 64 s. -/
def State.degradePort (s : State) (p n : Nat) : State :=
  let x := s.fport p
  let at_ := (x.degrAt.filter (fun t => decide (s.now < t + 90000000000))) ++ [s.now]
  let secs := min 64 (2 ^ (at_.length - 1))
  let s1 := s.setFport p { x with degraded := true, degrAt := at_, violAt := [], backoff := some (s.now + 25000000 * secs) }
  (s1.raise 0x0401 Sev.warning Uk.fabPort p n secs 0).dropLink p .down

/-- A violation of the partner. -/
def State.violation (s : State) (p : Nat) : State :=
  let x := s.fport p
  let at_ := (x.violAt.filter (fun t => decide (s.now < t + 25000000))) ++ [s.now]
  let s1 := s.setFport p { x with viol := x.viol + 1, violAt := at_ }
  if 16 < at_.length then s1.degradePort p at_.length else s1

def execDegradedBackoffEnd (p : Nat) (s : State) : Outcome :=
  .next (
    let x := s.fport p
    match x.state, x.backoff with
    | .down, some t => if s.now < t then s else (s.setFport p { x with backoff := none }).retrain p
    | _, _ => s)

/-! ## Hello (R324) -/

/-- The HELLO payload. -/
def helloBytes (part port : Nat) (uid nonce : Nat) (eph idKey : Bytes) : Bytes :=
  leBytes 1 1 ++ leBytes 1 1 ++ leBytes 1 part ++ leBytes 1 port ++ leBytes 8 uid ++ leBytes 16 nonce ++ eph ++ idKey ++
    leBytes 136 0

/-- Read a HELLO payload. -/
def readHello (bits : BitVec 1824) : Hello :=
  let b := bvB 228 bits
  let f := fun (lo n : Nat) => fieldAt b lo n
  { part := BitVec.ofNat 8 (f 2 1), port := BitVec.ofNat 8 (f 3 1), uid := BitVec.ofNat 64 (f 4 8)
    nonce := BitVec.ofNat 128 (f 12 16), eph := BitVec.ofNat 256 (f 28 32), idKey := BitVec.ofNat 256 (f 60 32), bits := bits }

/-- A CERT payload. -/
def certPayload (i : Nat) (c : Bytes) : Bytes := leBytes 1 2 ++ leBytes 1 i ++ c

/-- HELLO and CERT are sent: a fresh nonce and ephemeral key; nothing in RETURNED, whose keys are refused.
(DESIGN CHOICE, assumption 49.) -/
def State.beginAuth (s : State) (p : Nat) : State :=
  if !s.keysUsable then s
  else
    let eph := Config.randomKey s.free
    let b := helloBytes s.variant.code p s.sec.uid.toNat ((Config.randomKey (s.free + 1)).toNat % 2 ^ 128)
      (x25519Public (bvB 32 eph)) (ed25519Public s.identitySeed)
    let x := s.fport p
    let s1 := { s with free := s.free + 2 }.setFport p
      { x with own := some (readHello (BitVec.ofNat 1824 (leNat b))), ephKey := eph }
    ((s1.sendLink p b).sendLink p (certPayload 0 s.sec.certInt)).sendLink p (certPayload 1 s.sec.certDev)

/-- Counts within which a training attempt ends: 10 s (R317). -/
def trainBound : Nat := 250000000

/-- The lanes have trained: AUTH, and the hello once the module is locally ready. -/
def execTrainingDone (p rate : Nat) (rtt : BitVec 16) (pair : Nat) (s : State) : Outcome :=
  .next (
    let s0 := if (s.fport p).state = .down then s.toTraining p else s
    let x := s0.fport p
    let wide := decide (rate = 0 ∨ rate = 2)
    if x.state ≠ .training ∨ x.trainFrom + trainBound < s.now ∨ 3 < rate ∨ (x.maxSpeed ∧ rate < 2) ∨ (!wide ∧ !x.allowX2) then s
    else
      let s1 := s0.setFport p { x with state := .auth, rate := rate, rtt := rtt }
      let s2 := if wide then s1 else s1.raise 0x0402 Sev.notice Uk.fabPort p pair 0 0
      if s2.isReady then s2.beginAuth p else s2)

/-- A training attempt has lasted 10 s (R323). -/
def execTrainingTimeout (p : Nat) (s : State) : Outcome :=
  .next (if (s.fport p).state = .training ∧ (s.fport p).trainFrom + trainBound ≤ s.now then s.dropLink p .down else s)

/-- AUTH fails at a step: an event, and TRAINING after one second. -/
def State.authFail (s : State) (p step : Nat) : State :=
  let x := s.fport p
  let uid := match x.peer with | some h => h.uid | none => 0
  (s.setFport p { x with backoff := some (s.now + 25000000) }).raise 0x0400 Sev.warning Uk.fabPort p step
    (uid.toNat % 2 ^ 32) 0

def execAuthBackoffEnd (p : Nat) (s : State) : Outcome :=
  .next (
    let x := s.fport p
    match x.state, x.backoff with
    | .auth, some t => if s.now < t then s else (s.setFport p { x with backoff := none }).retrain p
    | _, _ => s)

/-- A numbered LINK flit is accepted. -/
def State.tookLink (s : State) (p : Nat) : State :=
  let x := s.fport p
  s.setFport p { x with rxSeq := x.rxSeq + 1, rxPos := if x.sealed then x.rxPos + 1 else x.rxPos }

/-- A LINK type that does not belong here: the port retrains. -/
def State.outOfOrder (s : State) (p : Nat) : State := (s.violation p).retrain p

/-- Run `f` on a LINK flit of the hello exchange, which wakes the module (R253); the same flit in UP or SLEEP is a
violation. -/
def State.inAuth (s : State) (p : Nat) (f : State → FabPort → State) : State :=
  let s := s.wake Wk.fabric
  let x := s.fport p
  if x.sealed then s.outOfOrder p
  else if x.state ≠ .auth ∨ x.backoff.isSome ∨ x.own.isNone then s
  else f (s.tookLink p) ((s.tookLink p).fport p)

def execHello (p : Nat) (payload : BitVec 1824) (s : State) : Outcome :=
  .next (s.inAuth p (fun s x =>
    if x.peer.isSome then s.outOfOrder p
    else
      let s1 := s.setFport p { x with peer := some (readHello payload) }
      if fieldAt (bvB 228 payload) 0 1 ≠ 1 then s.outOfOrder p
      else if fieldAt (bvB 228 payload) 1 1 ≠ 1 then s1.authFail p 1
      else s1))

/-- The signed text of HELLO_SIG: the low end's HELLO, then the high end's. -/
def helloText (a b : Hello) : Bytes :=
  let lo := if a.uid.toNat < b.uid.toNat then a else b
  let hi := if a.uid.toNat < b.uid.toNat then b else a
  ascii "ZFL hello" ++ bvB 228 lo.bits ++ bvB 228 hi.bits

/-- Step 1: the partner's chain and what its device certificate names. -/
def State.partnerOk (s : State) (h : Hello) (inter dev : Bytes) : Bool :=
  s.chainOk inter dev h.uid.toNat h.part.toNat && decide (certEd dev = bvB 32 h.idKey)

/-- A certificate arrives; after the second the chain is verified and HELLO_SIG sent (steps 1 and 2). -/
def execCert (p : Nat) (payload : BitVec 1824) (s : State) : Outcome :=
  .next (s.inAuth p (fun s x =>
    let b := bvB 228 payload
    match x.own, x.peer with
    | some me, some h =>
      if fieldAt b 0 1 ≠ 2 ∨ fieldAt b 1 1 ≠ x.certs.length ∨ 2 ≤ x.certs.length then s.outOfOrder p
      else
        let cs := x.certs ++ [sliceBytes b 2 192]
        let s1 := s.setFport p { x with certs := cs }
        if cs.length < 2 then s1
        else if !(s.partnerOk h (cs.getD 0 []) (cs.getD 1 [])) then s1.authFail p 1
        else
          let s2 := s1.setFport p { s1.fport p with verified := true }
          s2.sendLink p (leBytes 1 3 ++ s2.sign (helloText me h))
    | _, _ => s.outOfOrder p))

/-- Steps 4 and 5: the two link keys, low to high first, or none for an all-zero Z. -/
def linkKeys (eph : Bytes) (me h : Hello) : Option (Bytes × Bytes) :=
  let z := x25519 eph (bvB 32 h.eph)
  if leNat z = 0 then none
  else
    let low := decide (me.uid.toNat < h.uid.toNat)
    let lo := if low then me else h
    let hi := if low then h else me
    let k := hkdf512 (bvB 16 lo.nonce ++ bvB 16 hi.nonce) z (ascii "ZFL link" ++ bvB 8 lo.uid ++ bvB 8 hi.uid) 64
    some (k.take 32, k.drop 32)

/-- The port is UP: its full credit allocation is due to the partner, an LSA is originated, and the whole
database goes over it. -/
def State.enterUp (s : State) (p : Nat) (me h : Hello) (k : Bytes × Bytes) : State :=
  let low := decide (me.uid.toNat < h.uid.toNat)
  let key := fun (b : Bytes) => (BitVec.ofNat 256 (leNat b) : BitVec 256)
  let full := (List.range 4).foldl (fun (m : Table Nat) v => Table.put 0 m v (vcFlits v)) []
  let s1 := s.setFport p { s.fport p with
    state := .up, peerUid := h.uid, txPos := 0, rxPos := 0, rxFill := full, credits := [], ephKey := 0
    txKey := key (if low then k.1 else k.2), rxKey := key (if low then k.2 else k.1) }
  let s2 := s1.originate
  (s2.fab.lsas.filter (fun l => decide (l.uid ≠ s2.sec.uid))).foldl
    (fun (st : State) l => st.sendMgmt p pLsa (lsaBytes l)) s2

/-- HELLO_SIG arrives (steps 3 to 5). -/
def execHelloSig (p : Nat) (sig : BitVec 512) (s : State) : Outcome :=
  .next (s.inAuth p (fun s x =>
    match x.own, x.peer with
    | some me, some h =>
      if !x.verified then s.outOfOrder p
      else if !(ed25519Verify (bvB 32 h.idKey) (helloText me h) (bvB 64 sig)) then s.authFail p 3
      else match linkKeys (bvB 32 x.ephKey) me h with
        | none => s.authFail p 4
        | some k => s.enterUp p me h k
    | _, _ => s.outOfOrder p))

/-! ## SLEEP and returns to TRAINING (R320, R323, R325) -/

/-- The port enters SLEEP, and so leaves UP (R329). -/
def State.sleepPort (s : State) (p : Nat) : State :=
  (s.setFport p { s.fport p with state := .sleep, waking := none }).originateUp

/-- The partner asks for SLEEP; a second request in SLEEP is out of order. -/
def State.onSleepReq (s : State) (p : Nat) : State :=
  let x := s.fport p
  if x.state = .sleep then s.outOfOrder p
  else if x.state ≠ .up ∨ !x.sleepEn then s
  else (s.sendLink p [5]).sleepPort p

/-- The partner has agreed to SLEEP; an answer to no request is out of order. -/
def State.onSleepAck (s : State) (p : Nat) : State :=
  let x := s.fport p
  if !x.asked then s.outOfOrder p
  else
    let s1 := s.setFport p { x with asked := false }
    if x.state ≠ .up ∨ !x.sleepEn then s1 else s1.sleepPort p

/-- The WAKE signal: UP again, and what waited for the port goes on. In UP it is out of order, but for one that crosses
this end's own within the 250 counts of the return.
(DEDUCED, assumption 45.) -/
def State.onWake (s : State) (p : Nat) : State :=
  let x := s.fport p
  if x.state = .sleep then (s.setFport p { x with state := .up }).originateUp.drainTx
  else if x.state = .up ∧ !(match x.waking with | some t => decide (s.now ≤ t + 250) | none => false) then s.outOfOrder p
  else s

/-- A LINK flit in UP or SLEEP. -/
def State.linkFlit (s : State) (p : Nat) (f : State → State) : State :=
  if (s.fport p).sealed then f (s.tookLink p) else s

/-- A flit that arrives wakes the module; the SLEEP_ACK that it waits for does not.
(DEDUCED, assumption 45.) -/
def execSleepReq (p : Nat) (s : State) : Outcome := .next (s.linkFlit p (fun s => (s.wake Wk.fabric).onSleepReq p))
def execSleepAck (p : Nat) (s : State) : Outcome := .next (s.linkFlit p (fun s => s.onSleepAck p))

def execLinkWake (p : Nat) (s : State) : Outcome :=
  .next (if (s.fport p).sealed then (s.wake Wk.fabric).onWake p else s)

/-- A RETRAIN flit, loss of signal, or the replay limit. -/
def execLinkRetrain (p : Nat) (s : State) : Outcome :=
  .next (
    match (s.fport p).state with
    | .up => s.retrain p
    | .sleep => s.retrain p
    | .auth => s.retrain p
    | _ => s)

/-! ## Received flits (R318 to R322, R326) -/

/-- A NAK is due. -/
def State.nakDue (s : State) (p : Nat) : State := s.setFport p { s.fport p with nak := true }

/-- Replay every unacknowledged flit. -/
def State.replayFlits (s : State) (p : Nat) : State :=
  let l := (s.fport p).unacked
  let again := l.map (fun (f : Flit) => { f with tries := f.tries + 1 })
  let s1 := l.foldl (fun (st : State) f => st.wire p f) (s.setFport p { s.fport p with unacked := again })
  s1.setFport p { s1.fport p with replays := (s1.fport p).replays + BitVec.ofNat 32 l.length }

/-- ACK and NAK of a received flit. -/
def State.takeAck (s : State) (p : Nat) (ack : BitVec 12) (nak : Bool) : State :=
  let x := s.fport p
  let k := (ack - x.acked).toNat
  if x.unacked.length < k then s.violation p
  else
    let y := if k = 0 then x else { x with acked := ack, unacked := x.unacked.drop k, replaying := none }
    let s1 := s.setFport p y
    if !nak ∨ y.replaying = some ack ∨ y.unacked = [] then s1.drainLinks p
    else if y.unacked.any (fun f => decide (8 ≤ f.tries)) then s1.retrain p
    else ((s1.setFport p { y with replaying := some ack }).replayFlits p).drainLinks p

/-- Credits of a received flit; what exceeds the VC's buffer is ignored. -/
def State.takeCredits (s : State) (p : Nat) (b : Bytes) : State :=
  (List.range 4).foldl (fun (st : State) v =>
    let x := st.fport p
    let n := x.credit v + fieldAt b (4 + v) 1
    let s1 := st.setFport p { x with credits := Table.put 0 x.credits v (min n (vcFlits v)) }
    if vcFlits v < n then s1.violation p else s1) s

/-- A LINK flit that arrives in order in UP. -/
def State.onLink (s : State) (p : Nat) (payload : Bytes) : State :=
  match fieldAt payload 0 1 with
  | 4 => s.onSleepReq p
  | 5 => s.onSleepAck p
  | 6 => s.onWake p
  | 7 => s.retrain p
  | _ => s.outOfOrder p

/-- What a flit carries, once its CRC, tag and form are good. -/
def State.flitIn (s : State) (p : Nat) (b payload : Bytes) : State :=
  let seq : BitVec 12 := BitVec.ofNat 12 (fieldAt b 0 2)
  let vc := fieldAt b 0 2 / 4096 % 4
  let type := fieldAt b 0 2 / 16384
  let s1 := (s.takeAck p (BitVec.ofNat 12 (fieldAt b 2 2)) (bitOf (fieldAt b 2 2) 12)).takeCredits p b
  let x := s1.fport p
  if type = 0 ∨ x.state ≠ .up then s1.drainTx
  else if seq ≠ x.rxSeq then (s1.nakDue p).drainTx
  else if type = 1 ∧ vcFlits vc ≤ Table.get 0 x.rxFill vc + (x.rxVc vc).held then ((s1.nakDue p).violation p).drainTx
  else
    let y := { x with rxSeq := x.rxSeq + 1 }
    if type = 2 then ((s1.setFport p y).onLink p payload).drainTx
    else
      let r := (x.rxVc vc).flit s.now (fieldAt b 8 2) payload
      State.drainTx ((List.range r.2).foldl (fun (st : State) _ => st.violation p) (s1.setFport p (y.buffer vc 1 r.1)))

/-- TYPE, VC, PKT_OFF and the reserved bits of a flit are as R318 has them. -/
def flitForm (b : Bytes) : Bool :=
  let type := fieldAt b 0 2 / 16384
  decide (type ≠ 3) && decide (fieldAt b 2 2 < 8192) && decide (fieldAt b 10 2 = 0) &&
    (decide (type = 1) || decide (fieldAt b 0 2 / 4096 % 4 = 0)) &&
    (decide (fieldAt b 8 2 < 228) || decide (fieldAt b 8 2 = 0xFFFF))

/-- TYPE of a flit. -/
def flitType (bits : BitVec 2048) : Nat := bits.toNat / 16384 % 4

/-- A flit arrives on an UP port: CRC, then tag, then form. DATA and LINK flits wake the module; IDLE flits, which
every UP port carries, and the SLEEP_ACK that it waits for do not.
(DEDUCED, assumption 45.) -/
def State.recvFlit (s : State) (p : Nat) (bits : BitVec 2048) : State :=
  let x := s.fport p
  let b := bvB 256 bits
  let key := bvB 32 x.rxKey
  let ct := sliceBytes b 12 228
  let quiet := flitType bits = 0 ∨ (flitType bits = 2 ∧ x.asked ∧ fieldAt (gcmCrypt key (flitNonce x.rxPos) ct) 0 1 = 5)
  let s1 := (if quiet then s else s.wake Wk.fabric).setFport p { x with rxPos := x.rxPos + 1 }
  if crc32c (b.take 252) ≠ fieldAt b 252 4 then s1.nakDue p
  else if (gcmTag key (flitNonce x.rxPos) (b.take 12) ct).take 12 ≠ sliceBytes b 240 12 then (s1.nakDue p).violation p
  else if !(flitForm b) then
    let y := s1.fport p
    let vc := fieldAt b 0 2 / 4096 % 4
    let z := { y with rxSeq := y.rxSeq + 1 }
    (if BitVec.ofNat 12 (fieldAt b 0 2) = y.rxSeq ∧ flitType bits ≠ 0 then
       s1.setFport p (if flitType bits = 1 then z.buffer vc 1 (y.rxVc vc).lose else z)
     else s1).violation p
  else s1.flitIn p b (gcmCrypt key (flitNonce x.rxPos) ct)

def execDataFlit (p : Nat) (flit : BitVec 2048) (s : State) : Outcome :=
  .next (if (s.fport p).state = .up ∧ flitType flit ≠ 0 then s.recvFlit p flit else s)

def execIdleFlit (p : Nat) (flit : BitVec 2048) (s : State) : Outcome :=
  .next (if (s.fport p).state = .up ∧ flitType flit = 0 then s.recvFlit p flit else s)

/-- One count at a port: DOWN ports that may train begin to; a replay is no longer under way; LINK flits that waited,
credits and a NAK that are due go out, the latter in an IDLE flit. -/
def fabCountPort (s : State) (p : Nat) : State :=
  let x := s.fport p
  if x.state = .down ∧ s.canTrain p then s.toTraining p
  else if x.state = .up then
    let y := { x with replaying := none }
    if x.nak ∨ !x.rxFill.isEmpty then (s.setFport p y).wireIdle p else s.setFport p y
  else s

def State.fabCount (s : State) : State :=
  let s1 := (List.range s.variant.fabPorts).foldl fabCountPort s
  if s1.active && !s1.fab.waiting.isEmpty then s1.drainTx else s1

end Sys2Proof.Machine
end

