-- ==== Sys2Proof/Machine/HostPort.lean ====
section
/-! DEFINITION. Host ports: training, resets, link loss, power states, errors, ATS, MSI-X, and FENCE_WINDOW
(R230, R353 to R365, R373). -/

namespace Sys2Proof.Machine

/-! ## Training (R354, R378) -/

/-- HPORT_CTL fields that wait for the port's next training.
(DEDUCED, assumption 84.) -/
def trainMask (p : Nat) (w : PendWrite) : Word := if w.block = Blk.host.num ∧ w.off = 8 ∧ w.inst = p then 0x00000F30 else 0

/-- Apply them. -/
def trainApply (s : State) (w : PendWrite) : State :=
  let h := s.hport w.inst
  s.setHport w.inst
    { h with maxGen := (let g := w.bits 4 h.maxGen; if g = 3 then 2 else g), cxlEn := w.bit 8 h.cxlEn
             cxlMax := w.bit 9 h.cxlMax, cacheEn := w.bit 10 h.cacheEn, memEn := w.bit 11 h.memEn }

/-- The port begins training.
(DEDUCED, assumption 108.) -/
def State.beginTraining (s : State) (p : Nat) : State :=
  let s1 := s.applyPend (trainMask p) trainApply
  s1.setHport p { s1.hport p with up := false, training := true, link := none, kept := (s1.hport p).up || (s1.hport p).kept }

/-- The 36 V input is in use (R256: main power). -/
def State.mainPower (s : State) : Bool :=
  match s.power.boot with
  | .unpowered => false
  | .inputWait => false
  | .d3cold => false
  | .stopped _ => false
  | _ => true

/-- The port may negotiate this (R354, R355). -/
def HostPort.allows (h : HostPort) (l : HostLink) : Bool :=
  decide (1 ≤ l.gen) && decide (l.gen ≤ 3 - h.maxGen.toNat) && decide (l.width ≤ 4) &&
    (decide (l.cxl = 0) || (h.cxlEn && (decide (l.cxl = 1 ∧ (l.gen = 2 ∨ l.gen = 3 ∧ h.cxlMax)) || decide (l.cxl = 2 ∧ l.gen = 3 ∧ !h.cxlMax)))) &&
    (!l.cache || (h.cacheEn && decide (l.cxl ≠ 0))) && (!l.mem || (h.memEn && decide (l.cxl = 2)))

/-- Watched channels of a port that trained without CXL.cache fall back to polling (R355). -/
def State.unwatch (s : State) (p : Nat) : State :=
  { s with chan := { s.chan with chans := s.chan.chans.map (fun (e : Nat × Chan) =>
      if e.2.port.toNat = p then (e.1, { e.2 with watched := false }) else e) } }

/-- The RUNNING channels with WATCH 1 of a port that trained with CXL.cache are watched (R218). -/
def State.watchPort (s : State) (p : Nat) : State :=
  let l := s.chan.chans.filter (fun e => decide (e.2.port.toNat = p ∧ e.2.state = .running) && e.2.watch && !e.2.watched)
  l.foldl (fun (st : State) e => st.watchLine e.1) s

/-- The port finishes training; the host then configures its function (assumption 51). -/
def execHostLinkUp (port : Nat) (link : HostLink) (s : State) : Outcome :=
  .next (
    let s0 := if (s.hport port).training then s else s.applyPend (trainMask port) trainApply
    let h := s0.hport port
    if decide (s.variant.hostPorts ≤ port) || h.up || h.perst || !s.hostRails || !(h.allows link) then s
    else
      let s1 := s0.setHport port
        { h with up := true, training := false, kept := false, link := some link, wakeOut := false
                 msixEn := link.cfg.msixEn, masked := link.cfg.masked, vecAddr := link.cfg.vecAddr
                 atsEn := link.cfg.atsEn, pmeEn := link.cfg.pmeEn, aspmL1 := link.cfg.aspmL1, hdmEn := link.cfg.hdmEn
                 vecData := link.cfg.vecData, severe := link.cfg.severe }
      let s2 := if link.cache then s1.watchPort port else s1.unwatch port
      if h.cxlEn && decide (link.gen = 1) then s2.raise 0x0103 Sev.notice Uk.hostPort port link.gen 0 0 else s2)

/-! ## Configuration space and BARs (R356, R357) -/

/-- What a function reports in its configuration space: the CXL Device DVSEC, with the protocols it advertises
(CXL.cache, CXL.mem), and the BAR its Register Locator DVSEC points to. -/
structure CfgSpace where
  vendor     : BitVec 16
  device     : BitVec 16
  classCode  : BitVec 24
  cxlDvsec   : Option (Bool × Bool)
  regLocator : Option Nat
  deriving DecidableEq, Repr

/-- The device id of the part (R356). -/
def partDevice : Variant → BitVec 16 | .t => 0x0910 | .s => 0x0911 | .e => 0x0912

/-- The port has negotiated CXL. -/
def HostPort.speaksCxl (h : HostPort) : Bool := h.up && (match h.link with | some l => decide (l.cxl ≠ 0) | none => false)

/-- The configuration space of a present port's function (R356). -/
def State.cfgSpace (s : State) (p : Nat) : Option CfgSpace :=
  let h := s.hport p
  if s.variant.hostPorts ≤ p then none
  else some
    { vendor := Config.rhonelVendor, device := partDevice s.variant, classCode := 0x120000
      cxlDvsec := if h.speaksCxl then some (h.cacheEn, h.memEn) else none
      regLocator := if h.speaksCxl then some 4 else none }

/-- The bytes a BAR decodes; 0: not implemented (R357). -/
def HostPort.barSize (h : HostPort) (bar : Nat) : Nat :=
  match bar with
  | 0 => 0x1000000
  | 2 => 0x10000
  | 4 => if h.speaksCxl then 0x20000 else 0
  | _ => 0

/-- One double word of BAR2: the MSI-X table, then the Pending Bit Array; 0 elsewhere (R357). A vector is
masked until the host, which configures a port that is up, says otherwise.
(PRESUMED, assumption 138.) -/
def HostPort.readBar2 (h : HostPort) (off : Nat) : Word :=
  let v := off / 16
  if off < 0x8000 then
    match off / 4 % 4 with
    | 0 => BitVec.ofNat 32 (Table.get 0 h.vecAddr v).toNat
    | 1 => BitVec.ofNat 32 ((Table.get 0 h.vecAddr v).toNat / 2 ^ 32)
    | 2 => Table.get 0 h.vecData v
    | _ => if !h.up || h.masked.contains v then 1 else 0
  else if off < 0x8100 then
    (List.range 32).foldl (fun (a : Word) i => if h.pend.contains ((off - 0x8000) / 4 * 32 + i) then a ||| (1#32 <<< i) else a) 0
  else 0

/-! ## Link loss and port resets (R362, R363) -/

/-- A port's link goes down: its channels stop, its windows are treated by R377, one event. -/
def State.linkDown (s : State) (p cause : Nat) : State :=
  let n := (s.portChannels p).length
  let s1 := (s.stopPort p).setHport p
    { (s.stopPort p).hport p with up := false, training := false, kept := false, link := none, inL1 := false
                                  linkDowns := (s.hport p).linkDowns + 1 }
  (s1.raise 0x0102 Sev.warning Uk.hostPort p cause n 0).windowsLost p

/-- A port reset: link loss, configuration and held lines cleared, the port retrains. -/
def State.portReset (s : State) (p : Nat) : State :=
  let s1 := if (s.hport p).up || (s.hport p).kept then s.linkDown p 2 else s.stopPort p
  let s2 := s1.setHport p
    { s1.hport p with d3hot := false, atsEn := false, atc := [], hdmEn := false, pmeEn := false, pmeStatus := false
                      aspmL1 := false, inL1 := false, msixEn := false, masked := [], pend := [], vecAddr := []
                      vecData := [], severe := [] }
  (s2.unwatch p).beginTraining p

/-- A port of the part that can be reset: powered, and not held in reset by PERST#. -/
def State.onPort (s : State) (p : Nat) (f : State → State) : State :=
  if p < s.variant.hostPorts ∧ s.hostRails ∧ !(s.hport p).perst then f s else s

def execHotReset (port : Nat) (s : State) : Outcome := .next (s.onPort port (fun s => s.portReset port))
def execFunctionLevelReset (port : Nat) (s : State) : Outcome := .next (s.onPort port (fun s => s.portReset port))

def execHostLinkDown (port : Nat) (cause : LinkDownCause) (s : State) : Outcome :=
  .next (
    if (s.hport port).up || (s.hport port).kept then
      match cause with
      | .loss => s.linkDown port 0
      | .removal => s.linkDown port 1
      | .portReset => s.portReset port
    else s)

/-- RETRAIN: the port retrains at once, and its waiting fields apply.
(DEDUCED, assumption 108.) -/
def State.retrainPort (s : State) (p : Nat) : State :=
  (s.dropPend (fun w => if w.block = Blk.host.num ∧ w.off = 8 ∧ w.inst = p then 0x00010000 else 0)).beginTraining p

def execHportRetrain (port : Nat) (s : State) : Outcome :=
  .next (s.onPort port (fun s => s.retrainPort port))

/-! ## Power states (R256, R257, R365) -/

/-- The first enabled window on a port. -/
def State.winOn (s : State) (p : Nat) : Option Nat :=
  (s.host.wins.find? (fun e => e.2.en && decide (e.2.port.toNat = p))).map Prod.fst

def execPowerstateWrite (port : Nat) (state : BitVec 2) (s : State) : Outcome :=
  .next (
    let h := s.hport port
    if !h.up then s
    else if state = 3 ∧ !h.d3hot then
      match s.winOn port with
      | some n => s.raise 0x0104 Sev.notice Uk.hostPort port n 0 0
      | none => (s.stopPort port).setHport port { (s.stopPort port).hport port with d3hot := true }
    else if state = 0 ∧ h.d3hot then s.portReset port
    else s)

/-! ## Requests of the host (R255, R361) -/

/-- A host request on a port that is up and in D0, which alone answers more than configuration requests (R256): served,
or held until the module is ACTIVE (R255).
(DEDUCED, assumption 135.) -/
def State.hostReq (s : State) (port : Nat) (a : HostAsk) (f : State → State) : State :=
  if !(s.hport port).up || (s.hport port).d3hot then s
  else if s.active then f s
  else { s with host := { s.host with asks := s.host.asks ++ [a] } }.wake Wk.host

/-- An answer UR. -/
def State.sendUr (s : State) (p : Nat) : State :=
  let s1 := (s.logAer p .unsupportedRequest).send (.ur p)
  s1.setHport p { s1.hport p with urSent := (s1.hport p).urSent + 1 }

def execUnsupportedRequest (port : Nat) (s : State) : Outcome :=
  .next (s.hostReq port (.unsupported port) (fun s => s.sendUr port))

/-- A long access to BAR0 or BAR2: a read is answered CA, a write dropped; both logged and counted. -/
def State.abortAsk (s : State) (port : Nat) (write : Bool) : State :=
  let s1 := s.logAer port .completerAbort
  let s2 := if write then s1 else s1.send (.ca port)
  s2.setHport port { s2.hport port with caSent := (s2.hport port).caSent + 1 }

def execCompleterAbort (port : Nat) (write : Bool) (s : State) : Outcome :=
  .next (s.hostReq port (.abort port write) (fun s => s.abortAsk port write))

/-- A discarded TLP: logged and counted. -/
def State.protoErr (s : State) (p : Nat) (e : AerErr) : State :=
  if !(s.hport p).up then s
  else
    let s1 := s.logAer p e
    s1.setHport p { s1.hport p with protoErr := (s1.hport p).protoErr + 1 }

def execMalformedTlp (port : Nat) (s : State) : Outcome := .next (s.protoErr port .malformedTlp)
def execPoisonedTlp (port : Nat) (s : State) : Outcome := .next (s.protoErr port .poisonedTlp)
def execUnexpectedCompletion (port : Nat) (s : State) : Outcome := .next (s.protoErr port .unexpectedCompletion)

/-- Unmasking a vector sends its pending message. -/
def execMsixUnmask (port : Nat) (vector : BitVec 11) (s : State) : Outcome :=
  .next (
    let h := s.hport port
    if !(h.masked.contains vector.toNat) || h.d3hot then s
    else
      let s1 := s.setHport port { h with masked := h.masked.filter (fun v => decide (v ≠ vector.toNat))
                                         pend := h.pend.filter (fun v => decide (v ≠ vector.toNat)) }
      if h.pend.contains vector.toNat then s1.msix port vector 0 else s1)

/-! ## Address translation (R230, R360) -/

/-- An Invalidation Request: the range leaves the cache and the completion is sent; the requests issued
under the old translation have completed, since each command makes its host accesses whole. -/
def State.invalidateAtc (s : State) (port : Nat) (page : DWord) (pages : Nat) : State :=
  let h := s.hport port
  let gone := fun (a : DWord) => decide (page.toNat ≤ a.toNat) && decide (a.toNat < page.toNat + 4096 * pages)
  let atc := if h.atsEn then h.atc.filter (fun a => !(gone a)) else h.atc
  (s.setHport port { h with atc := atc, atsInvs := h.atsInvs + 1 }).send (.invCompletion port)

def execAtsInvalidation (port : Nat) (page : DWord) (pages : Nat) (s : State) : Outcome :=
  .next (s.hostReq port (.invalidate port page pages) (fun s => s.invalidateAtc port page pages))

def execAtsEnableClear (port : Nat) (s : State) : Outcome :=
  .next (s.setHport port { s.hport port with atsEn := false, atc := [] })

/-- Some HOST slot of the descriptor asks for translation. -/
def Desc.translates (x : Desc) : Bool :=
  [24, 40].any (fun lo => match x.slot lo with | some (.host _ t) => t | _ => false)

/-- A read of the descriptor is refused at an address: it ends TRANSLATION_FAULT once its other parts end. -/
def State.readRefused (s : State) (d : Nat) (x : Desc) (addr : DWord) : State :=
  match x.phase with
  | .accepted =>
    if x.opcode = 0x20 ∧ (s.program d).isNone ∧ !x.decided then s.settle d St.translationFault addr else s
  | .ended => s
  | _ =>
    if x.jobs = 0 ∧ x.peers = [] ∧ x.opcode ≠ 0x20 then
      s.endDesc d St.translationFault (BitVec.ofNat 64 x.done) addr
    else if x.opcode = 0x20 then s
    else s.modDesc d (fun y => { y with stop := some St.translationFault, refused := some addr })

/-- The descriptor's reads go through the port. -/
def State.readsAt (s : State) (d port : Nat) : Option Desc :=
  match s.desc d with
  | some x => if (s.ch x.chan).port.toNat = port ∧ !x.cut ∧ (s.hport port).up then some x else none
  | none => none

/-- A read completes: good data, or UR, CA or poison. -/
def execHostReadCompletion (port : Nat) (d : Nat) (addr : DWord) (good : Bool) (s : State) : Outcome :=
  .next (
    match s.readsAt d port with
    | some x =>
      if good then (if x.translates then s.setHport port ((s.hport port).cachePage addr) else s)
      else s.readRefused d x addr
    | none => s)

/-- A read gets no completion within CPL_TO counts: as if it completed UR. No read of a descriptor is older than its
acceptance. -/
def execCplTimeout (port : Nat) (d : Nat) (addr : DWord) (s : State) : Outcome :=
  .next (
    match s.readsAt d port with
    | some x =>
      if s.now < x.accept + (s.hport port).cplTo.toNat then s
      else
        let s1 := s.logAer port .completionTimeout
        (s1.setHport port { s1.hport port with cplTimeouts := (s1.hport port).cplTimeouts + 1 }).readRefused d x addr
    | none => s)

/-! ## FENCE_WINDOW (R373) -/

/-- The window of a FENCE_WINDOW. -/
def Desc.zwin (x : Desc) : Nat := x.field 24 1

/-- The descriptor no longer reaches its window: revocation or another owner. -/
def State.zwinLost (s : State) (x : Desc) : Bool := !(s.zwinHeld x)

/-- The window's lines are back-invalidated at the start; it completes once they are all given up and
window writes received before have been served. `aux` is 1 + the grants made when it started. -/
def execBeginNative (d : Nat) (s : State) : Outcome :=
  .next (s.work d 0x33 0 (fun x =>
    let w := x.zwin
    if s.zwinLost x then s.endDesc d St.accessDenied 0 0
    else
      let mark := if x.aux = 0 then s.host.grants + 1 else x.aux
      let s1 := if x.aux = 0 then
          let s0 := (s.invalidateWin w 0).modDesc d (fun y => { y with aux := mark })
          { s0 with host := { s0.host with natives := s0.host.natives.filter (fun n => decide (n.1 ≠ w ∨ n.2.1 ≠ x.chan)) ++
            [(w, x.chan, mark)] } }
        else s
      let waits := s1.host.waits.any (fun r => r.write.isSome && decide (r.order < mark) && (match zmap s1.host.wins r.port r.dpa.toNat with
        | some z => decide (z.1 = w) | none => false))
      if s1.winClear w 0 mark && !waits then s1.endDesc d St.ok 0 0 else s1))

/-- After every earlier descriptor of the channel, the lines granted since the matching BEGIN_NATIVE are
back-invalidated; it completes once they are given up.
(DESIGN CHOICE, assumption 28.) -/
def execEndNative (d : Nat) (s : State) : Outcome :=
  .next (s.work d 0x33 1 (fun x =>
    let w := x.zwin
    if s.earlier x then s
    else if s.zwinLost x then s.endDesc d St.accessDenied 0 0
    else
      let lo := match s.host.natives.find? (fun n => decide (n.1 = w ∧ n.2.1 = x.chan)) with | some n => n.2.2 | none => 0
      let mark := if x.aux = 0 then s.host.grants + 1 else x.aux
      let s1 := if x.aux = 0 then (s.invalidateWin w lo).modDesc d (fun y => { y with aux := mark }) else s
      if s1.winClear w lo mark then
        { s1 with host := { s1.host with natives := s1.host.natives.filter (fun n =>
          decide (n.1 ≠ w ∨ n.2.1 ≠ x.chan)) } }.endDesc d St.ok 0 0
      else s1))

end Sys2Proof.Machine
end

