-- ==== Sys2Proof/Machine/Tenancy.lean ====
section
/-! DEFINITION. The signed EXTENT_* commands: verification, extents, parties, channels, gates, revocation and
wipes (R292 to R305, R310, R423). -/

namespace Sys2Proof.Machine

/-! ## Order and verification (R293 to R295) -/

/-- The descriptor carries an EXTENT_* command. -/
def Desc.isFm (x : Desc) : Bool := decide (0x40 ≤ x.opcode) && decide (x.opcode ≤ 0x45)

/-- `x` comes before `y` in the order of commands: acceptance count, channel, acceptance. -/
def Desc.sooner (x y : Desc) : Bool :=
  decide (x.accept < y.accept) ||
    (decide (x.accept = y.accept) && (decide (x.chan < y.chan) || (decide (x.chan = y.chan) && decide (x.go < y.go))))

/-- The command waits, as R304 and R305 let a SET_OWNER and a revocation, or as R423 lets an EXTENT_WATCH: it does not
hold later ones. -/
def Desc.aside (x : Desc) : Bool := decide (x.phase = .working) && decide (x.opcode ∈ [0x41, 0x42, 0x45])

/-- No earlier command is still to be performed: a wipe under way, or a BIND PARTY that awaits a boundary, holds the
later ones.
(DEDUCED, assumption 26.) -/
def State.cmdTurn (s : State) (x : Desc) : Bool :=
  !(s.chan.descs.any (fun e => e.2.isFm && decide (e.2.phase ≠ .ended) && !e.2.decided && !e.2.aside && e.2.sooner x))

/-- COMMAND_BYTES (R232). -/
def Desc.cmdBytes (x : Desc) : Nat := x.field 56 4

/-- BODY_BYTES and the body of a block. -/
def cmdBodyLen (b : Bytes) : Nat := fieldAt b 6 2
def cmdBody (b : Bytes) : Bytes := (b.drop 64).take (cmdBodyLen b)

/-- Step 3: MAGIC, VERSION, OPCODE, reserved bytes, COMMAND_BYTES. -/
def cmdForm (x : Desc) (b : Bytes) : Bool :=
  decide (fieldAt b 0 4 = 0x4D46585A) && decide (fieldAt b 4 1 = 1) && decide (fieldAt b 5 1 = x.opcode) &&
    (sliceBytes b 40 24).all (fun v => decide (v = 0)) && decide (x.cmdBytes = 128 + cmdBodyLen b)

/-- Step 4: the signature under the FM key, in a state that performs commands (R445). -/
def State.cmdSigned (s : State) (b : Bytes) : Bool :=
  match s.fmKey with
  | some k => decide (s.lcState ≠ some .blank) && Crypto.ed25519Verify (bvB 32 k) (b.take (64 + cmdBodyLen b)) (b.drop (64 + cmdBodyLen b))
  | none => false

/-- Step 5: MODULE_UID, BOOT_NONCE, SEQUENCE. -/
def State.cmdFresh (s : State) (b : Bytes) : Bool :=
  decide (fieldAt b 8 8 = s.sec.uid.toNat) && decide (fieldAt b 16 16 = s.ten.bootNonce.toNat) &&
    decide (s.ten.fmSeq.toNat < fieldAt b 32 8)

/-- The block of a command after steps 1 to 5, or the status and step that fail (R294). -/
def State.verifyCmd (s : State) (x : Desc) (h : HostData) : Except (Status × Nat) Bytes :=
  if x.cmdBytes < 144 ∨ 248 < x.cmdBytes then .error (St.malformed, 1)
  else if h.refused.isSome ∨ h.bytes.length < x.cmdBytes then .error (x.short, 2)
  else
    let b := h.bytes.take x.cmdBytes
    if !(cmdForm x b) then .error (St.malformed, 3)
    else if !(s.cmdSigned b) then .error (St.signatureInvalid, 4)
    else if !(s.cmdFresh b) then .error (St.signatureInvalid, 5)
    else .ok b

/-- SIGNATURE_INVALID: counted, with its event (R294). -/
def State.rejectCmd (s : State) (op ch step : Nat) : State :=
  ({ s with ten := { s.ten with cmdRejected := s.ten.cmdRejected + 1 } }).raise 0x0200 Sev.notice Uk.fm 0 op ch step

/-- The command ends with the status of the step that failed; MALFORMED adds no gate completion (R228). -/
def State.failCmd (s : State) (d : Nat) (x : Desc) (st : Status) (step : Nat) (h : HostData) : State :=
  let s1 := if st = St.signatureInvalid then s.rejectCmd x.opcode x.chan step else s
  let s2 := s1.endWith d st h
  if st = St.malformed then s2.modDesc d (fun y => { y with noGate := true }) else s2

/-! ## Bodies (R296) -/

/-- Operation codes an opcode defines. -/
def cmdOps (op : Nat) : Nat :=
  match op with | 0x41 => 2 | 0x42 => 3 | 0x44 => 4 | _ => 1

/-- Body bytes that an operation lists, as (first, length). -/
def bodyUsed (op sub : Nat) : List (Nat × Nat) :=
  match op, sub with
  | 0x40, _ => [(0, 8)]
  | 0x41, 0 => [(0, 1), (2, 1), (4, 4)]
  | 0x41, _ => [(0, 2), (4, 8)]
  | 0x42, 1 => [(0, 1), (4, 8)]
  | 0x42, _ => [(0, 1), (4, 4)]
  | 0x43, _ => [(0, 1), (4, 4)]
  | 0x44, 0 => [(0, 1), (2, 1), (8, 4), (16, 104)]
  | 0x44, 1 => [(0, 1), (2, 1)]
  | 0x44, 2 => [(0, 1), (2, 2), (12, 2)]
  | 0x44, _ => [(0, 1), (2, 2), (12, 1)]
  | _, _ => [(0, 1)]

/-- Values that an operation's fields may take. -/
def bodyFields (op sub : Nat) (b : Bytes) : Bool :=
  match op, sub with
  | 0x40, _ => decide (fieldAt b 1 1 ≤ 2) && decide (fieldAt b 3 1 ∈ [0, 2, 4, 8, 16]) && decide (1 ≤ fieldAt b 4 4)
  | 0x41, 1 => decide (1 ≤ fieldAt b 1 1) && decide (fieldAt b 1 1 ≤ 3)
  | 0x44, 0 => decide (fieldAt b 8 4 ≠ 0)
  | 0x44, 2 => decide (fieldAt b 3 1 ≤ 1) && decide (fieldAt b 12 2 < 1024)
  | 0x44, 3 => decide (fieldAt b 3 1 ≤ 1)
  | _, _ => true

/-- The body is one of its operation. -/
def bodyOkFor (op sub : Nat) (b : Bytes) : Bool :=
  decide (b.length = if op = 0x44 ∧ sub = 0 then 120 else 16) &&
    (List.range b.length).all (fun i =>
      (bodyUsed op sub).any (fun r => decide (r.1 ≤ i) && decide (i < r.1 + r.2)) || decide (b.getD i 0 = 0)) &&
    bodyFields op sub b

/-- Run the operation `sub` of an EXTENT_* opcode: in turn, verified once (`aux` = 1 and the body kept from
then on), FM_SEQ taken, then its body checked and performed. A block of another operation is left to that
operation's own command.
(DEDUCED, assumption 26.) -/
def State.fmCommand (s : State) (d op sub : Nat) (h : HostData) (f : State → Desc → Bytes → State) : State :=
  s.work d op 0 (fun x =>
    if !(s.cmdTurn x) then s
    else if x.aux = 1 then (if (x.data.getD 0 0).toNat = sub then f s x x.data else s)
    else match s.verifyCmd x (x.got h) with
      | .error e => s.failCmd d x e.1 e.2 (x.got h)
      | .ok b =>
        let body := cmdBody b
        let k := (body.getD 0 0).toNat
        if k ≠ sub ∧ k < cmdOps op then s
        else
          let s1 := { s with ten := { s.ten with fmSeq := BitVec.ofNat 64 (fieldAt b 32 8), cmdAccepted := s.ten.cmdAccepted + 1 } }
          if k ≠ sub ∨ !(bodyOkFor op sub body) then s1.endDesc d St.malformedProgram 0 0
          else
            let y := { x with aux := 1, data := body }
            f (s1.setDesc d y) y body)

/-- Fields of bodies. -/
def bodyHandle (b : Bytes) : Word := BitVec.ofNat 32 (fieldAt b 4 4)
def bodyGpid (b : Bytes) : Word := BitVec.ofNat 32 (fieldAt b 8 4)
def bodySlot (b : Bytes) : BitVec 8 := BitVec.ofNat 8 (fieldAt b 2 1)

/-- The command completes. -/
def State.doneCmd (s : State) (d : Nat) (st : Status) : State := s.endDesc d st 0 0

/-! ## EXTENT_CREATE (R28, R300) -/

/-- Near-resident tracts that the near pool must go on holding: pinned ones, and those that never leave it. A
PROMOTING tract without a pin is not one of them: it is waited for, and evicted (R28).
(DESIGN CHOICE, assumption 31.) -/
def State.poolKept (s : State) : Nat :=
  (s.place.tracts.filter (fun e => decide (e.2.window = none) && e.2.occupies &&
    (decide (e.2.state = .nearHomed) || e.2.moving || decide (s.totalPins e.1 ≠ 0)))).length

/-- The extent exists: OWNED, every block a raw block of zeros, with the next handle, on the lowest free locations
of its tier. -/
def State.makeExtent (s : State) (d : Nat) (kind : ExtKind) (owner : BitVec 8) (vslots units : Nat) : State :=
  let e : Extent := { word := Tv.all ⟨some owner, kind, .owned⟩, units := units, vslots := vslots
                      slots := List.replicate vslots {}, runs := s.freeRuns kind.wipeTier (128 * units) }
  let n := s.ten.nextHandle
  { s with ten := { s.ten with extents := Table.set s.ten.extents n e, nextHandle := n + 1 } }.endDesc d St.ok
    (BitVec.ofNat 64 n) 0

/-- Draw the capacity, or wait until tracts that nothing pins have left the near pool.
(DESIGN CHOICE, assumption 31.) -/
def State.createExtent (s : State) (d : Nat) (kind : ExtKind) (owner : BitVec 8) (vslots units : Nat) : State :=
  let n := 128 * units
  if 32768 ≤ s.ten.extents.length ∨ 0xFFFFFFFF ≤ s.ten.nextHandle then s.doneCmd d St.noSpace
  else if kind = .pinnedNear then
    if s.nearPool < s.poolKept + n then s.doneCmd d St.noSpace
    else if s.poolUsed + n ≤ s.nearPool then s.makeExtent d kind owner vslots units
    else s.evictSome (s.poolUsed + n - s.nearPool - s.leaving []) []
  else if s.deepFree < n then s.doneCmd d St.noSpace
  else s.makeExtent d kind owner vslots units

/-- (DESIGN CHOICE, assumption 31.) -/
def execExtentCreate (d : Nat) (h : HostData) (s : State) : Outcome :=
  .next (s.fmCommand d 0x40 0 h (fun s _x b =>
    let k := fieldAt b 1 1
    let kind : ExtKind := if k = 0 then .pinnedNear else if k = 1 then .pinnedDeep else .tiered
    if k ≠ 0 ∧ !s.variant.deep then s.doneCmd d St.unsupported
    else if (s.gpid (bodySlot b)).isNone then s.doneCmd d St.accessDenied
    else s.createExtent d kind (bodySlot b) (fieldAt b 3 1) (fieldAt b 4 4)))

/-! ## EXTENT_ASSIGN (R301, R304) -/

/-- An UNASSIGNED extent goes to a bound slot; the marks of earlier revocations end.
(DESIGN CHOICE, assumption 29.) -/
def State.assignOwner (s : State) (d : Nat) (hd : Word) (slot : BitVec 8) : State :=
  match s.extent hd with
  | none => s.doneCmd d St.accessDenied
  | some e =>
    if e.state = .unassigned ∧ (s.gpid slot).isSome then
      (s.setExtent hd { (e.setWord (fun w => { w with owner := some slot, state := .owned })) with
        revokedAt := none, grantRevoked := [] }).doneCmd d St.ok
    else s.doneCmd d St.accessDenied

def execSetOwner (d : Nat) (h : HostData) (s : State) : Outcome :=
  .next (s.fmCommand d 0x41 0 h (fun s _x b =>
    let hd := bodyHandle b
    match s.extent hd with
    | none => s.doneCmd d St.accessDenied
    | some e =>
      if e.state = .wiping then
        (s.setExtent hd { e with setOwnerWaits := e.setOwnerWaits ++ [(d, bodySlot b)] }).modDesc d
          (fun y => { y with phase := .working })
      else s.assignOwner d hd (bodySlot b)))

/-- (DESIGN CHOICE, assumption 29.) -/
def execGrant (d : Nat) (h : HostData) (s : State) : Outcome :=
  .next (s.fmCommand d 0x41 1 h (fun s _x b =>
    let hd := bodyHandle b
    let g := bodyGpid b
    match s.extent hd with
    | none => s.doneCmd d St.accessDenied
    | some e =>
      let rest := e.grants.filter (fun x => decide (x.gpid ≠ g))
      let r := fieldAt b 1 1
      if e.vslots = 0 ∨ e.state ≠ .owned then s.doneCmd d St.accessDenied
      else if 64 ≤ rest.length then s.doneCmd d St.noSpace
      else (s.setExtent hd { e with grants := rest ++ [⟨g, bitOf r 0, bitOf r 1⟩]
                                    grantRevoked := e.grantRevoked.filter (fun x => decide (x.1.gpid ≠ g)) }).doneCmd d St.ok))

/-! ## EXTENT_REVOKE (R303 to R305) -/

/-- Drop pins on the extent's tracts: all of them, or one party's. -/
def State.dropPins (s : State) (h : Word) (p : Option (BitVec 8)) : State :=
  { s with place := { s.place with pins := s.place.pins.filter (fun e =>
      !(decide (e.1 / 2 ^ 28 = h.toNat) && (match p with | some q => decide (e.1 % 256 = q.toNat) | none => true))) } }

/-- Remove the windows with an entry in the extent: all of them, or one party's. -/
def State.dropWindows (s : State) (h : Word) (p : Option (BitVec 8)) : State :=
  (s.place.windows.filter (fun e => e.2.entries.any (fun y => decide (y.handle = h)) &&
    (match p with | some q => decide (e.2.party = q) | none => true))).foldl
      (fun (st : State) e => st.removeWindow e.1) s

/-- Every block becomes a raw block of zeros, releasing its reference (R73, R78). -/
def State.clearBlocks (s : State) (h : Word) : State :=
  let s1 := (s.ten.metas.filter (fun e => decide (e.1 / 2 ^ 36 = h.toNat))).foldl
    (fun (st : State) e => st.putMeta h (e.1 % 2 ^ 36) rawMeta) s
  { s1 with ten := { s1.ten with mem := s1.ten.mem.filter (fun e => decide (e.1 / 2 ^ 48 ≠ h.toNat)) } }

/-- The extent ceases to exist: blocks, tracts, pins and handle go; freed capacity lets a reclaim go on. -/
def State.destroyExtent (s : State) (h : Word) : State :=
  let s1 := (s.clearBlocks h).dropPins h none
  State.reclaimAgain { s1 with
    ten := { s1.ten with extents := Table.del s1.ten.extents h.toNat }
    place := { s1.place with tracts := s1.place.tracts.filter (fun e => decide (e.1 / 1048576 ≠ h.toNat)) } }

/-- The descriptor names the extent in a slot, or binds it as an image, a context or a segment. -/
def State.namesExtent (s : State) (d : Nat) (x : Desc) (h : Word) : Bool :=
  [24, 32, 40].any (fun lo => match (x.slot lo).map s.resolve with | some (.ext k _) => decide (k = h) | _ => false) ||
    (decide (x.opcode = 0x20) && (decide (BitVec.ofNat 32 (x.field 24 4) = h) ||
      (match x.ctx with | some c => decide (c.1 = h) | none => false))) ||
    (decide (x.opcode = 0x21) && (decide (x.redSrc.1 = h) || decide (x.redDst.1 = h))) ||
    (match s.program d with
     | some g => g.segs.any (fun y => decide (y.handle = h) && decide (y.handle ≠ 0))
     | none => false)

/-- The party is affected: every one, or that of one GPID (R303). -/
def State.affects (s : State) (g : Option Word) (p : Option (BitVec 8)) : Bool :=
  match g with | none => true | some k => decide (p.bind s.gpid = some k)

/-- A descriptor accepted at or after the revocation point completes REVOKED, whatever it had begun (R303). -/
def State.revokeDesc (s : State) (d : Nat) (x : Desc) (h : Word) : State :=
  if x.phase = .accepted then
    State.settle { s with pods := { s.pods with programs := Table.del s.pods.programs d } } d St.revoked x.noFail
  else match s.program d with
    | some g => s.codeFail d g St.revoked
    | none =>
      let s1 := if x.opcode = 0x18 ∧ x.aux ≠ 0 then s.freeVslot h (x.aux - 1) else s
      s1.endDesc d St.revoked (BitVec.ofNat 64 x.done) x.noFail

/-- The block requests of a core on the extent issued at or after the point carry no data: the program raises REVOKED
(R154, R303). -/
def State.revokeCore (h : Word) (point : Nat) (s : State) (c : Nat) : State :=
  let x := s.core c
  let late := fun (r : BlkReq) => decide (r.handle = h) && decide (point ≤ r.issued)
  let gone := fun (j : EncJob) => decide (j.core = some c) && x.blks.any (fun r => late r && decide (r.order = j.index))
  match x.blks.find? late with
  | none => s
  | some r =>
    let s1 := { s with
      ten := { s.ten with revokedReqs := s.ten.revokedReqs + 1 }
      comp := { s.comp with encQueue := s.comp.encQueue.filter (fun j => !(gone j))
                            engines := s.comp.engines.map (fun (e : Nat × List EncJob) => (e.1, e.2.filter (fun j => !(gone j)))) } }
    (s1.setCore c { x with blks := x.blks.filter (fun r => !(late r)), pc := r.pc }).fault c Fc.revoked 0

/-- The requests of the affected parties since the revocation point, which the command's count set before it was
performed (R303). -/
def State.revokeLate (s : State) (h : Word) (point : Nat) (g : Option Word) : State :=
  let ds := s.chan.descs.filter (fun e => decide (point ≤ e.2.accept) && decide (e.2.phase ≠ .ended) && !e.2.decided &&
    !e.2.isFm && s.affects g e.2.party && s.namesExtent e.1 e.2 h)
  let s1 := ds.foldl (fun (st : State) e => st.revokeDesc e.1 e.2 h) s
  ((s1.pods.cores.map Prod.fst).filter (fun c => s1.affects g (s1.coreParty c))).foldl (State.revokeCore h point) s1

/-- REVOKE OWNER or DESTROY of an OWNED extent; DESTROY of an UNASSIGNED one. -/
def State.revokeAll (s : State) (d : Nat) (x : Desc) (hd : Word) (destroy : Bool) : State :=
  match s.extent hd with
  | none => s.doneCmd d St.accessDenied
  | some e =>
    if e.state = .unassigned ∧ destroy then (s.destroyExtent hd).doneCmd d St.ok
    else if e.state ≠ .owned then s.doneCmd d St.accessDenied
    else
      let e1 := { (e.setWord (fun w => { w with state := .revoking })) with
        revokedAt := some (x.accept + 1), grants := [], destroying := destroy, revokeDesc := some d
        grantRevoked := e.grantRevoked ++ e.grants.map (fun y => (y, x.accept + 1)) }
      let s1 := ((s.setExtent hd e1).dropPins hd none).dropWindows hd none
      let s2 := ((s1.switchRevoke hd).jrnStopExtent hd 1).modDesc d (fun y => { y with phase := .working })
      s2.revokeLate hd (x.accept + 1) none

def execRevokeOwner (d : Nat) (h : HostData) (s : State) : Outcome :=
  .next (s.fmCommand d 0x42 0 h (fun s x b => s.revokeAll d x (bodyHandle b) false))

def execDestroy (d : Nat) (h : HostData) (s : State) : Outcome :=
  .next (s.fmCommand d 0x42 2 h (fun s x b => s.revokeAll d x (bodyHandle b) true))

/-- REVOKE GRANT: the grantee's pins and windows go, its grant ends; without a grant nothing is to drain.
(DESIGN CHOICE, assumption 25.) -/
def execRevokeGrant (d : Nat) (h : HostData) (s : State) : Outcome :=
  .next (s.fmCommand d 0x42 1 h (fun s x b =>
    let hd := bodyHandle b
    let g := bodyGpid b
    match s.extent hd with
    | none => s.doneCmd d St.accessDenied
    | some e =>
      if e.state ≠ .owned then s.doneCmd d St.accessDenied
      else match e.grants.find? (fun y => decide (y.gpid = g)) with
        | none => s.doneCmd d St.ok
        | some gr =>
          let s1 := (s.setExtent hd { e with
            grants := e.grants.filter (fun y => decide (y.gpid ≠ g))
            grantRevoked := e.grantRevoked.filter (fun y => decide (y.1.gpid ≠ g)) ++ [(gr, x.accept + 1)]
            grantWaits := e.grantWaits ++ [(d, g)] }).modDesc d (fun y => { y with phase := .working })
          let s2 := match s.slotOf g with
            | some p => (s1.dropPins hd (some p)).dropWindows hd (some p)
            | none => s1
          s2.revokeLate hd (x.accept + 1) (some g)))

/-- The in-flight set of a revocation: how many requests of the affected parties from before the point are not complete
(R303).
(DESIGN CHOICE, assumption 38.) -/
def State.inflight (s : State) (h : Word) (point : Nat) (g : Option Word) : Nat :=
  (s.chan.descs.filter (fun e => decide (e.2.accept < point) && !e.2.isFm && s.affects g e.2.party &&
      s.namesExtent e.1 e.2 h)).length +
    ((s.pods.cores.filter (fun c => s.affects g (s.coreParty c.1))).flatMap (fun c =>
      c.2.blks.filter (fun r => decide (r.handle = h) && decide (r.issued < point)))).length +
    (s.fab.serving.filter (fun q => decide (q.pkt.handle = h) && decide (q.arrived < point) &&
      (match g with | none => true | some k => decide (q.pkt.gpid = k)))).length +
    (s.place.tracts.filter (fun t => decide (t.1 / 1048576 = h.toNat) && decide (t.2.began < point) &&
      (decide (t.2.state = .promoting ∨ t.2.state = .evicting) || t.2.moving))).length

/-- An ATS Invalidation Request waits on a port that carries a channel of an affected party (R305). -/
def State.invWaits (s : State) (g : Option Word) : Bool :=
  s.host.asks.any (fun a => match a with
    | .invalidate p _ _ => s.chan.chans.any (fun c => decide (c.2.port.toNat = p) && c.2.party.isSome && s.affects g c.2.party)
    | _ => false)

/-- The drain conditions of R305: the in-flight set empty, invalidations answered, host-cached lines given up. -/
def State.drained (s : State) (h : Word) (point : Nat) (g : Option Word) : Bool :=
  decide (s.inflight h point g = 0) && !(s.invWaits g) && (g.isSome || s.windowsGone h)

/-! ## Wipes (R302) -/

/-- A PUBLISH or FETCH_VERSION of the region accepted before the wipe is in progress, or a peer's.
(DESIGN CHOICE, assumption 37.) -/
def State.regionBusy (s : State) (h : Word) (e : Extent) : Bool :=
  let at_ := match e.wipeDesc.bind s.desc with | some x => x.accept | none => 0
  e.slots.any (fun v => decide (v.state = .writing) || !v.remote.isEmpty) ||
    s.chan.descs.any (fun (q : Nat × Desc) => decide (q.2.accept < at_) && decide (q.2.phase ≠ DescPhase.ended) && !q.2.decided &&
      ((decide (q.2.opcode = 0x19) && decide (s.regionAt q.2 24 = some h)) ||
       (decide (q.2.opcode = 0x18) && decide (s.regionAt q.2 40 = some h))))

/-- The wipe waits for its region's requests. -/
def State.wipeWaits (s : State) (h : Word) (e : Extent) : Bool := e.wipeHold && s.regionBusy h e

/-- Counts that the controllers take to wipe a unit of an extent; of a read-only-degraded one no block is wiped. -/
def State.wipeCounts (s : State) (e : Extent) : Nat :=
  if e.readOnly then 0
  else match e.kind.wipeTier, s.variant with
    | .near, .e => 4195
    | .near, _ => 1907
    | .deep, _ => 5462

/-- Of a tier's wipes that have started, the first starts to run once none runs; one whose region is busy has not
started. -/
def State.wipeGoOn (s : State) (t : Tier) : State :=
  let l := s.ten.extents.filter (fun q => q.2.wipes && decide (q.2.kind.wipeTier = t))
  let busy := l.filter (fun q => s.wipeWaits (BitVec.ofNat 32 q.1) q.2)
  let s1 := busy.foldl (fun (st : State) q => st.setExtent (BitVec.ofNat 32 q.1) { q.2 with wipeStart := s.now }) s
  if l.any (fun q => q.2.wipeRun.isSome) then s1
  else match sortBy (fun q => q.2.wipeStart) (l.filter (fun q => !(s.wipeWaits (BitVec.ofNat 32 q.1) q.2))) with
    | q :: _ => s1.setExtent (BitVec.ofNat 32 q.1) { q.2 with wipeRun := some s.now }
    | [] => s1

/-- Both tiers'. -/
def State.wipesGoOn (s : State) : State := (s.wipeGoOn .near).wipeGoOn .deep

/-- A revocation whose drain is done: REVOKE OWNER or DESTROY completes and the wipe starts; a grant's
completes.
(DESIGN CHOICE, assumption 38.) -/
def execRevocationDrained (h : Word) (s : State) : Outcome :=
  .next (
    match s.extent h with
    | none => s
    | some e =>
      let s1 := match e.state, e.revokedAt with
        | .revoking, some p =>
          if s.drained h p none then
            let e1 := { (e.setWord (fun w => { w with state := .wiping })) with revokeDesc := none, wipeStart := s.now }
            let s2 := s.setExtent h e1
            (match e.revokeDesc with | some d => s2.doneCmd d St.ok | none => s2)
          else s
        | _, _ => s
      let ready := fun (w : Nat × Word) => match e.grantRevoked.find? (fun y => decide (y.1.gpid = w.2)) with
        | some y => s.drained h y.2 (some w.2)
        | none => true
      let s2 := (e.grantWaits.filter ready).foldl (fun (st : State) w => st.doneCmd w.1 St.ok) s1
      match s2.extent h with
      | some f => (s2.setExtent h { f with grantWaits := f.grantWaits.filter (fun w => !(ready w)) }).wipesGoOn
      | none => s2)

/-- EXTENT_WIPE of an OWNED extent; on a shared region new PUBLISHes and FETCH_VERSIONs are held. -/
def execExtentWipe (d : Nat) (h : HostData) (s : State) : Outcome :=
  .next (s.fmCommand d 0x43 0 h (fun s _x b =>
    let hd := bodyHandle b
    match s.extent hd with
    | none => s.doneCmd d St.accessDenied
    | some e =>
      if e.state ≠ .owned then s.doneCmd d St.accessDenied
      else ((s.setExtent hd { e with wipeDesc := some d, wipeStart := s.now, wipeHold := decide (e.vslots ≠ 0) }).modDesc d
        (fun y => { y with phase := .working })).wipesGoOn))

/-- The wipe's effect: a journal in the extent stops first (R466), then blocks, tracts to DEEP without write-back, version slots (R302); a read-only-degraded
extent keeps its blocks (R422).
(DESIGN CHOICE, assumption 37.) -/
def State.wipeExtent (s : State) (h : Word) (e : Extent) : State :=
  let s0 := s.jrnStopExtent h 2
  let s1 := if e.readOnly then s0 else s0.clearBlocks h
  let waiting := (s1.place.tracts.filter (fun t => decide (t.1 / 1048576 = h.toNat))).flatMap
    (fun (t : Nat × Tract) => (t.2.promoters ++ t.2.evicters).map (fun d => (t.1, d)))
  let s2 := { s1 with place := { s1.place with tracts := s1.place.tracts.map (fun (t : Nat × Tract) =>
    if t.1 / 1048576 = h.toNat ∧ t.2.state ≠ .nearHomed then
      (t.1, { t.2 with state := .deep, dirty := 0, pending := false, promoters := [], evicters := [], window := none })
    else t) } }
  let s3 := waiting.foldl (fun (st : State) w => st.settleTract w.1 false false w.2) s2
  let s4 := { s3 with chan := { s3.chan with descs := s3.chan.descs.map (fun (q : Nat × Desc) =>
    if q.2.opcode = 0x19 ∧ s3.regionAt q.2 24 = some h ∧ q.2.phase ≠ DescPhase.ended then (q.1, { q.2 with aux := 0 }) else q) } }
  s4.setExtent h { e with current := 0, slots := List.replicate e.vslots {}, wipeDesc := none, wipeHold := false
                          wipeRun := none, landed := [] }

/-- A held SET_OWNER is performed. -/
def performOwner (h : Word) (s : State) (w : Nat × BitVec 8) : State := s.assignOwner w.1 h w.2

/-- The wipe runs, and the counts that it takes have passed (R302). -/
def State.wipeDone (s : State) (e : Extent) : Bool :=
  match e.wipeRun with
  | some r => e.wipes && decide (r + e.units * s.wipeCounts e ≤ s.now)
  | none => false

/-- A wipe ends: EXTENT_WIPE completes; a revoked extent becomes UNASSIGNED, or is destroyed. -/
def execWipeEnd (h : Word) (s : State) : Outcome :=
  .next (
    match s.extent h with
    | none => s
    | some e =>
      if !(s.wipeDone e) then s
      else if e.state = .wiping then
        let s1 := s.wipeExtent h e
        let s2 := match e.wipeDesc with | some d => s1.doneCmd d St.ok | none => s1
        if e.destroying then
          (e.setOwnerWaits.foldl (performOwner h) (s2.destroyExtent h).takeTriggers).wipesGoOn
        else
          let e1 := { ((s2.extent h).getD e).setWord (fun w => { w with owner := none, state := .unassigned }) with
            setOwnerWaits := [] }
          (e.setOwnerWaits.foldl (performOwner h) (s2.setExtent h e1).takeTriggers).wipesGoOn
      else match e.wipeDesc with
        | some d => ((s.wipeExtent h e).doneCmd d St.ok).takeTriggers.wipesGoOn
        | none => s)

/-- Tracts of an extent that a wipe has still to write: none of them before it runs, at most what its rate allows
after (R302, R313). How far it is is open within that.
(DESIGN CHOICE, assumption 27.) -/
def State.wipeLeft (s : State) (e : Extent) : Nat :=
  match e.wipeRun with
  | none => e.tracts
  | some r => e.tracts - min (Config.freeWord s.free).toNat (128 * (s.now - r) / max 1 (s.wipeCounts e))

/-! ## EXTENT_BIND (R264, R297, R298, R310) -/

/-- Party slots bound. -/
def State.boundSlots (s : State) : Nat := s.ten.parties.length

/-- BIND PARTY, with the life-cycle check of R445. -/
def State.bindParty (s : State) (d : Nat) (x : Desc) (b : Bytes) : State :=
  let g := bodyGpid b
  let slot := bodySlot b
  let allowed := decide (s.lcState = some .field) || decide (g = 0xFFFFFFFF)
  if !allowed ∨ (s.gpid slot).isSome ∨ (s.slotOf g).isSome then s.doneCmd d St.accessDenied
  else match s.partyKeys g (sliceBytes b 16 32) (sliceBytes b 48 72) with
    | none => (s.rejectCmd x.opcode x.chan 7).doneCmd d St.signatureInvalid
    | some k =>
      let p : Party := { gpid := Tv.all g, k1 := k.1, k2 := k.2 }
      let s1 := { s with ten := { s.ten with parties := Table.set s.ten.parties slot.toNat p } }
      if s1.boundSlots = 2 ∧ !s.ten.isSealed then
        { (s1.modDesc d (fun y => { y with phase := .working })) with ten := { s1.ten with sealWaits := s1.ten.sealWaits ++ [d] } }
      else s1.doneCmd d St.ok

def execBindParty (d : Nat) (h : HostData) (s : State) : Outcome :=
  .next (s.fmCommand d 0x44 0 h (fun s x b => s.bindParty d x b))

/-- The slot still holds something that UNPARTY asks about. -/
def State.slotHolds (s : State) (slot : BitVec 8) : Bool :=
  s.ten.extents.any (fun e => decide (e.2.owner = some slot) ||
      e.2.grants.any (fun g => decide (s.gpid slot = some g.gpid))) ||
    s.chan.chans.any (fun c => decide (c.2.party = some slot)) ||
    s.clk.gates.any (fun g => decide (g.2.owner = some slot)) ||
    s.comp.tables.any (fun t => decide (t.2.owner = slot)) ||
    s.comp.hctx.any (fun t => decide (t.2.owner = some slot)) ||
    s.qos.classes.any (fun q => q.2.owned && decide (q.2.party = slot)) ||
    s.place.windows.any (fun w => decide (w.2.party = slot)) ||
    s.pods.programs.any (fun g => decide (g.2.party = slot))

def execUnparty (d : Nat) (h : HostData) (s : State) : Outcome :=
  .next (s.fmCommand d 0x44 1 h (fun s _x b =>
    let slot := bodySlot b
    if (s.gpid slot).isNone then s.doneCmd d St.ok
    else if s.slotHolds slot then s.doneCmd d St.accessDenied
    else { s with ten := { s.ten with parties := Table.del s.ten.parties slot.toNat } }.doneCmd d St.ok))

def execBindChannel (d : Nat) (h : HostData) (s : State) : Outcome :=
  .next (s.fmCommand d 0x44 2 h (fun s _x b =>
    let slot := bodySlot b
    let ch := fieldAt b 12 2
    let c := s.ch ch
    if (s.gpid slot).isNone then s.doneCmd d St.accessDenied
    else if bitOf (fieldAt b 3 1) 0 then
      (if c.party = some slot then (s.setCh ch { c with party := none }).doneCmd d St.ok else s.doneCmd d St.accessDenied)
    else (s.setCh ch { c with party := some slot }).doneCmd d St.ok))

/-- A SYNC instruction that names the gate: GCOMP, GWAITC or GCNT with its number in imm8 (R131, R132, R156). -/
def namesGate (g : BitVec 8) (w : Nat) : Bool :=
  decide (bitsOf w 31 26 = 0x30) && decide (bitsOf w 15 8 = g.toNat) && decide (2 ≤ bitsOf w 7 0 ∧ bitsOf w 7 0 ≤ 4)

/-- The code of a program that has started names the gate, as its first pod holds it, or its image while it is saved. -/
def State.codeNames (s : State) (g : BitVec 8) (p : Program) : Bool :=
  let code := match p.on with
    | pod :: _ => Store.read s.pods.mem (podKey pod sharedBase) p.codeBytes
    | [] => if p.restored then (match s.codeOf p with | .ok b => b | .error _ => []) else []
  (List.range (code.length / 4)).any (fun i => namesGate g (fieldAt code (4 * i) 4))

/-- An accepted descriptor, an installed window or a running program of the party names the gate (R264).
(DEDUCED, assumption 30.) -/
def State.gateNamed (s : State) (slot g : BitVec 8) : Bool :=
  s.chan.descs.any (fun e => decide (e.2.party = some slot) &&
      (decide (e.2.doneGate = some g) || (decide (e.2.mode = 2) && decide (e.2.launchGate = g)) ||
       (decide (e.2.opcode = 0x31 ∨ (e.2.opcode = 0x32 ∧ (s.remoteGate e.2).isNone)) && decide (e.2.openGate = g)))) ||
    s.place.windows.any (fun w => decide (w.2.party = slot) &&
      (decide (w.2.arrival = some g) || w.2.entries.any (fun y => decide (y.source = some g)))) ||
    s.pods.programs.any (fun p => decide (p.2.party = slot) && s.codeNames g p.2) ||
    s.pods.cores.any (fun c => decide (s.coreParty c.1 = some slot) &&
      ((match c.2.wait with | .gwaitc k _ => decide (k = g) | _ => false) || c.2.gwait.any (fun w => decide (w.1 = g))))

def execBindGate (d : Nat) (h : HostData) (s : State) : Outcome :=
  .next (s.fmCommand d 0x44 3 h (fun s _x b =>
    let slot := bodySlot b
    let g : BitVec 8 := BitVec.ofNat 8 (fieldAt b 12 1)
    let x := s.gate g
    if (s.gpid slot).isNone then s.doneCmd d St.accessDenied
    else if bitOf (fieldAt b 3 1) 0 then
      if x.owner ≠ some slot then s.doneCmd d St.accessDenied
      else if s.gateNamed slot g then s
      else (s.setGate g {}).doneCmd d St.ok
    else if x.owner = some slot then s.doneCmd d St.ok
    else if x.owner.isSome then s.doneCmd d St.accessDenied
    else (s.setGate g { owner := some slot }).doneCmd d St.ok))

/-! ## EXTENT_WATCH (R423) -/

def execExtentWatch (d : Nat) (h : HostData) (s : State) : Outcome :=
  .next (s.fmCommand d 0x45 0 h (fun s _x _b =>
    if s.rel.changed then
      { s with rel := { s.rel with changed := false } }.endDesc d St.capacityReduced
        (BitVec.ofNat 64 s.place.nearUsable) (BitVec.ofNat 64 s.place.deepUsable)
    else s.modDesc d (fun y => { y with phase := .working })))

/-! ## Sealed accounting (R310) -/

/-- Bound slots. -/
def State.boundSlotList (s : State) : List (BitVec 8) := s.ten.parties.map (fun e => BitVec.ofNat 8 e.1)

/-- The tract-map entries of a party's extents beyond its share of the cache are given up (R312).
(DEDUCED, assumption 110.) -/
def State.trimShare (s : State) (p : BitVec 8) : State :=
  s.trimCache (fun k => decide ((s.extent (BitVec.ofNat 32 (k / 2 ^ 20))).bind Extent.owner = some p)) (s.cacheShare + 1) 0

/-- At a regulation boundary: more than one party bound, or FORCE as it was applied at an earlier one. -/
def State.sealBoundary (s : State) : State :=
  let on := decide (1 < s.boundSlots) || s.ten.force
  let s1 := { s with ten := { s.ten with isSealed := on, sealWaits := if on then [] else s.ten.sealWaits } }
  let s2 := if on then s.ten.sealWaits.foldl (fun (st : State) d => st.doneCmd d St.ok) s1 else s1
  if on then s2.boundSlotList.foldl State.trimShare s2 else s2

end Sys2Proof.Machine
end

