-- ==== Sys2Proof/Machine/Throttle.lean ====
section
/-! DEFINITION. Power samples, the throttle level and its causes, the power-cap loop (R394, R474, R480 to R484). -/

namespace Sys2Proof.Machine

/-! ## Demands (R482) -/

/-- Demand of a temperature cause: of the levels given as (reached from, kept above, level), the highest that the
reading reaches, or that was demanded and is kept until the reading is 5 °C below.
(DEDUCED, assumption 81.) -/
def tempDemand (steps : List (Nat × Nat × Nat)) (old t : Nat) : Nat :=
  steps.foldl (fun a (x : Nat × Nat × Nat) =>
    if x.1 ≤ t ∨ (x.2.2 ≤ old ∧ x.2.1 < t) then max a x.2.2 else a) 0

def dieSteps : List (Nat × Nat × Nat) := [(95, 90, 1), (100, 95, 2), (105, 100, 3)]
def stackSteps : List (Nat × Nat × Nat) := [(90, 85, 1), (95, 90, 2)]
def inletSteps : List (Nat × Nat × Nat) := [(46, 40, 1), (51, 45, 3)]

/-- A sideband input (R487). -/
def State.side (s : State) (n : Nat) : Side := Table.get {} s.power.sides n
def State.setSide (s : State) (n : Nat) (x : Side) : State :=
  { s with power := { s.power with sides := Table.put {} s.power.sides n x } }

/-- The last sample exceeds 1.1 times the design maximum; VOLTS × AMPS is in units of 0.1 mW. -/
def State.overPower (s : State) : Bool :=
  decide (11 * s.variant.maxWatts * 10000 < 10 * (s.power.volts.toNat * s.power.amps.toNat))

/-- The level that each cause demands now.
(DEDUCED, assumption 81.) -/
def State.demand (s : State) : Nat → Nat
  | 1 => if (s.side 1).level then s.power.thrLevel.toNat else 0
  | 2 => s.power.loop.toNat
  | 3 => if s.overPower then 3 else 0
  | 4 => s.power.dieLvl.toNat
  | 5 => s.power.stackLvl.toNat
  | 6 => max s.power.inletLvl.toNat (if s.power.flowBad then 3 else 0)
  | 7 => if 2800 ≤ s.power.volts.toNat ∧ s.power.volts.toNat < 3000 then 3 else 0
  | _ => 0

/-- Cause codes in ascending order. -/
def thrCauses : List Nat := [1, 2, 3, 4, 5, 6, 7]

/-- The highest level demanded, and the lowest cause that demands it. -/
def State.topLevel (s : State) : Nat := thrCauses.foldl (fun a c => max a (s.demand c)) 0
def State.topCause (s : State) : Nat :=
  if s.topLevel = 0 then 0 else (thrCauses.find? (fun c => decide (s.demand c = s.topLevel))).getD 0

/-- L follows the demands; its changes from and to 0 are recorded. -/
def State.rethrottle (s : State) : State :=
  let l : BitVec 2 := BitVec.ofNat 2 s.topLevel
  let c := s.topCause
  let s1 := { s with power := { s.power with level := l, cause := BitVec.ofNat 3 c } }
  if s.power.level = 0 ∧ l ≠ 0 then s1.raise 0x0501 Sev.notice Uk.power 0 1 c 0
  else if s.power.level ≠ 0 ∧ l = 0 then s1.raise 0x0501 Sev.notice Uk.power 0 0 0 0
  else s1

/-! ## Samples (R394, R480, R484) -/

/-- A stack die's temperature: above 85 °C its refresh interval halves; moved by more than TEMP_DELTA since a
pseudo-channel was trained, that one retrains. -/
def stackTemp (s : State) (e : Nat × Byte) : State :=
  if !(s.variant.hasStack e.1) then s
  else
    let x := s.stack e.1
    let s1 := s.setStack e.1 { x with temp := e.2, hot := decide (85 < e.2.toNat) }
    (List.range (pcsOf e.1)).foldl (fun (st : State) pc =>
      let t := (Table.get 0 x.trainTemp pc).toNat
      if t + x.tempDelta.toNat < e.2.toNat ∨ e.2.toNat + x.tempDelta.toNat < t then st.startRetrain e.1 pc else st) s1

/-- The hottest of the readings. -/
def hottest (m : Table Byte) : Byte := m.foldl (fun (a : Byte) e => if a.toNat < e.2.toNat then e.2 else a) 0

/-- One sample of every count: input voltage and current, temperatures, coolant.
(DEDUCED, assumption 80.) -/
def execPowerSample (volts amps : BitVec 16) (die : BitVec 8) (temps : Table Byte) (vr inlet outlet : BitVec 8)
    (flow : BitVec 16) (s : State) : Outcome :=
  .next (
    if !s.power.standby then s
    else
      let p := s.power
      let hot := hottest (temps.filter (fun e => s.variant.hasStack e.1))
      let q := { p with
        volts := volts, amps := amps, sum := p.sum + volts.toNat * amps.toNat, samples := p.samples + 1
        tDie := die, tStack := hot, tVr := vr, flow := flow, outlet := outlet, inlet := inlet
        dieLvl := BitVec.ofNat 2 (tempDemand dieSteps p.dieLvl.toNat die.toNat)
        stackLvl := BitVec.ofNat 2 (tempDemand stackSteps p.stackLvl.toNat hot.toNat)
        inletLvl := BitVec.ofNat 2 (tempDemand inletSteps p.inletLvl.toNat inlet.toNat)
        flowBad := decide (flow.toNat < s.variant.minFlow)
        flowLow := if 2 * flow.toNat < s.variant.minFlow then p.flowLow + 1 else 0
        inRange := if 3000 ≤ volts.toNat ∧ volts.toNat ≤ 4000 then some (p.inRange.getD s.now) else none }
      let s1 := { s with power := q }
      let s2 := if s1.overPower then { s1 with power := { q with loop := 3, lowPeriods := 0 } } else s1
      (temps.foldl stackTemp s2).rethrottle)

/-! ## The power-cap loop (R480, R482) -/

/-- The loop level after a period of a mean power, and the periods in a row at most 0.9 of the cap.
(DEDUCED, assumption 79.) -/
def Power.loopStep (p : Power) (avg : Nat) : Power :=
  if p.cap.toNat < avg then { p with loop := if p.loop = 3 then 3 else p.loop + 1, lowPeriods := 0 }
  else if 10 * avg ≤ 9 * p.cap.toNat then
    if 15 ≤ p.lowPeriods then { p with loop := if p.loop = 0 then 0 else p.loop - 1, lowPeriods := 0 }
    else { p with lowPeriods := p.lowPeriods + 1 }
  else { p with lowPeriods := 0 }

/-- At a regulation boundary: the period's mean, the loop, and the count of throttled periods.
(DEDUCED, assumption 79.) -/
def State.powerBoundary (s : State) : State :=
  let p := s.power
  let avg := if p.samples = 0 then p.avg.toNat else p.sum / p.samples / 10000
  let q := { p with avg := BitVec.ofNat 16 avg, sum := 0, samples := 0
                    thrPeriods := if p.level = 0 then p.thrPeriods else p.thrPeriods + 1 }
  { s with power := q.loopStep avg }.rethrottle

end Sys2Proof.Machine
end

