-- ==== Sys2Proof/Machine/Qos.lean ====
section
/-! DEFINITION. The regulation boundary: capability, the QOS shadow, effective guarantees, demotion, and the
other values that apply there (R287 to R291, R310, R479, R500). -/

namespace Sys2Proof.Machine

/-! ## The QOS shadow (R287) -/

/-- QOS registers that apply at the boundary; the selects apply at once. -/
def qosMask (p : PendWrite) : Word :=
  if p.block = Blk.qos.num ∧ p.off ∈ [0x00, 0x08, 0x0C, 0x10, 0x14, 0x38, 0x3C, 0x44] then 0xFFFFFFFF else 0

/-- One class's registers. -/
def QClass.write (q : QClass) (p : PendWrite) : QClass :=
  if p.off = 0x08 then { q with owned := p.bit 16 q.owned, party := p.bits 0 q.party }
  else if p.off = 0x0C then { q with zd := p.bits 16 q.zd, zn := p.bits 0 q.zn }
  else if p.off = 0x10 then { q with fabric := p.bits 16 q.fabric, host := p.bits 0 q.host }
  else if p.off = 0x14 then { q with movers := p.bits 0 q.movers }
  else q

/-- One write of the shadow. -/
def Qos.write (q : Qos) (p : PendWrite) : Qos :=
  if p.off = 0x00 then { q with reject := p.w1c 1 q.reject }
  else if p.off = 0x38 then { q with t2 := p.bits 16 q.t2, t1 := p.bits 0 q.t1 }
  else if p.off = 0x3C then { q with t3 := p.bits 0 q.t3 }
  else if p.off = 0x44 then
    { q with latTarget := Table.put 0 q.latTarget p.inst (p.bits 0 (Table.get 0 q.latTarget p.inst)) }
  else { q with classes := Table.modify {} q.classes p.inst (fun c => c.write p) }

/-- Step 2 of R289: the whole shadow applies if its classes are admissible at D as now taken; else it is
discarded as a whole. -/
def State.qosShadow (s : State) : State :=
  let ws := s.regs.shadows.filter (fun p => decide (s.selNow qosMask p ≠ 0))
  let s1 := s.dropPend qosMask
  if ws.isEmpty then s1
  else
    let q := ws.foldl Qos.write s1.qos
    match firstBad s1.variant q.classes s1.resD with
    | none => { s1 with qos := q }
    | some r =>
      { s1 with qos := { s1.qos with reject := true } }.raise 0x0201 Sev.notice Uk.qos 0 r (sumG q.classes r)
        (limitOf (s1.resD r))

/-! ## Effective guarantees (R288) -/

/-- Step 1 of R289; rounds begin again (R311). -/
def State.takeD (s : State) : State :=
  (resList s.variant).foldl (fun (st : State) r =>
    let d := st.derated r
    st.setRes r { st.res r with d := if d = nominal st.variant r then none else some d, clock := 0 }) s

/-- G′ of one resource, with its scaling event. -/
def rescale (a : State × Bool) (r : Nat) : State × Bool :=
  let s := a.1
  let x := s.res r
  let d := s.resD r
  let sum := sumG s.qos.classes r
  let now := decide (limitOf d < sum)
  let y := { x with eff := effOf s.qos.classes r d, scaled := now }
  let s1 := s.setRes r y
  if y.eff ≠ x.eff ∧ (now ∨ x.scaled) then
    (s1.raise 0x0202 Sev.notice Uk.qos 0 r d (65536 * (sum % 65536) + y.effSum % 65536), true)
  else (s1, a.2)

/-- Step 3 of R289. -/
def State.rescaleAll (s : State) : State :=
  let a := (resList s.variant).foldl rescale (s, false)
  if a.2 then { a.1 with qos := { a.1.qos with scaleEvents := a.1.qos.scaleEvents + 1 } } else a.1

/-- Step 4 of R289. -/
def State.clearDemoted (s : State) : State :=
  { s with qos := { s.qos with classes := (s.qos.classes.map (fun (e : Nat × QClass) =>
      (e.1, { e.2 with demLast := e.2.demNow, demNow := false }))).filter (fun e => decide (e.2 ≠ {})) } }

/-! ## Other values that apply at the boundary -/

/-- SEAL_CTL (R312). -/
def sealWrite (s : State) (p : PendWrite) : State := { s with ten := { s.ten with force := p.bit 0 s.ten.force } }

/-- PWR_CAP, within 40% and 100% of the design maximum (R494). -/
def capWrite (s : State) (p : PendWrite) : State :=
  let m := s.variant.maxWatts
  let w := (p.bits 0 s.power.cap).toNat
  { s with power := { s.power with cap := BitVec.ofNat 16 (max (2 * m / 5) (min m w)) } }

/-- At each multiple of 4,096 counts.
(DESIGN CHOICE, assumption 32.) -/
def execRegulationBoundary (s : State) : Outcome :=
  .next (
    if !s.power.standby || decide (s.now % 4096 ≠ 0) then s
    else
      let s1 := ((s.repairBoundary.takeD).qosShadow).rescaleAll.clearDemoted
      let s2 := s1.sealBoundary.applyPend (onReg .ten 0x04) sealWrite
      (s2.applyPend (onReg .clk 0x10C) capWrite).powerBoundary)

end Sys2Proof.Machine
end

