-- ==== Sys2Proof/Machine/SectorCode.lean ====
section
/-! DEFINITION. The sector code: RS(38,34) over GF(2^16), its symbols, its pins and its decoder (R395, R396). -/

namespace Sys2Proof.Machine

/-- A symbol of the code. -/
abbrev Sym := BitVec 16

/-! ## The field GF(2^16) (R395) -/

/-- α times a symbol; the field polynomial is x^16 + x^12 + x^3 + x + 1, and α is x.
(DEDUCED, assumption 139.) -/
def gfTwice (a : Sym) : Sym := if a.getLsbD 15 then (a <<< 1) ^^^ 0x100B else a <<< 1

/-- Product: `n` bits of `b`, from the highest down. -/
def gfMulBits (a b : Sym) : Nat → Sym
  | 0 => 0
  | n + 1 => gfTwice (gfMulBits a (b >>> 1) n) ^^^ (if b.getLsbD 0 then a else 0)
def gfMul (a b : Sym) : Sym := gfMulBits a b 16

/-- α to the power `n`. -/
def gfAlpha : Nat → Sym
  | 0 => 1
  | n + 1 => gfTwice (gfAlpha n)

/-- Inverse of a symbol that is not 0: its power 2^16 − 2, in `n` squarings. -/
def gfInvBy (a : Sym) : Nat → Sym
  | 0 => 1
  | n + 1 => gfMul (gfMul a a) (gfInvBy (gfMul a a) n)
def gfInv (a : Sym) : Sym := gfInvBy a 15

/-! ## Codewords (R395) -/

/-- Data symbols of a sector: symbol k is bytes 2k and 2k + 1.
(DESIGN CHOICE, assumption 139.) -/
def dataSymbols (b : Bytes) : List Sym := (List.range 32).map (fun k => BitVec.ofNat 16 (leNat (sliceBytes b (2 * k) 2)))

/-- Address symbols: of the 32-bit address made of slot row and sector number.
(DESIGN CHOICE, assumption 139.) -/
def addressSymbols (a : BitVec 32) : List Sym := [a.extractLsb' 0 16, a.extractLsb' 16 16]

/-- Multiplication of a polynomial, lowest coefficient first, by x − r. -/
def polyStep (r : Sym) (p : List Sym) : List Sym := List.zipWith (· ^^^ ·) ((p.map (gfMul r)) ++ [0]) (0 :: p)

/-- The generator, lowest coefficient first: roots α^0 to α^3. -/
def generator : List Sym := (List.range 4).foldl (fun p j => polyStep (gfAlpha j) p) [1]

/-- The remainder of a message's division by the generator, highest coefficient first. -/
def checkSymbols (m : List Sym) : List Sym :=
  m.foldl (fun r d =>
    let f := d ^^^ r.headD 0
    List.zipWith (· ^^^ ·) (r.tail ++ [0]) (((generator.take 4).reverse).map (gfMul f))) [0, 0, 0, 0]

/-- The codeword of a sector at an address: data, address and check symbols. The address symbols are not stored. -/
def codeword (b : Bytes) (a : BitVec 32) : List Sym :=
  let m := dataSymbols b ++ addressSymbols a
  m ++ checkSymbols m

/-- The 36 stored symbols: data and check symbols. -/
def storedSymbols (w : List Sym) : List Sym := w.take 32 ++ w.drop 34

/-- The bit that a pin carries in a beat of the burst: symbol k is on pins 2k and 2k + 1 (R395).
(DESIGN CHOICE, assumption 139.) -/
def pinBit (stored : List Sym) (pin beat : Nat) : Bool := (stored.getD (pin / 2) 0).getLsbD (2 * beat + pin % 2)

/-! ## The decoder (R396) -/

/-- The word, first symbol first, evaluated at α^j. -/
def syndrome (w : List Sym) (j : Nat) : Sym := w.foldl (fun a x => gfMul a (gfAlpha j) ^^^ x) 0

/-- Locator of position `p` of a codeword. -/
def locator (p : Nat) : Sym := gfAlpha (37 - p)

/-- What the decoder finds in a sector (R396): no error, symbols to correct (position, change), or more than it can
correct. -/
inductive SectorFound where
  | good
  | correct (changes : List (Nat × Sym))
  | uncorrectable
  deriving DecidableEq, Repr

/-- A correction that falls on an address symbol is never applied: the sector came from the wrong row. -/
def judge (l : List (Nat × Sym)) : SectorFound :=
  if l.any (fun e => decide (e.1 = 32 ∨ e.1 = 33)) then .uncorrectable else .correct l

/-- One symbol in error: its position by the ratio of the syndromes. -/
def findOne (s0 s1 s2 s3 : Sym) : SectorFound :=
  match (List.range 38).find? (fun p => decide (gfMul s0 (locator p) = s1 ∧ gfMul s1 (locator p) = s2 ∧
      gfMul s2 (locator p) = s3)) with
  | some p => if s0 = 0 then .uncorrectable else judge [(p, s0)]
  | none => .uncorrectable

/-- Two symbols in error: the roots of the locator polynomial d·X² + u·X + v, and their changes. -/
def findTwo (s0 s1 s2 s3 d : Sym) : SectorFound :=
  let u := gfMul s1 s2 ^^^ gfMul s0 s3
  let v := gfMul s1 s3 ^^^ gfMul s2 s2
  let root := fun (p : Nat) =>
    let x := locator p
    decide (gfMul (gfMul d x ^^^ u) x ^^^ v = 0)
  match (List.range 38).filter root with
  | [p, q] =>
    let e := gfMul (s1 ^^^ gfMul s0 (locator q)) (gfInv (locator p ^^^ locator q))
    if e = 0 ∨ e = s0 then .uncorrectable else judge [(p, e), (q, s0 ^^^ e)]
  | _ => .uncorrectable

/-- The decoder: at most two symbols are corrected. -/
def decodeSector (w : List Sym) : SectorFound :=
  let s0 := syndrome w 0
  let s1 := syndrome w 1
  let s2 := syndrome w 2
  let s3 := syndrome w 3
  if s0 = 0 ∧ s1 = 0 ∧ s2 = 0 ∧ s3 = 0 then .good
  else
    let d := gfMul s1 s1 ^^^ gfMul s0 s2
    if d = 0 then findOne s0 s1 s2 s3 else findTwo s0 s1 s2 s3 d

/-- A word of damage from a list of damaged symbols. -/
def damageWord (l : List (Nat × Sym)) : List Sym :=
  (List.range 38).map (fun p => (l.filter (fun e => decide (e.1 = p))).foldl (fun a e => a ^^^ e.2) 0)

/-- What the decoder finds in a sector whose symbols came back changed. The code is linear: the syndromes of the word
read are those of its damage, and a row that is not the addressed one damages the address symbols.
(DEDUCED, assumption 139.) -/
def sectorFound (r : SectorRead) : SectorFound := decodeSector (damageWord r.damage)

end Sys2Proof.Machine
end

