-- ==== Sys2Proof/Machine/Stacks.lean ====
section
/-! DEFINITION. Stack controllers: requests and the order they start in, refresh, retraining, the sector code's
outcomes, scrub, the merge buffer, controller resets, and the resets of the other units (R280 to R284, R381 to
R401, R408, R412, R413, R415, R416). -/

namespace Sys2Proof

/-- The maintenance source. -/
def Machine.srcMaint : Nat := 22

/-- Work that is never regulated by class (R275): of the maintenance source, or marked so. -/
def StackReq.unregulated (r : StackReq) : Bool := decide (r.source = Machine.srcMaint) || r.maint

end Sys2Proof

namespace Sys2Proof.Machine

/-! ## Layout (R381 to R383) -/

/-- Slots of a stack; the rows beyond hold its metadata region. -/
def dataSlots (n : Nat) : Nat := if n < 12 then 25165824 else 50331648

/-- Pseudo-channel and bank of a slot. -/
def pcOf (n slot : Nat) : Nat := slot % pcsOf n
def bankOf (n slot : Nat) : Nat := (slot / pcsOf n % 64) ^^^ (slot / (64 * pcsOf n) % 64)

/-- Where the metadata word of a slot lies: 16 words to a sector, in slot order, in the rows beyond the data rows
(R382). -/
def metaSlot (n slot : Nat) : Nat := dataSlots n + slot / 1024
def metaSector (slot : Nat) : Nat := slot / 16 % 64

/-- Two slots share a bank. -/
def sameBank (n a b : Nat) : Bool := decide (pcOf n a = pcOf n b) && decide (bankOf n a = bankOf n b)

/-! ## The merge buffer (R398 to R401) -/

/-- Mark entries for flushing. -/
def Stack.flushIf (x : Stack) (p : MergeEnt → Bool) : Stack :=
  { x with merge := x.merge.map (fun (e : MergeEnt) => if p e then { e with flushing := true } else e) }

/-- A mask of bytes as a mask of bits. -/
def byteMask (m : BitVec 64) : BitVec 512 :=
  (List.range 64).foldl (fun (a : BitVec 512) i => if m.getLsbD i then a ||| (0xFF#512 <<< (8 * i)) else a) 0

/-- A later partial write on top of an entry; a complete mask starts the flush. -/
def MergeEnt.merge (e w : MergeEnt) : MergeEnt :=
  let b := byteMask w.mask
  let m := e.mask ||| w.mask
  { e with data := (e.data &&& ~~~ b) ||| (w.data &&& b), mask := m, merged := w.merged, flushing := decide (m = BitVec.allOnes 64) }

/-- Take a partial write in: merge it, or allocate an entry; none when the buffer is full. -/
def Stack.mergeIn (x : Stack) (w : MergeEnt) : Option Stack :=
  let open_ := fun (e : MergeEnt) => decide (e.slot = w.slot) && decide (e.sector = w.sector) && !e.flushing
  if x.merge.any open_ then some { x with merge := x.merge.map (fun (e : MergeEnt) => if open_ e then e.merge w else e) }
  else if x.merge.length < 64 then
    some { x with merge := x.merge ++ [{ w with flushing := decide (w.mask = BitVec.allOnes 64) }] }
  else none

/-- The oldest entry starts its flush. -/
def Stack.flushOldest (x : Stack) : Stack :=
  match x.merge.find? (fun e => !e.flushing) with
  | some e => x.flushIf (fun f => decide (f = e))
  | none => x

/-- A partial write is taken: into the buffer, or, a plain one while sealed accounting is in force, as one
read-modify-write of 2 sectors in a turn or window of its extent's owner (R401). None: it must wait. -/
def State.takeMerge (s : State) (n : Nat) (w : MergeEnt) : Option State :=
  let x := s.stack n
  if s.ten.isSealed ∧ w.slot < dataSlots n then
    let t := s.setStack n { x with mergeRmw := x.mergeRmw + 1 }
    match (s.blockOn n w.slot).bind (fun b => (s.extent b.1).bind (fun e => e.owner)) with
    | some o => (s.servedAt n o.toNat 2).map (fun c => t.servedTo n c)
    | none => some t
  else (x.mergeIn w).map (fun y => s.setStack n y)

/-- A partial write waits. For room in the buffer, the oldest entry is flushed. -/
def State.waitMerge (s : State) (n : Nat) (w : MergeEnt) : State :=
  let x := s.stack n
  if s.ten.isSealed ∧ w.slot < dataSlots n then s.setStack n { x with mergeWait := x.mergeWait ++ [w] }
  else
    let y := x.flushOldest
    s.setStack n { y with mergeWait := y.mergeWait ++ [w], mergeWaits := y.mergeWaits + 1 }

/-- A partial write is taken, or waits. -/
def State.mergeOne (s : State) (n : Nat) (w : MergeEnt) : State := (s.takeMerge n w).getD (s.waitMerge n w)

/-- Waiting partial writes that can now be taken are taken, in order. -/
def State.mergeGoOn (s : State) (n : Nat) : State :=
  let x := s.stack n
  if x.mergeWait.isEmpty || decide (x.state ≠ .ready) then s
  else x.mergeWait.foldl (fun (t : State) w => match t.takeMerge n w with
    | some u => u
    | none => t.setStack n { t.stack n with mergeWait := (t.stack n).mergeWait ++ [w] }) (s.setStack n { x with mergeWait := [] })

/-- Every stack's. -/
def State.mergeAll (s : State) : State := s.variant.stackList.foldl State.mergeGoOn s

/-- A partial write arrives. -/
def execMergeWrite (n slot sector source : Nat) (data : BitVec 512) (mask : BitVec 64) (s : State) : Outcome :=
  .next (
    let x := s.stack n
    let w : MergeEnt := { slot := slot, sector := sector, data := data, mask := mask, source := source, merged := s.now }
    if !(s.variant.hasStack n) then s
    else match x.state with
      | .reset => s.setStack n { x with mergeWait := x.mergeWait ++ [w] }
      | .ready => s.mergeOne n w
      | _ => s)

/-- MERGE_HOLD clocks have passed without a merge: 120 clocks to a count. -/
def execMergeHoldExpiry (n slot sector : Nat) (s : State) : Outcome :=
  .next (
    let x := s.stack n
    s.setStack n (x.flushIf (fun e => decide (e.slot = slot) && decide (e.sector = sector) && !e.flushing &&
      decide (x.mergeHold.toNat ≤ 120 * (s.now - e.merged)))))

/-- An entry is written: whole, or by read-modify-write. -/
def execMergeFlushEnd (n slot sector : Nat) (s : State) : Outcome :=
  .next (
    let x := s.stack n
    match x.merge.find? (fun e => decide (e.slot = slot) && decide (e.sector = sector) && e.flushing) with
    | none => s
    | some e =>
      if x.state ≠ .ready then s
      else (s.setStack n { x with
        merge := x.merge.erase e, mergeFlush := x.mergeFlush + 1
        mergeRmw := if e.mask = BitVec.allOnes 64 then x.mergeRmw else x.mergeRmw + 1 }).mergeGoOn n)

/-! ## Slots of the resource (R275, R280, R281, R413) -/

/-- Bytes of writes of a source that a resetting controller's memory path holds. -/
def Stack.heldBytes (x : Stack) (src : Nat) : Nat :=
  (x.heldWrites.filter (fun e => decide (e.req.source = src))).foldl (fun a e => a + 64 * e.req.sectors) 0

/-- The slot that a request holds at its stack. -/
def StkEnt.mark (e : StkEnt) (n : Nat) : SlotMark := ⟨n, e.cls, e.guar, e.req.party.toNat⟩

def State.giveSlot (s : State) (n : Nat) (e : StkEnt) : State := if e.req.unregulated then s else s.giveMark (e.mark n)

/-- A request counts as delayed by a reset. -/
def State.excursions (s : State) (k : Nat) : State :=
  { s with rel := { s.rel with excursions := s.rel.excursions + BitVec.ofNat 32 k } }

/-- The longest added time so far. -/
def State.excursion (s : State) (k : Nat) : State :=
  if s.rel.excursionMax.toNat < k then { s with rel := { s.rel with excursionMax := BitVec.ofNat 16 (min k 65535) } } else s

/-- A request with the label, party and deadline that what it is for gives it (R274); one that nothing of the kind is
there for keeps its own. -/
def State.tied (s : State) (r : StackReq) : StackReq :=
  let of := fun (x : Desc) => { r with cls := x.cls, party := x.party.getD r.party, deadline := x.deadline }
  match r.for_ with
  | .desc d => (match s.desc d with | some x => of x | none => r)
  | .program k => (match s.program k with
    | some g => { r with cls := g.cls, party := g.party, deadline := (s.desc g.desc).bind Desc.deadline }
    | none => r)
  | .position w _ => (match s.window w with
    | some y => { r with cls := y.cls, party := y.party, deadline := none }
    | none => r)
  | .peer a t => (match s.fab.serving.find? (fun q => decide (q.pkt.src = a ∧ q.pkt.txid.toNat = t)) with
    | some q => { r with cls := BitVec.ofNat 6 (q.pkt.field 8 1), party := (s.pktParty q.pkt).getD r.party, deadline := q.deadline }
    | none => r)
  | .other => r

/-- Sectors that a read of a block fetches, by its metadata word (R57, R58). -/
def wordSectors (w : Word) : Nat :=
  if mwPoison w then 0 else if mwTag w = 0x3F then 64 else if 1 ≤ mwTag w ∧ mwTag w ≤ 0x3C then mwTag w else 0

/-- A read transfers exactly the sectors of its block (R384); one of a slot that holds none keeps its own. -/
def State.sized (s : State) (n : Nat) (r : StackReq) : StackReq :=
  if r.write || r.unregulated then r
  else match s.blockOn n r.slot with
    | some b => { r with sectors := wordSectors (s.blkMeta b.1 b.2) }
    | none => r

/-- A waiting request with the class and marking it would be issued with now (R278). -/
def State.marked (s : State) (n : Nat) (e : StkEnt) : StkEnt :=
  let c := s.regulatedAs e.req.cls (some e.req.party)
  { e with cls := c, guar := !e.req.unregulated && s.guaranteed n c }

/-- The controller takes the request now: its queue has room, or in a reset the write has room at the memory path. -/
def Stack.hasRoom (x : Stack) (e : StkEnt) : Bool :=
  match x.state with
  | .ready => decide ((Table.get [] x.queues e.req.source).length < 256)
  | .reset => !e.req.write || decide (x.heldBytes e.req.source < 4194304)
  | _ => false

/-- A request is issued: counted, its slot taken, and queued; in a controller reset a read is served at once by degraded
reads and a write held. -/
def State.issueStk (s : State) (n : Nat) (e : StkEnt) : State :=
  let s1 := if e.req.unregulated then s else (s.countIssued e.cls 1 e.guar).takeMark (e.mark n)
  let x := s1.stack n
  if x.state = .reset then
    if e.req.write then (s1.setStack n { x with heldWrites := x.heldWrites ++ [{ e with delayed := true }] }).excursions 1
    else (s1.giveSlot n e).excursions 1
  else
    let y := x.flushIf (fun m => decide (m.slot = e.req.slot))
    s1.setStack n { y with queues := Table.modify [] y.queues e.req.source (· ++ [e]) }

/-- One waiting request, in order of arrival: issued where it has a slot and room, else it waits, and the later ones of
its source behind it.
(DESIGN CHOICE, assumption 117.) -/
def admitOne (n : Nat) (a : State × List Nat) (e : StkEnt) : State × List Nat :=
  let f := a.1.marked n e
  if !(a.2.contains e.req.source) && (e.req.unregulated || a.1.slotFree n f.guar e.req.party.toNat) && (a.1.stack n).hasRoom f then
    (a.1.issueStk n f, a.2)
  else
    let x := a.1.stack n
    (a.1.setStack n { x with waits := x.waits ++ [e] }, e.req.source :: a.2)

/-- The waiting requests of a stack, oldest first (R281). -/
def State.admitWaits (s : State) (n : Nat) : State :=
  let x := s.stack n
  if x.waits.isEmpty then s else (x.waits.foldl (admitOne n) (s.setStack n { x with waits := [] }, [])).1

/-- Every stack's. -/
def State.admitAll (s : State) : State := s.variant.stackList.foldl State.admitWaits s

/-- A request arrives at a controller: it is issued, or waits for a slot or for room.
(DESIGN CHOICE, assumptions 39, 69.) -/
def execStackRequestArrival (n : Nat) (r : StackReq) (s : State) : Outcome :=
  .next (
    let x := s.stack n
    if !(s.variant.hasStack n) || decide (x.state = .failed) then s
    else
      let e : StkEnt := { req := s.sized n (s.tied r), arrive := x.arrivals, count := s.now, cls := 63, guar := false }
      (s.setStack n { x with arrivals := x.arrivals + 1, waits := x.waits ++ [e] }).admitWaits n)

/-! ## The next activation (R282 to R284, R387 to R389) -/

/-- The earlier of two deadlines. -/
def sooner (a b : Option Nat) : Option Nat :=
  match a, b with
  | some x, some y => some (min x y)
  | some x, none => some x
  | none, y => y

/-- Effective deadline under the source's latency target; a promotion request of a window position takes the earliest
of the reads that wait on it (R283), which gives it their highest urgency. -/
def State.effDeadline (s : State) (e : StkEnt) : Option Nat :=
  let t := (Table.get 0 s.qos.latTarget e.req.source).toNat
  let own := sooner e.req.deadline (if t = 0 then none else some (e.count + t))
  match e.req.for_ with
  | .position w p =>
    (s.place.stalls.filter (fun x => decide (x.window = w) && (s.positionKeys w p).contains x.tract)).foldl
      (fun a x => sooner a x.urgent) own
  | _ => own

/-- Urgency level. -/
def State.urgency (s : State) (e : StkEnt) : Nat :=
  match s.effDeadline e with
  | none => 0
  | some d =>
    if d ≤ s.now + s.qos.t3.toNat then 3
    else if d ≤ s.now + s.qos.t2.toNat then 2
    else if d ≤ s.now + s.qos.t1.toNat then 1
    else 0

/-- Highest urgency of a queue's requests that have not started. -/
def State.queueUrgency (s : State) (q : List StkEnt) : Nat :=
  (q.filter (fun e => !e.started)).foldl (fun a e => max a (s.urgency e)) 0

/-- The request can start: bank and pseudo-channel free, the merge entries it waits for written (R400), of its slot
and, where its metadata word is not cached, of that word's, and its slot not being copied. -/
def Stack.canStart (x : Stack) (n : Nat) (e : StkEnt) : Bool :=
  !(x.queues.any (fun q => q.2.any (fun f => f.started && sameBank n f.req.slot e.req.slot))) &&
    !(x.retraining.contains (pcOf n e.req.slot)) &&
    !(x.merge.any (fun m => decide (m.slot = e.req.slot) && m.flushing)) &&
    (e.req.write || x.mdc.contains (e.req.slot / 16) || !(x.merge.any (fun m => decide (m.slot = metaSlot n e.req.slot)))) &&
    !(x.remapping.contains e.req.slot)

/-- The pseudo-channel takes one more activation in this count of 40 ns: at most one every 2 ns (R389). -/
def State.mayActivate (s : State) (n pc : Nat) : Bool :=
  let a := Table.get (0, 0) (s.stack n).acts pc
  decide (a.1 ≠ s.now ∨ a.2 < 20)
def State.activate (s : State) (n pc : Nat) : State :=
  let x := s.stack n
  let a := Table.get (0, 0) x.acts pc
  s.setStack n { x with acts := Table.put (0, 0) x.acts pc (if a.1 = s.now then (a.1, a.2 + 1) else (s.now, 1)) }

/-- The request can start now. -/
def State.canStart (s : State) (n : Nat) (e : StkEnt) : Bool := (s.stack n).canStart n e && s.mayActivate n (pcOf n e.req.slot)

/-- The eligible requests, one per source, with the urgency of each. -/
def State.eligible (s : State) (n : Nat) : List (Nat × StkEnt × Nat) :=
  (s.stack n).queues.filterMap (fun (q : Nat × List StkEnt) =>
    match q.2.find? (fun e => !e.started) with
    | some e => if q.1 ≠ srcMaint ∧ s.canStart n e then some (q.1, e, s.queueUrgency q.2) else none
    | none => none)

/-- The keys of R284, in order. -/
def stkBefore (a b : Nat × StkEnt × Nat) : Bool :=
  if a.2.1.guar ≠ b.2.1.guar then a.2.1.guar
  else if a.2.2 ≠ b.2.2 then decide (b.2.2 < a.2.2)
  else if a.2.1.arrive ≠ b.2.1.arrive then decide (a.2.1.arrive < b.2.1.arrive)
  else decide (a.1 < b.1)

/-- The request the controller starts next, of `source`: the one R284 chooses, or maintenance's own. While
sealed accounting is in force a turn or window serves one party (R311): the choice is then among that party's requests,
and falls where the sectors fit in the time left. -/
def State.chosen (s : State) (n source : Nat) : Option StkEnt :=
  if source = srcMaint then
    match (Table.get [] (s.stack n).queues srcMaint).find? (fun e => !e.started) with
    | some e => if s.canStart n e then some e else none
    | none => none
  else
    let all := s.eligible n
    match all.find? (fun e => decide (e.1 = source)) with
    | none => none
    | some c =>
      let rivals := if s.ten.isSealed then all.filter (fun e => decide (e.2.1.req.party = c.2.1.req.party)) else all
      if rivals.any (fun e => stkBefore e c) || (s.servedAt n c.2.1.req.party.toNat c.2.1.req.sectors).isNone then none
      else some c.2.1

/-! ## What the sector code finds (R383, R395 to R397, R405) -/

/-- Look up a slot's metadata line: a read that misses counts; the cache holds 65,536 lines. -/
def Stack.lookup (x : Stack) (slot : Nat) (write : Bool) : Stack :=
  let l := slot / 16
  let hit := x.mdc.contains l
  { x with mdc := (l :: x.mdc.filter (fun y => decide (y ≠ l))).take 65536
           mdcMisses := if hit || write then x.mdcMisses else x.mdcMisses + 1 }

/-- A sector was corrected and written back: a repeat within 24 hours is a hard fault; more than 8 on a
pseudo-channel within 1 ms start its retraining. `k` is 64 × slot + sector. -/
def State.sectorCorrected (s : State) (n k : Nat) : State :=
  let x := s.stack n
  let pc := pcOf n (k / 64)
  let recent := fun (e : Nat × Nat) => decide (s.now < e.2 + 2160000000000)
  let again := x.corrected.any (fun e => decide (e.1 = k) && recent e)
  let burst := (x.corrAt.filter (fun e => decide (s.now < e.2 + 25000))) ++ [(pc, s.now)]
  let many := decide (8 < (burst.filter (fun e => decide (e.1 = pc))).length)
  let s1 := s.setStack n { x with
    corrected := (x.corrected.filter (fun e => decide (e.1 ≠ k) && recent e)) ++ [(k, s.now)]
    corrAt := if many then burst.filter (fun e => decide (e.1 ≠ pc)) else burst }
  let s2 := if again then s1.hardFault n (k / 64) else s1
  if many then s2.startRetrain n pc else s2

/-- One sector of a request's read, decoded: corrected and written back, or passed on marked uncorrectable, which the
memory path treats as a CRC failure (R396). -/
def readSector (n slot : Nat) (s : State) (f : SectorRead) : State :=
  let x := s.stack n
  match sectorFound f with
  | .good => s
  | .correct _ => (s.setStack n { x with ceSectors := x.ceSectors + 1 }).sectorCorrected n (64 * slot + f.sector % 64)
  | .uncorrectable =>
    let s1 := s.setStack n { x with ueSectors := x.ueSectors + 1 }
    match s.blockOn n slot with
    | some b => s1.crcFailed b.1 b.2
    | none => s1

/-- The metadata word that a write changes is passed to the merge buffer, 4 bytes of its sector (R383). -/
def State.putWord (s : State) (n : Nat) (r : StackReq) : State :=
  match r.word with
  | some w => s.mergeOne n
      { slot := metaSlot n r.slot, sector := metaSector r.slot, data := BitVec.ofNat 512 (w.toNat * 2 ^ (32 * (r.slot % 16)))
        mask := 0xF#64 <<< (4 * (r.slot % 16)), source := r.source, merged := s.now }
  | none => s

/-- The chosen request starts with one activation of its row. `found` says how the sectors it transfers came back. -/
def execActivationStart (n source : Nat) (found : List SectorRead) (s : State) : Outcome :=
  .next (
    let x := s.stack n
    if x.state ≠ .ready then s
    else match s.chosen n source with
      | none =>
        (match (Table.get [] x.queues source).find? (fun e => !e.started) with
         | some e =>
           if e.req.write || x.mdc.contains (e.req.slot / 16) then s
           else s.setStack n (x.flushIf (fun m => decide (m.slot = metaSlot n e.req.slot)))
         | none => s)
      | some e =>
        let y := { x with queues := Table.modify [] x.queues source (fun (q : List StkEnt) =>
          q.map (fun (f : StkEnt) => if f = e then { f with started := true } else f)) }
        let s0 := (s.setStack n (y.lookup e.req.slot e.req.write)).activate n (pcOf n e.req.slot)
        let s1 := match (if source = srcMaint then none else s.servedAt n e.req.party.toNat e.req.sectors) with
          | some t => if s.ten.isSealed then s0.servedTo n t else s0
          | none => s0
        if e.req.write then s1.putWord n e.req
        else (found.filter (fun f => decide (f.sector < e.req.sectors))).foldl (readSector n e.req.slot) s1)

/-- The oldest request of a source returns its data or acknowledgment; the time that a reset added is reckoned
against one count. -/
def execStackRequestComplete (n source : Nat) (s : State) : Outcome :=
  .next (
    let x := s.stack n
    match Table.get [] x.queues source with
    | [] => s
    | e :: rest =>
      if !e.started || decide (x.state ≠ .ready) then s
      else
        let s1 := (s.setStack n { x with queues := Table.put [] x.queues source rest }).giveSlot n e
        State.admitWaits (if e.delayed then s1.excursion (s.now - e.count - 1) else s1) n)

/-! ## Refresh, retraining, scrub (R392 to R394, R397) -/

/-- A bank's refresh falls due: it runs unless a request is eligible there, is postponed at most 8 times, then
forced.
(DESIGN CHOICE, assumption 33.) -/
def execRefresh (n pc bank : Nat) (s : State) : Outcome :=
  .next (
    let x := s.stack n
    let k := 64 * pc + bank
    if !(s.variant.hasStack n) || decide (x.state ≠ .ready) || decide (pcsOf n ≤ pc) || decide (64 ≤ bank) then s
    else if (s.eligible n).any (fun e => decide (pcOf n e.2.1.req.slot = pc) && decide (bankOf n e.2.1.req.slot = bank)) then
      if Table.get 0 x.postponed k < 8 then s.setStack n { x with postponed := Table.modify 0 x.postponed k (· + 1) }
      else s.setStack n { x with postponed := Table.put 0 x.postponed k 0, refForced := x.refForced + 1 }
    else s.setStack n { x with postponed := Table.put 0 x.postponed k 0 })

/-- The interval trigger of a pseudo-channel is due: once in every RETRAIN_INT milliseconds, the pseudo-channels of a
stack spaced evenly over the interval. -/
def State.retrainDue (s : State) (n pc : Nat) : Bool :=
  let x := s.stack n
  let i := 25000 * x.retrainInt.toNat
  let first := pc * i / pcsOf n
  decide (first ≤ s.now ∧ Table.get 0 x.trainedAt pc < first + (s.now - first) / max 1 i * i)

def execPcRetrain (n pc : Nat) (s : State) : Outcome :=
  .next (
    if s.variant.hasStack n && s.retrainDue n pc then
      (s.setStack n { s.stack n with trainedAt := Table.put 0 (s.stack n).trainedAt pc s.now }).startRetrain n pc
    else s)

/-- A retraining ends: trained, tried again, or lost at the third failure; a held trigger is taken.
(DESIGN CHOICE, assumption 34.) -/
def execPcRetrainEnd (n pc : Nat) (passed : Bool) (s : State) : Outcome :=
  .next (
    let x := s.stack n
    if !(x.retraining.contains pc) || decide (x.state ≠ .ready) then s
    else if passed then
      State.takeTriggers (s.setStack n { x with retraining := x.retraining.filter (fun y => decide (y ≠ pc))
                                                fails := Table.del x.fails pc
                                                trainTemp := Table.put 0 x.trainTemp pc x.temp })
    else if Table.get 0 x.fails pc < 2 then s.setStack n { x with fails := Table.modify 0 x.fails pc (· + 1) }
    else (s.setStack n { x with retraining := x.retraining.filter (fun y => decide (y ≠ pc))
                                trig := x.trig.filter (fun y => decide (y ≠ pc)) }).losePc n pc)

/-- Sectors that a pass reads: every slot's, and the metadata region's. -/
def passSectors (n : Nat) : Nat := 64 * dataSlots n + dataSlots n / 16

/-- Counts from one scrub read to the next, so that a pass takes SCRUB_HOURS (R397). -/
def Stack.scrubStep (x : Stack) (n : Nat) : Nat := x.scrubHours.toNat * 90000000000 / passSectors n

/-- An uncorrectable sector that scrub finds: a hard fault of its row (R405), and the memory path rebuilds the slot's
block as step 2 of R89 does. -/
def State.scrubFault (s : State) (n slot : Nat) : State :=
  let s1 := s.hardFault n slot
  match s.blockOn n slot with
  | some b =>
    let k := extBlkKey b.1 b.2
    if mwPoison (s.blkMeta b.1 b.2) ∨ (s.recoverStage k).isSome then s1 else s1.recover k .scrub
  | none => s1

/-- Scrub reads its next sector. -/
def execScrubStep (n : Nat) (found : Option SectorRead) (s : State) : Outcome :=
  .next (
    let x := s.stack n
    if !(s.variant.hasStack n) || decide (x.state ≠ .ready) || !x.scrubEn || !x.retraining.isEmpty || s.stackWiping n ||
      decide (s.now < x.scrubAt + x.scrubStep n) then s
    else
      let k := x.scrubPos
      let last := decide (passSectors n ≤ k + 1)
      let s1 := s.setStack n { x with scrubPos := if last then 0 else k + 1, scrubAt := s.now
                                      passes := if last then x.passes + 1 else x.passes }
      let y := s1.stack n
      match found.map sectorFound with
      | some (.correct _) => (s1.setStack n { y with scrubCe := y.scrubCe + 1 }).sectorCorrected n k
      | some .uncorrectable => (s1.setStack n { y with scrubUe := y.scrubUe + 1 }).scrubFault n (k / 64)
      | _ => s1)

/-! ## Controller resets (R408, R412, R413) -/

/-- Bound of a reset in counts. -/
def resetBound (n : Nat) : Nat := if n < 12 then 1250 else 750

/-- Order of arrival.
(DESIGN CHOICE, assumption 36.) -/
def insArrive (e : StkEnt) : List StkEnt → List StkEnt
  | [] => [e]
  | q :: r => if e.arrive < q.arrive then e :: q :: r else q :: insArrive e r

/-- FAULT entries of those descriptors (R464): action 3, a unit reset, or 4, a controller reset. -/
def State.jrnReset (s : State) (l : List (Nat × Nat)) (unit : BitVec 5) (inst action : Nat) : State :=
  (l.foldl (fun (a : List (Nat × Nat)) e => if a.any (fun x => decide (x.1 = e.1)) then a else a ++ [e]) []).foldl
    (fun (st : State) e => st.jrnFault e.1 unit inst action e.2) s

/-- Descriptors whose requests are at a controller, and those that launched a program whose requests are (R464). -/
def State.stackDescs (s : State) (l : List StkEnt) : List (Nat × Nat) :=
  l.filterMap (fun e => match e.req.for_ with
    | .desc d => some (d, 0)
    | .program k => (s.program k).map (fun g => (g.desc, 0))
    | _ => none)

/-- The controller's own state is gone: reads are served by degraded reads, writes are held, the memory path
keeps the merge entries.
(DESIGN CHOICE, assumption 33.) -/
def State.resetController (s : State) (n cause : Nat) : State :=
  let x := s.stack n
  let all := ((x.queues.flatMap Prod.snd).filter (fun e => decide (e.req.source ≠ srcMaint))).foldl
    (fun a e => insArrive e a) []
  let reads := all.filter (fun e => !e.req.write)
  let writes := (all.filter (fun e => e.req.write)).map (fun (e : StkEnt) => { e with started := false, delayed := true })
  let y := { x with
    state := .reset, queues := [], merge := [], copies := x.merge, mdc := [], postponed := [], retraining := [], trig := []
    heldWrites := x.heldWrites ++ writes, resetting := some s.now, resetCause := cause, resets := x.resets + 1
    resetAt := (x.resetAt.filter (fun t => decide (s.now < t + 90000000000))) ++ [s.now] }
  let s1 := reads.foldl (fun (st : State) e => st.giveSlot n e) (s.setStack n y)
  let s2 := s1.jrnReset (s.stackDescs all) Uk.stack n 4
  State.excursions { s2 with rel := { s2.rel with ctrlResets := s2.rel.ctrlResets + 1 } } all.length

/-- (DESIGN CHOICE, assumption 35.) -/
def execControllerReset (n cause : Nat) (s : State) : Outcome :=
  .next (
    let x := s.stack n
    if !(s.variant.hasStack n) then s
    else match x.state with
      | .ready => s.resetController n cause
      | .selfRefresh => s.resetController n cause
      | .reset => s.setStack n { x with resetting := some s.now, resetCause := cause }
      | _ => s)

/-- The reset ends: the merge entries are written again, the held writes released; at the third within the hour
the stack is lost.
(DESIGN CHOICE, assumption 36.) -/
def execControllerResetEnd (n : Nat) (s : State) : Outcome :=
  .next (
    let x := s.stack n
    match x.resetting with
    | none => s
    | some t =>
      if resetBound n < s.now - t then s
      else
        let s1 := s.raise 0x0302 Sev.warning Uk.stack n x.resetCause (s.now - t) 0
        if 3 ≤ (x.resetAt.filter (fun u => decide (s.now < u + 90000000000))).length then s1.loseStack n 1
        else
          let live := (List.range (pcsOf n)).filter (fun pc => !(x.lostMask.getLsbD pc))
          let y := { x with
            state := if s.clk.mstate = .doze then .selfRefresh else .ready
            resetting := none, heldWrites := [], copies := []
            merge := x.copies.map (fun (e : MergeEnt) => { e with flushing := true })
            queues := x.heldWrites.foldl (fun (q : Table (List StkEnt)) e => Table.modify [] q e.req.source (· ++ [e])) []
            retrains := x.retrains + BitVec.ofNat 32 live.length
            trainTemp := live.foldl (fun (m : Table Byte) pc => Table.put 0 m pc x.temp) x.trainTemp }
          (s1.setStack n y).mergeGoOn n)

/-- The bound of R413 passes without an end: the stack is lost. -/
def execControllerResetTimeout (n : Nat) (s : State) : Outcome :=
  .next (
    match (s.stack n).resetting with
    | some t => if resetBound n < s.now - t then s.loseStack n 0 else s
    | none => s)

/-! ## Resets of the other units (R412, R415, R416) -/

/-- Instances of a kind of unit. -/
def unitCount : UnitKind → Nat
  | .mover => 64
  | .encoder => 16
  | .egress => 8
  | _ => 1

/-- Unit number of a kind in events. -/
def unitNo : UnitKind → BitVec 5
  | .mover => Uk.mover | .encoder => Uk.encoder | .egress => Uk.egress
  | .placement => Uk.placement | .scanner => Uk.scanner | .pip => Uk.pip

/-- Requests that the unit has in hand. -/
def State.unitLoad (s : State) (u : UnitKind) (i : Nat) : Nat :=
  match u with
  | .encoder => (Table.get [] s.comp.engines i).length + natOf (Table.find s.comp.engBuild i).isSome
  | .egress => (s.bank (1000 + i)).queue.length
  | .placement => (s.place.tracts.filter (fun e => decide (e.2.state = .promoting ∨ e.2.state = .evicting) || e.2.fetching)).length
  | .scanner => (s.chan.chans.filter (fun e => e.2.reading)).length
  | .pip => natOf s.sec.building.isSome + natOf s.sec.cmdBusy
  | .mover => (s.chan.descs.filter (fun e => decide (e.2.phase = .working) && decide (0 < e.2.transactions) &&
      decide (e.1 % 64 = i))).length

/-- Descriptors that the reset delays, with the index of a block in hand: those whose work the unit has, and those that
launched a program whose block it codes. -/
def State.unitDescs (s : State) (u : UnitKind) (i : Nat) : List (Nat × Nat) :=
  let ofProg := fun (c : Nat) => (s.progOf (podOf c)).map (fun g => g.2.desc)
  match u with
  | .encoder =>
    (Table.get [] s.comp.engines i).filterMap (fun j => match j.desc, j.core with
      | some d, _ => some (d, j.index)
      | none, some c => (ofProg c).map (fun d => (d, 0))
      | none, none => none) ++ ((Table.find s.comp.engBuild i).map (fun d => (d, 0))).toList
  | .egress => (s.bank (1000 + i)).queue.filterMap (fun q => match q.reader with
      | none => some (q.owner, q.addr)
      | some (.desc g) => (s.chan.descs.find? (fun e => decide (e.2.go = g))).map (fun e => (e.1, 0))
      | some _ => none)
  | .placement => (s.chan.descs.filter (fun e => decide (e.2.phase = .working) && decide (0x10 ≤ e.2.opcode ∧ e.2.opcode ≤ 0x14))).map
      (fun e => (e.1, 0))
  | .mover => (s.chan.descs.filter (fun e => decide (e.2.phase = .working) && decide (0 < e.2.transactions) &&
      decide (e.1 % 64 = i))).map (fun e => (e.1, if e.2.opcode = 0x01 then e.2.done / 4096 else e.2.done))
  | .scanner => []
  | .pip => []

/-- What a reset of the unit discards; the work in hand is done again from what other state keeps.
(DESIGN CHOICE, assumption 59.) -/
def State.unitDiscard (s : State) (u : UnitKind) (i : Nat) : State :=
  match u with
  | .egress =>
    let x := s.bank (1000 + i)
    s.setBank (1000 + i) { x with slots := [], queue := x.queue.map (fun (q : BankBlock) =>
      match q.phase with | .checked => { q with phase := .queued } | _ => q) }
  | .encoder => { s with comp := { s.comp with engSlots := Table.del s.comp.engSlots i } }
  | .placement => { s with place := { s.place with tracts := s.place.tracts.map (fun (e : Nat × Tract) =>
      (e.1, { e.2 with cached := false, fetching := false })) } }
  | .scanner => { s with chan := { s.chan with chans := s.chan.chans.map (fun (e : Nat × Chan) =>
      (e.1, { e.2 with reading := false, lastRead := 0 })) } }
  | .pip =>
    let c := s.sec
    let s1 := { s with sec := { c with building := none, dropped := c.dropped || c.building.isSome } }
    if !c.cmdBusy then s1
    else { s1.secEnd (if c.activating.isSome then 0x0A else (Config.freeWord s.free).toNat % 256) St.cancelled with
      free := s.free + 1 }
  | _ => s

/-- An egress bank that starts again looks its queued husks' tables up once more.
(DESIGN CHOICE, assumption 59.) -/
def State.unitRestart (s : State) (u : UnitKind) (i : Nat) : State :=
  match u with
  | .egress =>
    let x := s.bank (1000 + i)
    s.setBank (1000 + i) (x.queue.foldl (fun (y : Bank) q =>
      if mwTag q.word = 0x3F ∨ mwPoison q.word then y else y.lookup 64 (mwId q.word)) x)
  | .scanner => s.chan.chans.foldl (fun (st : State) e => if e.2.state = .running then st.readLine e.1 else st) s
  | _ => s

/-- A unit resets; one that is already resetting starts the same reset again, which is not counted a second time (R412).
(DESIGN CHOICE, assumption 35.) -/
def State.startReset (s : State) (u : UnitKind) (i cause : Nat) : State :=
  if unitCount u ≤ i then s
  else
    let again := s.unitDown u i
    let s0 := if again then s else (s.excursions (s.unitLoad u i)).jrnReset (s.unitDescs u i) (unitNo u) i 3
    let s1 := s0.unitDiscard u i
    let r : UnitReset := { unit := u, inst := i, start := s.now, cause := cause }
    { s1 with rel := { s1.rel with
        unitResets := (s1.rel.unitResets.filter (fun q => !(decide (q.unit = u) && decide (q.inst = i)))) ++ [r]
        unitResetCnt := if again then s1.rel.unitResetCnt else s1.rel.unitResetCnt + 1 } }

/-- (DESIGN CHOICE, assumption 92.) -/
def execUnitReset (u : UnitKind) (i cause : Nat) (s : State) : Outcome :=
  .next (
    s.startReset u i cause)

/-- ACTIVATE of MOVER goes on to mover `i`, or completes (R443). The cause of its resets, the spec leaves open.
(DEDUCED, assumption 96.) -/
def State.activateMovers (s : State) (i : Nat) : State :=
  if i < 64 then
    let s1 := s.startReset .mover i Config.resetCause
    { s1 with sec := { s1.sec with activating := some (1, i) } }
  else (s.fwActivated 1).secEnd 0x0A St.ok

/-- The unit's image, where it runs one, is valid (R435). -/
def State.unitImageOk (s : State) : UnitKind → Bool
  | .pip => s.fwOk 0
  | .mover => s.fwOk 1
  | _ => true

def execUnitResetEnd (u : UnitKind) (i : Nat) (s : State) : Outcome :=
  .next (
    if !s.unitImageOk u then s
    else match s.rel.unitResets.find? (fun q => decide (q.unit = u) && decide (q.inst = i)) with
    | none => s
    | some r =>
      let s1 := { s with rel := { s.rel with unitResets := s.rel.unitResets.erase r } }
      let s2 := s1.raise 0x0306 Sev.warning (unitNo u) i r.cause (s.now - r.start) 0
      let s3 := (if 0 < s2.unitLoad u i then s2.excursion (s.now - r.start) else s2).unitRestart u i
      if u = .mover ∧ s.sec.activating = some (1, i) then s3.activateMovers (i + 1) else s3)

end Sys2Proof.Machine
end

