-- ==== Sys2Proof/Machine/Reset.lean ====
section
/-! DEFINITION. Firmware images and their boot, what a module reset wipes and keeps, MODULE_RESET (R426 to R428,
R433 to R436, R497). -/

namespace Sys2Proof.Machine

open Sys2Proof.Crypto

/-! ## Firmware slots (R434, R435) -/

/-- A valid slot becomes active: its mark clears, its digest and SVN are measured.
(DEDUCED, assumption 86.) -/
def State.takeSlotImage (s : State) (k : Nat) (isB fallback : Bool) : State :=
  let x := s.fwKind k
  match (x.slot isB).image with
  | none => s
  | some b =>
    s.setFw k { x.setSlot isB { image := some b, staged := false } with
      activeB := isB, fallback := fallback, svn := fwSvn b, digest := BitVec.ofNat 512 (leNat (fwDigest b)) }

/-! ## Boot (R435, R436) -/

/-- Slots of a kind in the order they are tried: a STAGED one, the active one, the other. -/
def FwKind.order (x : FwKind) : List Bool :=
  let l := [x.activeB, !x.activeB]
  l.filter (fun i => (x.slot i).staged) ++ l.filter (fun i => !(x.slot i).staged)

/-- One kind boots; a kind without a valid slot leads to recovery (true), recorded for the first such kind. -/
def bootKind (a : State × Bool) (k : Nat) : State × Bool :=
  let s := a.1
  let l := (s.fwKind k).order
  match l.find? (s.slotValid k) with
  | some i =>
    let fell := decide (l.head? ≠ some i)
    let s1 := s.takeSlotImage k i fell
    (if fell then s1.raise 0x0004 Sev.warning Uk.security 0 k (natOf i) (s1.fwKind k).svn else s1, a.2)
  | none => (if a.2 then s else s.raise 0x0005 Sev.fatal Uk.security 0 k 0 0, true)

/-- Acorn's checks: the module goes on to a start-up phase, or to recovery.
(DEDUCED, assumptions 85, 86.) -/
def State.bootFirmware (s : State) (next : Boot) : State :=
  let a := [0, 1, 2].foldl bootKind (s, false)
  { a.1 with power := { a.1.power with boot := if a.2 then .recovery else next } }

/-! ## What is wiped (R258, R427) -/

/-- What a stack keeps: its die, and its part of the repair record. -/
def Stack.kept (x : Stack) : Stack :=
  { state := if x.state = .failed then .failed else .training, temp := x.temp, hot := x.hot, lost := x.lost, remap := x.remap }

/-- Retirements that have not ended are in no repair record: the reserve stripes they took are free again (R406).
(DESIGN CHOICE, assumption 24.) -/
def State.dropRetires (s : State) (t : Tier) : State :=
  let n := (s.rel.retires.filter (fun r => decide (r.tier = t) && r.got && !r.ended)).length
  if n = 0 then s else s.setReserve t (s.reserve t + n)

/-- Memories, and with them extents, parties, channels, gates, windows, tables, links: all at their reset values.
What was sent stays sent; usable capacity and the repair record are kept. Host ports keep PME enabled for D3cold. -/
def State.wipeAll (s : State) : State :=
  let s := (s.dropRetires .near).dropRetires .deep
  { s with
    place := { nearUsable := s.place.nearUsable, deepUsable := s.place.deepUsable }
    comp := {}
    pods := {}
    chan := { hostTx := s.chan.hostTx }
    qos := {}
    ten := { bootNonce := s.ten.bootNonce }
    fab := { tx := s.fab.tx, links := s.fab.links, flits := s.fab.flits }
    host := { ports := (s.host.ports.map (fun (e : Nat × HostPort) =>
      (e.1, ({ perst := e.2.perst, wakeOut := e.2.wakeOut, pmeEn := e.2.pmeEn } : HostPort)))).filter (fun e => decide (e.2 ≠ {})) }
    rel := { stks := (s.rel.stks.map (fun (e : Nat × Stack) => (e.1, e.2.kept))).filter (fun e => decide (e.2 ≠ {}))
             nearRes := s.rel.nearRes, deepRes := s.rel.deepRes
             resNear := s.rel.resNear, resDeep := s.rel.resDeep
             retiredNear := s.rel.retiredNear, retiredDeep := s.rel.retiredDeep }
    clk := { s.clk with mstate := .active, waking := none, gates := [], idleFor := 0, quietFor := 0 } }

/-- Host ports that are up. -/
def State.upPorts (s : State) : List Nat := (s.host.ports.filter (fun e => e.2.up)).map Prod.fst

/-- Every host link goes down with a cause, and every memory is lost. -/
def State.powerGone (s : State) (cause : Nat) : State := (s.upPorts.foldl (fun (st : State) p => st.linkDown p cause) s).wipeAll

/-- What a sideband input keeps: its filter and coalescing time.
(DESIGN CHOICE, assumption 82.) -/
def sideKept (now : Nat) (e : Nat × Side) : Nat × Side :=
  (e.1, { level := e.2.level, present := e.2.present, until_ := e.2.until_, since := now })

/-- A host port after its reset: PME disabled; an entry at its reset values is not listed. -/
def hostKept (e : Nat × HostPort) : Option (Nat × HostPort) :=
  if { e.2 with pmeEn := false } = {} then none else some (e.1, { e.2 with pmeEn := false })

/-- The registers of the blocks that `wipeAll` leaves: reset values; the event recorder, the fused and flash values
and the pins are kept, and LAST_OP and STATUS where `keep` says so (R427, R444). -/
def State.resetRegs (s : State) (keep : Bool) : State :=
  let c := s.sec
  { s with
    clk := { lcnt := s.clk.lcnt }
    sec := { uid := c.uid, deviceSeed := c.deviceSeed, rootKeys := c.rootKeys, fwKeys := c.fwKeys, rootRevoked := c.rootRevoked
             fwRevoked := c.fwRevoked, returnedFuse := c.returnedFuse, certInt := c.certInt, certDev := c.certDev, fw := c.fw
             lc := c.lc, fmKey := c.fmKey, acorn := c.acorn
             lastOp := if keep then c.lastOp else 0, cmdStatus := if keep then c.cmdStatus else 0 }
    evt := { arrived := s.evt.arrived, opened := s.evt.opened, queue := s.evt.queue, fatal := s.evt.fatal
             gen := s.evt.gen, seq := s.evt.seq
             opSecs := s.evt.opSecs, checkpoint := s.evt.checkpoint, cycles := s.evt.cycles, commitAt := s.evt.commitAt }
    power := { standby := s.power.standby, feed12 := s.power.feed12, feed36 := s.power.feed36, boot := s.power.boot
               inRange := s.power.inRange, goneAt := s.power.goneAt, flashBad := s.power.flashBad
               cap := (State.resetOf s.variant).power.cap
               sides := s.power.sides.map (sideKept s.now) }
    host := { s.host with ports := s.host.ports.filterMap hostKept }
    regs := { dieStep := s.regs.dieStep, boardStep := s.regs.boardStep, acornVer := s.regs.acornVer } }

/-! ## MODULE_RESET (R426 to R428) -/

/-- Ports begin to train: host ports that PERST# does not hold, and every fabric port that may.
(DEDUCED, assumption 83.) -/
def State.trainPorts (s : State) : State :=
  let s1 := if s.hostRails then
      (List.range s.variant.hostPorts).foldl (fun (st : State) p => if (st.hport p).perst then st else st.beginTraining p) s
    else s
  (List.range s.variant.fabPorts).foldl State.toTraining s1

/-- A module reset: cause 0 standby power, 1 D3cold, 2 a life-cycle transition, 3 RESET; `next` is the start-up phase
after Acorn's checks.
(DESIGN CHOICE, assumption 89.) -/
def State.moduleReset (s : State) (cause : Nat) (nonce : BitVec 128) (next : Boot) (keep : Bool) : State :=
  let s1 := (s.powerGone 2).resetRegs keep
  let s2 := { s1 with ten := { s1.ten with bootNonce := nonce }, power := { s1.power with goodAt := s1.now } }
  let s3 := (s2.bootFirmware next).trainPorts
  s3.raise (if cause < 2 then 0x0001 else 0x0002) Sev.info Uk.module 0 cause (nonce.toNat % 2 ^ 32) 0

end Sys2Proof.Machine
end

