-- ==== Sys2Proof/Machine/Power.lean ====
section
/-! DEFINITION. Standby power, the 36 V input, the rails, the start-up phases and module stops (R335, R336, R451,
R455, R474 to R478, R484 to R486). -/

namespace Sys2Proof.Machine

def State.setBoot (s : State) (b : Boot) : State := { s with power := { s.power with boot := b } }

/-! ## Module stop (R478, R485, R486) -/

/-- The rails go down and the module stops: recorded first, links dropped, memories lost.
(DEDUCED, assumption 87.) -/
def State.stop (s : State) (cause : Nat) : State :=
  ((s.raise 0x0502 Sev.fatal Uk.power 0 cause 0 0).powerGone 0).setBoot (.stopped cause)

/-- The module is stopped already, or has no power to bring down. -/
def State.isDown (s : State) : Bool :=
  match s.power.boot with
  | .unpowered => true
  | .stopped _ => true
  | _ => false

/-- Pip cannot write the event device or the life-cycle record: cause 6. -/
def State.flashStop (s : State) : State := if s.isDown then s else s.stop 6

/-- The open-drain outputs of the management group: MOD_ALERT_N is asserted while the module throttles or is stopped,
PWR_OK is released while every rail is in regulation (R477, R487). -/
def State.modAlert (s : State) : Bool :=
  decide (s.power.level ≠ 0) || (match s.power.boot with | .stopped _ => true | _ => false)
def State.pwrOk (s : State) : Bool := s.railsUp

/-- Every host port of the part is in D3hot. -/
def State.allD3hot (s : State) : Bool := (List.range s.variant.hostPorts).all (fun p => (s.hport p).d3hot)

/-- Undervoltage: D3cold if every host port was in D3hot, else a module stop. Of a module whose rails are down, the
input goes away. -/
def execInputLoss (s : State) : Outcome :=
  .next (
    let s0 := { s with power := { s.power with feed36 := false, goneAt := if s.power.feed36 then some s.now else s.power.goneAt } }
    if !s.power.standby then s
    else if !s.mainPower then s0
    else
      if s.allD3hot then (s0.powerGone 0).setBoot .d3cold else s0.stop 1)

/-- Above 42 V for more than 100 µs. -/
def execOvervoltage (s : State) : Outcome :=
  .next (
    if s.isDown then s else s.stop 2)

def execOverTemperature (s : State) : Outcome :=
  .next (
    let p := s.power
    if s.mainPower ∧ (115 ≤ p.tDie.toNat ∨ 105 ≤ p.tStack.toNat ∨ 125 ≤ p.tVr.toNat) then s.stop 3 else s)

/-- Flow below half the minimum for 5 s. -/
def execCoolantLoss (s : State) : Outcome :=
  .next (if s.mainPower ∧ 125000000 ≤ s.power.flowLow then s.stop 4 else s)

/-- What the return from a stop waits for: after an undervoltage or an overvoltage, the input within 30.0 to 40.0 V for
1 s; after any other cause, the input absent for at least 1 s. -/
def State.mayReturn (s : State) (cause : Nat) : Bool :=
  match (if cause ≤ 2 then s.power.inRange else s.power.goneAt) with
  | some t => decide (t + 25000000 ≤ s.now)
  | none => false

/-- The input stays good for 1 s, or was cycled and is applied again, as the cause asks: the full start-up that follows
D3cold.
(DEDUCED, assumption 87.) -/
def execStopReturn (nonce : BitVec 128) (s : State) : Outcome :=
  .next (
    match s.power.boot with
    | .stopped cause =>
      if s.mayReturn cause then
        { s with power := { s.power with feed36 := true, goneAt := none } }.moduleReset 1 nonce .stagger false
      else s
    | _ => s)

/-! ## Standby power (R248, R426, R451, R455, R475) -/

/-- Standby power appears: LCNT starts at 0, the cycle is counted, OP_SECONDS resumes, and a module reset follows.
With one feed present already, nothing changes. -/
def execStandbyPowerApplied (feed36 : Bool) (nonce : BitVec 128) (s : State) : Outcome :=
  .next (
    let p := s.power
    let q := { p with standby := true, feed12 := p.feed12 || !feed36, feed36 := p.feed36 || feed36 }
    if p.standby then { s with power := q }
    else
      let e := s.evt
      let s1 := { s with
        power := q
        clk := { s.clk with lcnt := 0 }
        evt := { e with commitAt := [], cycles := if e.cycles = 0xFFFF then e.cycles else e.cycles + 1
                        opSecs := match e.checkpoint with | some c => c + 64 | none => 0 } }
      s1.moduleReset 0 nonce .inputWait false)

/-- Both feeds are gone: all volatile state is lost, the queued records with it; the one being written may be torn.
(DESIGN CHOICE, assumption 90.) -/
def execStandbyPowerLoss (s : State) : Outcome :=
  .next (
    if !s.power.standby then s
    else
      let s1 := (s.powerGone 0).setBoot .unpowered
      let e := s1.evt
      let torn := match e.queue with
        | r :: _ => if Config.freeBool s1.free then [(r, true)] else []
        | [] => []
      let fatal := torn.filter (fun r => decide (r.1.sev = Sev.fatal))
      { s1 with
        free := s1.free + 1
        power := { s1.power with standby := false, feed12 := false, feed36 := false }
        evt := { e with arrived := [], opened := none, queue := [], fatal := e.fatal ++ fatal
                        gen := e.gen ++ torn.filter (fun r => decide (r.1.sev ≠ Sev.fatal)) } })

/-! ## The start-up phases (R335, R336, R477) -/

/-- Main power is back: WAKE# ends on the ports that PERST# does not hold (R258). -/
def State.endWake (s : State) : State :=
  { s with host := { s.host with ports := s.host.ports.map (fun (e : Nat × HostPort) =>
      if e.2.perst then e else (e.1, { e.2 with wakeOut := false })) } }

/-- 36 V is good: the stagger wait begins; after D3cold a module reset is due first. -/
def execInputGood (s : State) : Outcome :=
  .next (
    let s1 := { s with power := { s.power with feed36 := true, goodAt := s.now } }
    match s.power.boot with
    | .inputWait => s1.endWake.setBoot .stagger
    | .d3cold => { s1.endWake with sec := { s1.endWake.sec with resetDue := some 1 } }
    | .stopped c => { s1 with power := { s1.power with goneAt := if s.mayReturn c then s1.power.goneAt else none } }
    | _ => s)

/-- A rail's step begins. -/
def State.startRail (s : State) (k tries : Nat) : State :=
  { s with power := { s.power with boot := .ramp k tries, railAt := s.now } }

/-- The module's slot comes k × 250 ms later, k = MODULE_UID mod 8: its rail ramp starts. -/
def execStaggerSlotStart (s : State) : Outcome :=
  .next (
    match s.power.boot with
    | .stagger => if s.now < s.power.goodAt + 6250000 * (s.sec.uid.toNat % 8) then s else s.startRail 1 0
    | _ => s)

/-- The step after a rail's: step 5 feeds the deep stacks. -/
def State.nextRail (s : State) (k : Nat) : Nat := if k = 4 ∧ !s.variant.deep then 6 else k + 1

/-- A rail reaches regulation: the next one starts; after the last, PWR_OK is released and training begins. -/
def execRailStep (s : State) : Outcome :=
  .next (
    match s.power.boot with
    | .ramp k _ => if k < 6 then s.startRail (s.nextRail k) 0 else (s.setBoot .training).trainPorts
    | _ => s)

/-- A rail misses regulation 20 ms after its step began: tried once more, then the module stops. -/
def execRailTimeout (s : State) : Outcome :=
  .next (
    match s.power.boot with
    | .ramp k tries =>
      if s.now < s.power.railAt + 500000 then s else if tries = 0 then s.startRail k 1 else s.stop 5
    | _ => s)

/-- A stack that has trained. -/
def Stack.trained (x : Stack) (n : Nat) : Stack :=
  if x.state = .training then
    { x with state := .ready
             trainTemp := ((List.range (pcsOf n)).filter (fun pc => !(x.lostMask.getLsbD pc))).foldl
               (fun (m : Table Byte) pc => Table.put 0 m pc x.temp) [] }
  else x

/-- Every pseudo-channel has trained, and the wipe begins. -/
def execStackTrainingEnd (s : State) : Outcome :=
  .next (
    if s.power.boot = .training then
      (s.variant.stackList.foldl (fun (st : State) n => st.setStack n ((st.stack n).trained n)) s).setBoot .wiping
    else s)

/-- The wipe ends: triggers held meanwhile are taken, and self-test begins. -/
def execMemoryWipeEnd (s : State) : Outcome :=
  .next (if s.power.boot = .wiping then (s.setBoot .selfTest).takeTriggers else s)

/-- Self-test ends; its second failure stops the module. -/
def execSelfTestEnd (passed : Bool) (s : State) : Outcome :=
  .next (
    if s.power.boot ≠ .selfTest then s
    else if passed then s.setBoot .tested
    else if s.power.testFails = 0 then { s with power := { s.power with testFails := 1 } }
    else s.stop 7)

end Sys2Proof.Machine
end

