-- ==== Sys2Proof/Machine/Security.lean ====
section
/-! DEFINITION. Attestation, security commands, the life cycle, the debug signals (R437, R438, R440 to R446). -/

namespace Sys2Proof.Machine

open Sys2Proof.Crypto

/-! ## Attestation (R437, R438) -/

/-- Pip runs. -/
def State.pipUp (s : State) : Bool := !(s.unitDown .pip 0)

/-- GO: the nonce is captured and a quote is being built; ignored while one is, and in RETURNED. -/
def State.attGo (s : State) : State :=
  if !s.pipUp then s
  else if s.sec.building.isSome ∨ s.lcState = some .returned then { s with sec := { s.sec with dropped := true } }
  else { s with sec := { s.sec with building := some (s.sec.nonce, s.now), attReady := false, quote := [] } }

def execAttGo (s : State) : Outcome := .next s.attGo

/-- Codes of the life-cycle states (R438, R447). -/
def lcCode : Option LcState → Nat
  | some .blank => 0
  | some .provisioned => 1
  | some .field => 2
  | some .returned => 3
  | none => 7

/-- Key id of the FM key; 0 if none. -/
def State.fmKeyId (s : State) : Nat := match s.fmKey with | some k => keyId (bvB 32 k) | none => 0

/-- FLAGS of a quote. -/
def State.quoteFlags (s : State) : Nat :=
  natOf s.ten.isSealed + 2 * natOf s.fmKey.isSome + 4 * natOf ([0, 1, 2].any (fun k => (s.fwKind k).fallback)) +
    8 * natOf s.sec.activated

/-- Bytes 0 to 383 of a quote. -/
def State.quoteText (s : State) (nonce : BitVec 256) : Bytes :=
  leBytes 4 0x5141585A ++ leBytes 1 1 ++ leBytes 1 (lcCode s.lcState) ++ leBytes 1 s.variant.code ++ leBytes 1 s.quoteFlags ++
    bvB 8 s.sec.uid ++ bvB 16 s.ten.bootNonce ++ bvB 32 nonce ++ bvB 8 s.clk.lcnt ++ leBytes 8 s.fmKeyId ++
    leBytes 1 (s.fwKind 0).svn ++ leBytes 1 (s.fwKind 1).svn ++ leBytes 1 (s.fwKind 2).svn ++
    leBytes 1 (s.sec.rootRevoked.toNat + 16 * s.sec.fwRevoked.toNat) ++ leBytes 44 0 ++
    bvB 64 s.sec.acorn ++ bvB 64 (s.fwKind 0).digest ++ bvB 64 (s.fwKind 1).digest ++ bvB 64 (s.fwKind 2).digest

/-- A quote: its text and the signature under the identity key. -/
def State.quoteOf (s : State) (nonce : BitVec 256) : Bytes :=
  s.quoteText nonce ++ s.sign (ascii "ZX9 quote" ++ s.quoteText nonce)

/-- Pip signs the quote that is being built. -/
def State.quoteReady (s : State) : State :=
  match s.sec.building with
  | some b =>
    if !s.pipUp then s
    else { s with sec := { s.sec with building := none, attReady := true, quote := s.quoteOf b.1 } }
  | none => s

def execQuoteReady (s : State) : Outcome := .next s.quoteReady

/-- A quote is ready within 250,000 counts of its GO. -/
def State.quoteDue (s : State) : State :=
  match s.sec.building with
  | some b => if b.2 + 250000 ≤ s.now then s.quoteReady else s
  | none => s

/-! ## Command blocks (R440 to R442) -/

def secOp (b : Bytes) : Nat := fieldAt b 5 1

/-- BODY_BYTES of an operation. -/
def secBodyLen : Nat → Nat
  | 0x01 => 104
  | 0x05 => 8
  | 0x06 => 68
  | 0x07 => 8
  | 0x08 => 8
  | 0x0A => 8
  | _ => 0

def secBody (b : Bytes) : Bytes := (b.drop 64).take (secBodyLen (secOp b))

/-- SIG_FM and SIG_RH are required. -/
def State.needFm (s : State) (op : Nat) : Bool :=
  decide (op ∈ [0x01, 0x02, 0x03, 0x04, 0x06, 0x07, 0x0A]) || s.fmKey.isSome
def needRh (op : Nat) : Bool := decide (op = 0x05 ∨ op = 0x08)

/-- Body bytes that must be 0, as (first, length). -/
def secZero : Nat → Nat × Nat
  | 0x01 => (33, 7)
  | 0x05 => (1, 7)
  | 0x06 => (1, 3)
  | 0x07 => (2, 6)
  | 0x08 => (3, 5)
  | 0x0A => (1, 7)
  | _ => (0, 0)

/-- Values that a body's fields may take: SET and INDEX of REVOKE_KEY. -/
def secFields (b : Bytes) : Bool :=
  decide (secOp b ≠ 0x08) || (decide (fieldAt (secBody b) 1 1 ≤ 1) && decide (fieldAt (secBody b) 2 1 ≤ 3))

/-- MAGIC, VERSION, OP, BODY_BYTES and reserved bytes of the header. -/
def secHeader (b : Bytes) : Bool :=
  decide (fieldAt b 0 4 = 0x434C585A) && decide (fieldAt b 4 1 = 1) && decide (1 ≤ secOp b) && decide (secOp b ≤ 0x0A) &&
    decide (fieldAt b 6 2 = secBodyLen (secOp b)) && (sliceBytes b 40 24).all (fun v => decide (v = 0))

/-- The block's length for its operation. -/
def State.secLength (s : State) (b : Bytes) : Nat :=
  64 + secBodyLen (secOp b) + 64 * (natOf (s.needFm (secOp b)) + natOf (needRh (secOp b)))

/-- Reserved bytes of the body. -/
def secBodyOk (b : Bytes) : Bool :=
  (sliceBytes (secBody b) (secZero (secOp b)).1 (secZero (secOp b)).2).all (fun v => decide (v = 0)) && secFields b

/-- Steps 1 and 2: MALFORMED, or a refused read.
(DEDUCED, assumption 93.) -/
def State.secForm (s : State) (b : Bytes) (refused : Bool) : Option Status :=
  if s.sec.runBytes < 64 then some St.malformed
  else if b.length < 64 then some St.translationFault
  else if !(secHeader b) ∨ s.sec.runBytes ≠ s.secLength b then some St.malformed
  else if refused ∨ b.length < s.sec.runBytes then some St.translationFault
  else if !(secBodyOk b) then some St.malformed
  else none

/-- Operations accepted in a life-cycle state (R445). -/
def lcAccepts (st : Option LcState) (op : Nat) : Bool :=
  match st with
  | some .blank => decide (op ∈ [0x01, 0x05, 0x08, 0x09])
  | some .provisioned => decide (op ∈ [0x02, 0x04, 0x05, 0x06, 0x0A, 0x07, 0x08, 0x09])
  | some .field => decide (op ∈ [0x03, 0x04, 0x05, 0x06, 0x0A, 0x07, 0x08, 0x09])
  | some .returned => false
  | none => decide (op ≠ 0x01)

/-- A lock bit: set where its copies disagree three ways. -/
def lockSet (t : Tv Bool) : Bool := t.vote true

/-- Step 3: the state, recovery (R436) and the lock bits (R446) allow the operation. -/
def State.secAllowed (s : State) (op : Nat) : Bool :=
  lcAccepts s.lcState op && (decide (s.power.boot ≠ .recovery) || decide (op ∈ [0x05, 0x06, 0x08, 0x09])) &&
    !(lockSet s.sec.lcLock && decide (op ∈ [0x01, 0x02, 0x03, 0x04, 0x05])) &&
    !(lockSet s.sec.fwLock && decide (op ∈ [0x06, 0x0A, 0x07, 0x08]))

/-- The FM key that verifies: the body's for PROVISION. -/
def State.secFmKey (s : State) (b : Bytes) : Option Bytes :=
  if secOp b = 0x01 then some ((secBody b).take 32) else s.fmKey.map (bvB 32)

/-- The text that is signed, and the place of SIG_RH. -/
def secText (b : Bytes) : Bytes := b.take (64 + secBodyLen (secOp b))
def State.secRhAt (s : State) (b : Bytes) : Nat := 64 + secBodyLen (secOp b) + 64 * natOf (s.needFm (secOp b))

/-- A root key that the body names is not revoked.
(DEDUCED, assumption 94.) -/
def State.secRoots (s : State) (b : Bytes) : Bool :=
  if needRh (secOp b) then (s.rootKey (fieldAt (secBody b) 0 1)).isSome
  else if secOp b = 0x01 then (s.rootKey (fieldAt (secBody b) 32 1)).isSome
  else true

/-- Step 4. -/
def State.secSigned (s : State) (b : Bytes) : Bool :=
  let op := secOp b
  decide (fieldAt b 8 8 = s.sec.uid.toNat) && decide (fieldAt b 16 16 = s.ten.bootNonce.toNat) &&
    (!(s.needFm op) ||
      (decide (s.ten.fmSeq.toNat < fieldAt b 32 8) &&
        (match s.secFmKey b with
         | some k => ed25519Verify k (secText b) ((b.drop (64 + secBodyLen op)).take 64)
         | none => false))) &&
    s.secRoots b &&
    (!(needRh op) ||
      (match s.rootKey (fieldAt (secBody b) 0 1) with
       | some k => ed25519Verify k (ascii "ZX9 rhonel" ++ secText b) ((b.drop (s.secRhAt b)).take 64)
       | none => false))

/-- The command ends SIGNATURE_INVALID at a step, with its event. -/
def State.secReject (s : State) (op step : Nat) : State :=
  (s.raise 0x0200 Sev.notice Uk.fm 0 op 0 step).secEnd op St.signatureInvalid

/-- LAST_OP of a block: its OP byte where that was read; none of it otherwise.
(DESIGN CHOICE, assumption 92.) -/
def State.opRead (s : State) (b : Bytes) : Nat := if b.length < 6 then (Config.freeWord s.free).toNat % 256 else secOp b

/-- Run the security command of an operation: its block is checked in R441's order, then `f` does its own checks and
effect. A block that names another operation is left to that operation's command. -/
def State.secCommand (s : State) (op : Nat) (h : HostData) (f : State → Bytes → State) : State :=
  let b := h.bytes.take s.sec.runBytes
  if !s.sec.cmdBusy ∨ !s.pipUp ∨ s.sec.activating.isSome ∨ s.sec.resetDue.isSome then s
  else if 6 ≤ b.length ∧ secOp b ≠ op ∧ 1 ≤ secOp b ∧ secOp b ≤ 0x0A then s
  else match s.secForm b h.refused.isSome with
    | some st => { s.secEnd (s.opRead b) st with free := s.free + 1 }
    | none =>
      if !(s.secAllowed op) then s.secEnd op St.accessDenied
      else if !(s.secSigned b) then s.secReject op 4
      else
        let s1 := if s.needFm op then { s with ten := { s.ten with fmSeq := BitVec.ofNat 64 (fieldAt b 32 8) } } else s
        f s1 (secBody b)

/-! ## Life-cycle transitions (R442, R444) -/

/-- The record is written, an event recorded, and a module reset follows. -/
def State.transition (s : State) (op : Nat) (new : LcState) (key : Option (BitVec 256)) : State :=
  let old := lcCode s.lcState
  let c := { s.sec with lc := Tv.all new, fmKey := Tv.all key, returnedFuse := s.sec.returnedFuse || decide (new = .returned)
                        lastOp := BitVec.ofNat 8 op, cmdStatus := St.ok, resetDue := some 2 }
  if s.power.flashBad then { s with sec := { s.sec with returnedFuse := c.returnedFuse } }.flashStop
  else ({ s with sec := c }).raise 0x0003 Sev.notice Uk.security 0 old (lcCode (some new)) op

/-- The ticket names this module and the FM key.
(DEDUCED, assumption 94.) -/
def State.ticketOk (s : State) (b : Bytes) : Bool :=
  match s.rootKey (fieldAt b 32 1) with
  | some k => ed25519Verify k (ascii "ZX9 owner" ++ bvB 8 s.sec.uid ++ b.take 32) (sliceBytes b 40 64)
  | none => false

def execProvision (h : HostData) (s : State) : Outcome :=
  .next (s.secCommand 0x01 h (fun s b =>
    if s.ticketOk b then s.transition 0x01 .provisioned (some (BitVec.ofNat 256 (leNat (b.take 32))))
    else s.secReject 0x01 5))

def execEnterField (h : HostData) (s : State) : Outcome :=
  .next (s.secCommand 0x02 h (fun s _b => s.transition 0x02 .field s.fmKey))

def execLeaveField (h : HostData) (s : State) : Outcome :=
  .next (s.secCommand 0x03 h (fun s _b => s.transition 0x03 .provisioned s.fmKey))

def execRelease (h : HostData) (s : State) : Outcome :=
  .next (s.secCommand 0x04 h (fun s _b => s.transition 0x04 .blank none))

def execReturnCmd (h : HostData) (s : State) : Outcome :=
  .next (s.secCommand 0x05 h (fun s _b => s.transition 0x05 .returned none))

/-! ## Firmware and keys (R442, R443) -/

/-- STAGE: the image is read, verified and written to the inactive slot.
(DEDUCED, assumption 95.) -/
def execStage (h image : HostData) (s : State) : Outcome :=
  .next (s.secCommand 0x06 h (fun s b =>
    let k := fieldAt b 0 1
    let m := image.bytes.take s.sec.runData
    if image.refused.isSome ∨ image.bytes.length < s.sec.runData then s.secEnd 0x06 St.translationFault
    else if !(s.fwValid k m) ∨ fwDigest m ≠ sliceBytes b 4 64 then s.secReject 0x06 5
    else if s.sec.runData ≠ 128 + fwBody m then s.secEnd 0x06 St.malformed
    else
      let x := s.fwKind k
      (s.setFw k (x.setSlot (!x.activeB) { image := some m, staged := true })).secEnd 0x06 St.ok))

def execSvnCommit (h : HostData) (s : State) : Outcome :=
  .next (s.secCommand 0x07 h (fun s b =>
    let k := fieldAt b 0 1
    let v := fieldAt b 1 1
    let x := s.fwKind k
    if 3 ≤ k ∨ x.svn < v then s.secEnd 0x07 St.accessDenied
    else (s.setFw k { x with svnMin := max x.svnMin v }).secEnd 0x07 St.ok))

/-- A key is the last of its set that is not revoked. -/
def lastKey (revoked : BitVec 4) (i : Nat) : Bool :=
  !(revoked.getLsbD i) && (List.range 4).all (fun j => decide (j = i) || revoked.getLsbD j)

def execRevokeKey (h : HostData) (s : State) : Outcome :=
  .next (s.secCommand 0x08 h (fun s b =>
    let i := fieldAt b 2 1
    let c := s.sec
    if fieldAt b 1 1 = 0 then
      if i = fieldAt b 0 1 ∨ lastKey c.rootRevoked i then s.secEnd 0x08 St.accessDenied
      else { s with sec := { c with rootRevoked := c.rootRevoked ||| (1#4 <<< i) } }.secEnd 0x08 St.ok
    else if lastKey c.fwRevoked i then s.secEnd 0x08 St.accessDenied
    else { s with sec := { c with fwRevoked := c.fwRevoked ||| (1#4 <<< i) } }.secEnd 0x08 St.ok))

/-- ACTIVATE: the STAGED image becomes active, then the kind's units reset one at a time.
(DEDUCED, assumptions 95, 96.) -/
def execActivate (h : HostData) (s : State) : Outcome :=
  .next (s.secCommand 0x0A h (fun s b =>
    let k := fieldAt b 0 1
    let x := s.fwKind k
    if 3 ≤ k then s.secEnd 0x0A St.accessDenied
    else match [false, true].find? (fun i => (x.slot i).staged) with
      | none => s.secEnd 0x0A St.accessDenied
      | some i =>
        if !(s.slotValid k i) then s.secReject 0x0A 5
        else
          let s1 := s.takeSlotImage k i x.fallback
          let s2 := { s1 with sec := { s1.sec with activated := true } }
          match k with
          | 0 => ((s2.secEnd 0x0A St.ok).fwActivated 0).startReset .pip 0 Config.resetCause
          | 1 => s2.activateMovers 0
          | _ => s2.activatePods 0))

/-! ## Resets (R426, R442) -/

/-- The phase that a module reset other than those of standby power and D3cold goes on to: the rails stay up; out of
recovery they are still to be ramped.
(DESIGN CHOICE, assumption 89.) -/
def State.afterReset (s : State) : Boot :=
  if s.railsUp then .training else if s.power.feed36 then .stagger else .inputWait

/-- (DEDUCED, assumption 88.) -/
def execReset (h : HostData) (nonce : BitVec 128) (s : State) : Outcome :=
  .next (s.secCommand 0x09 h (fun s _b => (s.secEnd 0x09 St.ok).moduleReset 3 nonce (s.afterReset) true))

/-- A module reset that is due: the return from D3cold runs every phase. -/
def execModuleReset (cause : Nat) (nonce : BitVec 128) (s : State) : Outcome :=
  .next (
    if s.sec.resetDue ≠ some cause then s
    else s.moduleReset cause nonce (if cause = 1 then .stagger else s.afterReset) (decide (cause = 2)))

/-! ## Debug signals (R445, R446) -/

/-- In RETURNED, 10 s after the module became locally ready, with DBG_LOCK clear.
(DESIGN CHOICE, assumption 114.) -/
def execDebugOpen (s : State) : Outcome :=
  .next (
    if s.isReady ∧ s.lcState = some .returned ∧ !(lockSet s.sec.dbgLock) ∧ s.power.readyAt + 250000000 ≤ s.now then
      { s with sec := { s.sec with debugOpen := true } }
    else s)

end Sys2Proof.Machine
end

