-- ==== Sys2Proof/Machine/Events.lean ====
section
/-! DEFINITION. Records: closing, committing, reading, HOLD; the journal's registers and replay mode (R451 to R459,
R462, R466, R467, R469). -/

namespace Sys2Proof.Machine

/-! ## From the queue to flash (R451, R453, R455, R456) -/

/-- Records of the FATAL area and the general area. -/
def fatalSize : Nat := 32768
def genSize : Nat := 2064384

/-- Store a record: in a full FATAL area it replaces the oldest; in a full general area the oldest of at most its
severity, or it is dropped. -/
def Evt.store (e : Evt) (r : EvRec) : Evt :=
  if r.sev = Sev.fatal then
    { e with fatal := (if e.fatal.length < fatalSize then e.fatal else e.fatal.drop 1) ++ [(r, false)] }
  else if e.gen.length < genSize then { e with gen := e.gen ++ [(r, false)] }
  else match e.gen.find? (fun q => decide (q.1.sev.toNat ≤ r.sev.toNat)) with
    | some q => { e with gen := e.gen.erase q ++ [(r, false)] }
    | none => { e with lost := e.lost + 1 }

/-- The open record closes one second after it opened. -/
def execRecordCloseTimer (s : State) : Outcome :=
  .next (
    match s.evt.opened with
    | some (_, t) => if s.now < t + 25000000 then s else { s with evt := s.evt.close }
    | none => s)

/-- Pip can write the event device. -/
def State.canCommit (s : State) : Bool := s.power.standby && s.pipUp && s.evt.hold.isNone

/-- Pip commits the next record: the first FATAL one, outside the limit; else the first, at most 100 a second. -/
def execRecordCommit (s : State) : Outcome :=
  .next (
    let e := s.evt
    if !s.canCommit then s
    else if s.power.flashBad ∧ e.queue ≠ [] then s.flashStop
    else match e.queue.find? (fun r => decide (r.sev = Sev.fatal)) with
      | some r => { s with evt := { e with queue := e.queue.erase r }.store r }
      | none =>
        match e.queue with
        | [] => s
        | r :: rest =>
          let at_ := e.commitAt.filter (fun t => decide (s.now < t + 25000000))
          if 100 ≤ at_.length then s
          else { s with evt := { e with queue := rest, commitAt := at_ ++ [s.now] }.store r })

/-- OP_SECONDS is checkpointed every 64 s. -/
def execOpSecondsCheckpoint (s : State) : Outcome :=
  .next (
    let e := s.evt
    if s.power.standby ∧ s.pipUp ∧ 64 ≤ (e.opSecs - e.checkpoint.getD 0).toNat then
      if s.power.flashBad then s.flashStop
      else { s with evt := { e with checkpoint := some e.opSecs } }
    else s)

/-! ## HOLD (R453, R459) -/

/-- HOLD applied: the open record closes and commits stop; applied as 0: they resume. -/
def State.applyHold (s : State) (on : Bool) : State :=
  if on then { s with evt := { s.evt.close with hold := some s.now } } else { s with evt := { s.evt with hold := none } }

/-- Bit 16 of EVT_CTL. -/
def holdMask (p : PendWrite) : Word := if p.block = Blk.evt.num ∧ p.off = 0x04 then 0x00010000 else 0
def holdApply (s : State) (p : PendWrite) : State := s.applyHold (p.value.getLsbD 16)

def execEvtHold (s : State) : Outcome := .next (s.applyPend holdMask holdApply)

/-- HOLD ends 10 s after it was applied. -/
def execHoldExpiry (s : State) : Outcome :=
  .next (
    match s.evt.hold with
    | some t =>
      if s.now < t + 250000000 then s
      else ({ s with evt := { s.evt with hold := none } }).raise 0x0007 Sev.notice Uk.pip 0 0 0 0
    | none => s)

/-! ## Reading a record (R449, R458) -/

/-- The 32 bytes of a record. -/
def recBytes (r : EvRec) : Bytes :=
  let b := leBytes 2 r.code.toNat ++ leBytes 1 (r.sev.toNat * 32 + r.unit.toNat) ++ leBytes 1 r.inst.toNat ++
    leBytes 4 r.seq.toNat ++ leBytes 4 r.secs.toNat ++ leBytes 2 r.cyc.toNat ++ leBytes 2 r.rep.toNat ++
    leBytes 4 r.p0.toNat ++ leBytes 4 r.p1.toNat ++ leBytes 4 r.p2.toNat
  b ++ leBytes 4 (crc32c b)

/-- The stored record of a sequence number. -/
def Evt.stored (e : Evt) (n : Word) : Option (EvRec × Bool) := (e.fatal ++ e.gen).find? (fun q => decide (q.1.seq = n))

/-- 32 bytes that the spec leaves open: a torn record, or none.
(DESIGN CHOICE, assumption 97.) -/
def openBytes (free : Nat) : Bytes := (List.range 32).map (Config.freeByte free)

/-- Select a record.
(DESIGN CHOICE, assumption 97.) -/
def State.selectRec (s : State) (n : Word) : State :=
  let data := fun (b : Bytes) => (BitVec.ofNat 256 (leNat b) : BitVec 256)
  match s.evt.stored n with
  | some (r, false) => { s with evt := { s.evt with recSel := n, recState := 1, recData := data (recBytes r) } }
  | some (_, true) =>
    { s with evt := { s.evt with recSel := n, recState := 2, recData := data (openBytes s.free) }, free := s.free + 1 }
  | none =>
    { s with evt := { s.evt with recSel := n, recState := 0, recData := data (openBytes s.free) }, free := s.free + 1 }

def execRecSel (n : Word) (s : State) : Outcome := .next (if s.pipUp then s.selectRec n else s)

/-- EVT_SEQ_NEW: everything up to it is committed or dropped (R458). -/
def Evt.seqNew (e : Evt) : Word :=
  let waiting := e.queue.map (·.seq) ++ (match e.opened with | some (r, _) => [r.seq] | none => [])
  match waiting with
  | [] => e.seq
  | x :: r =>
    let lo := r.foldl (fun (a : Word) v => if (a - v).toNat < 2 ^ 31 then v else a) x
    if lo - 1 ≠ 0 then lo - 1
    else if (e.fatal ++ e.gen).any (fun q => decide ((lo - q.1.seq).toNat < 2 ^ 31)) then 0xFFFFFFFF else 0

/-- EVT_SEQ_OLD: the lowest stored, or 0. -/
def Evt.seqOld (e : Evt) : Word :=
  match (e.fatal ++ e.gen).map (fun q => q.1.seq) with
  | [] => 0
  | x :: r => r.foldl (fun (a : Word) v => if (a - v).toNat < 2 ^ 31 then v else a) x

/-! ## The journal's registers (R462, R466, R467, R471) -/

/-- The pending JRN writes of a channel. -/
def jrnMask (ch : Nat) (p : PendWrite) : Word :=
  if p.block = Blk.evt.num ∧ p.inst = ch ∧ 0x58 ≤ p.off ∧ p.off ≤ 0x64 then 0xFFFFFFFF else 0

/-- Their values over the applied ones: EN, handle, page, pages. -/
def jrnWrite (j : Journal) (p : PendWrite) : Journal :=
  match p.off with
  | 0x58 => { j with en := p.bit 31 j.en }
  | 0x5C => { j with handle := p.value }
  | 0x60 => { j with page := p.value }
  | _ => { j with pages := p.value }

/-- The channel's journal names a recorded run of the same boot as the first replayed channel's (R467). -/
def State.joinReplay (s : State) (ch : Nat) : State :=
  let j := s.journal ch
  if j.handle = 0 then s
  else
    let first := (s.evt.journals.find? (fun e => e.2.active && decide (e.1 ≠ ch))).map (fun e => s.jrnNonce e.1)
    if (match first with | some n => decide (n = s.jrnNonce ch) | none => true) then s.setJournal ch { j with active := true }
    else { (s.setJournal ch { j with active := false }) with evt := { (s.setJournal ch { j with active := false }).evt with reject := true } }

/-- The channel's values apply at the end of its acceptance: a journal begins, stops, or is refused; in replay mode
they name the journal to be replayed.
(DEDUCED, assumption 98.) -/
def State.applyJournal (s : State) (ch : Nat) : State :=
  let ws := s.regs.shadows.filter (fun p => decide (s.selNow (jrnMask ch) p ≠ 0))
  let s1 := s.dropPend (jrnMask ch)
  if ws.isEmpty then s1
  else
    let j := s1.journal ch
    let n := ws.foldl jrnWrite j
    if s1.evt.replay then (s1.setJournal ch { n with active := false }).joinReplay ch
    else if !n.en then
      let s2 := s1.jrnStop ch 0
      s2.setJournal ch { s2.journal ch with en := false, handle := n.handle, page := n.page, pages := n.pages }
    else if j.active ∧ n.handle = j.handle ∧ n.page = j.page ∧ n.pages = j.pages then s1
    else if !(s1.jrnOk ch n.handle n.page n.pages) then s1.jrnReject ch
    else (s1.jrnStop ch 0).jrnBegin ch n.handle n.page n.pages

def execJournalEnable (ch : BitVec 10) (s : State) : Outcome := .next (s.applyJournal ch.toNat)

/-! ## Replay mode (R467, R469) -/

/-- MODE may apply. -/
def State.replayOk (s : State) : Bool :=
  decide (s.lcState = some .provisioned) && !(s.chan.chans.any (fun c => decide (c.2.state ≠ .disabled)))

/-- Enter: journals under way stop, and those named are to be replayed; or leave.
(DESIGN CHOICE, assumption 99.) -/
def State.setReplay (s : State) (on : Bool) : State :=
  if !s.replayOk then { s with evt := { s.evt with reject := true } }
  else if on then
    let s1 := (s.evt.journals.map Prod.fst).foldl (fun (st : State) ch => st.jrnStop ch 0) s
    let s2 := { s1 with evt := { s1.evt with replay := true, replayGo := 0, replayBase := none, injected := [] } }
    (s2.evt.journals.map Prod.fst).foldl State.joinReplay s2
  else
    { s with evt := { s.evt with
        replay := false, journals := s.evt.journals.map (fun (e : Nat × Journal) => (e.1, { e.2 with active := false })) } }

def replayMask (p : PendWrite) : Word := if p.block = Blk.evt.num ∧ p.off = 0x74 then 0xFFFFFFFF else 0
def replayApply (s : State) (p : PendWrite) : State := s.setReplay (p.value.getLsbD 0)

def execReplayMode (s : State) : Outcome := .next (s.applyPend replayMask replayApply)

/-- The ACCEPT entries of every replayed channel that are still to come. -/
def State.acceptsLeft (s : State) : List Bytes :=
  (s.evt.journals.filter (fun e => e.2.active)).flatMap (fun e =>
    (s.jrnEntries e.1).filter (fun b => decide (b.getD 0 0 = 3) && decide (s.evt.replayGo ≤ entryGo b)))

/-- The one of the lowest GO. -/
def State.nextReplay (s : State) : Option Bytes :=
  s.acceptsLeft.foldl (fun (a : Option Bytes) b =>
    match a with | some c => if entryGo b < entryGo c then some b else some c | none => some b) none

/-- The bench start and the recorded count of the first acceptance. -/
def State.replayStart (s : State) (e : Bytes) : Nat × Nat := s.evt.replayBase.getD (s.now, fieldAt e 8 8)

/-- The next ACCEPT entry in GO order, when it is the channel's and its recorded offset has passed. -/
def execReplayAccept (ch : BitVec 10) (s : State) : Outcome :=
  .next (
    let n := ch.toNat
    match s.nextReplay with
    | none => s
    | some e =>
      let base := s.replayStart e
      if !s.evt.replay ∨ fieldAt e 2 2 ≠ n ∨ (s.ch n).state ≠ .running ∨ s.unitDown .scanner 0 ∨
          s.now < base.1 + (fieldAt e 8 8 - base.2) ∨ 32768 ≤ s.chan.descs.length then s
      else s.whenActive (fun s =>
        let s1 := (s.setCh n { s.ch n with sqHead := BitVec.ofNat 32 (fieldAt e 24 4) })
        let s2 := { s1 with chan := { s1.chan with go := entryGo e }
                            evt := { s1.evt with replayGo := entryGo e + 1, replayBase := some base } }
        let x := s2.entry n (BitVec.ofNat 512 (leNat (sliceBytes e 32 64)))
        (s2.takeDesc n x).checkDesc s2.chan.next x))

end Sys2Proof.Machine
end

