-- ==== Sys2Proof/Machine/Mem.lean ====
section
/-! DEFINITION. Loads, stores and atomics of a core (R136 to R139). -/

namespace Sys2Proof.Machine

/-- Access size of sz, 0 for an undefined one (R136). -/
def ldSize (sz : BitVec 3) : Nat :=
  match sz.toNat with
  | 0 => 1 | 1 => 2 | 2 => 4 | 3 => 8 | 4 => 1 | 5 => 2 | 6 => 4 | _ => 0

/-- The sizes ST accepts. -/
def stSize (sz : BitVec 3) : Nat := if sz.toNat < 4 then 2 ^ sz.toNat else 0

/-- A loaded value, zero- or sign-extended (R136). -/
def extend (sz : BitVec 3) (n : Nat) : DWord :=
  match sz.toNat with
  | 4 => (BitVec.ofNat 8 n).signExtend 64
  | 5 => (BitVec.ofNat 16 n).signExtend 64
  | 6 => (BitVec.ofNat 32 n).signExtend 64
  | _ => BitVec.ofNat 64 n

/-- The address of a load or store: base plus disp13 × access size. -/
def effAddr (b : DWord) (disp : BitVec 13) (size : Nat) : DWord :=
  b + disp.signExtend 64 * BitVec.ofNat 64 size

/-- Segments local accesses may use (R127). -/
def localKinds : List (BitVec 2) := [kScratch, kPod]

/-- Whether a load of the bytes takes a free value. -/
def State.loadOpen (s : State) (pod k n : Nat) : Bool :=
  s.racy pod k n || (List.range n).any (fun i => s.beyond (k + i))

/-- A load of `n` bytes into a core: SEG_KIND, MISALIGNED, BOUNDS, then POISON; `put` takes the bytes. -/
def loadTo (c : Nat) (a : DWord) (n : Nat) (s : State) (put : Bytes → Core) : State :=
  match s.localAt c a n n localKinds with
  | .error e => s.fault c e a
  | .ok k =>
    if s.poisonAt k n then s.fault c Fc.poison a
    else
      let s1 := if s.loadOpen (podOf c) k n then s.took else s
      s1.setCore c (put (s.loadBytes (podOf c) k n)).retire

/-- A store of bytes; it waits while an MMA has yet to read them (R147). -/
def storeFrom (c : Nat) (a : DWord) (bytes : Bytes) (s : State) : State :=
  match s.localAt c a bytes.length bytes.length localKinds with
  | .error e => s.fault c e a
  | .ok k =>
    if s.poisonAt k bytes.length then s.fault c Fc.poison a
    else if (s.core c).amPending k bytes.length then s
    else (s.setCore c (s.core c).retire).storeBytes (podOf c) k bytes

def execLd (c : Nat) (rt ra : BitVec 5) (sz : BitVec 3) (disp : BitVec 13) (s : State) : Outcome :=
  .next (s.issue c (fun x =>
    if ldSize sz = 0 then s.fault c Fc.illegal 0
    else loadTo c (effAddr (x.sreg ra) disp (ldSize sz)) (ldSize sz) s
      (fun bs => x.setS rt (extend sz (leNat bs)))))

def execSt (c : Nat) (rt ra : BitVec 5) (sz : BitVec 3) (disp : BitVec 13) (s : State) : Outcome :=
  .next (s.issue c (fun x =>
    if stSize sz = 0 then s.fault c Fc.illegal 0
    else storeFrom c (effAddr (x.sreg ra) disp (stSize sz))
      (leBytes (stSize sz) (x.sreg rt).toNat) s))

def execVld (c : Nat) (rt ra : BitVec 5) (sz : BitVec 3) (disp : BitVec 13) (s : State) : Outcome :=
  .next (s.issue c (fun x =>
    if sz ≠ 0 then s.fault c Fc.illegal 0
    else loadTo c (effAddr (x.sreg ra) disp 64) 64 s (fun bs => x.setV rt (bytesBv 512 bs))))

def execVst (c : Nat) (rt ra : BitVec 5) (sz : BitVec 3) (disp : BitVec 13) (s : State) : Outcome :=
  .next (s.issue c (fun x =>
    if sz ≠ 0 then s.fault c Fc.illegal 0
    else storeFrom c (effAddr (x.sreg ra) disp 64) (bvBytes 64 (x.vreg rt)) s))

/-- A tile access moves 1,024 bytes whose offset is a multiple of 64 (R136). -/
def State.tileAt (s : State) (c : Nat) (a : DWord) : Except (BitVec 8) Nat :=
  match s.localAt c a 1024 64 localKinds with
  | .error e => .error e
  | .ok k => if s.poisonAt k 1024 then .error Fc.poison else .ok k

def execTld (c : Nat) (td : BitVec 3) (ra : BitVec 5) (sz : BitVec 3) (disp : BitVec 13) (s : State) :
    Outcome :=
  .next (s.issue c (fun x =>
    if sz ≠ 0 then s.fault c Fc.illegal 0
    else
      let a := effAddr (x.sreg ra) disp 64
      match s.tileAt c a with
      | .error e => s.fault c e a
      | .ok k =>
        if x.tileBusy td then s
        else (if s.loadOpen (podOf c) k 1024 then s.took else s).setCore c
          (x.setT td (bytesBv 8192 (s.loadBytes (podOf c) k 1024))).retire))

def execTst (c : Nat) (td : BitVec 3) (ra : BitVec 5) (sz : BitVec 3) (disp : BitVec 13) (s : State) :
    Outcome :=
  .next (s.issue c (fun x =>
    if sz ≠ 0 then s.fault c Fc.illegal 0
    else
      let a := effAddr (x.sreg ra) disp 64
      match s.tileAt c a with
      | .error e => s.fault c e a
      | .ok k =>
        if x.tileBusy td || x.amPending k 1024 then s
        else (s.setCore c x.retire).storeBytes (podOf c) k (bvBytes 1024 (x.tile td))))

/-- An AMO (R139): old value to rd, `f old rdBefore rb` to memory, none for no write. -/
def amo (f : DWord → DWord → DWord → Option DWord) (c : Nat) (rd ra rb : BitVec 5) (s : State) :
    Outcome :=
  .next (s.issue c (fun x =>
    match s.localAt c (x.sreg ra) 8 8 [kPod] with
    | .error e => s.fault c e (x.sreg ra)
    | .ok k =>
      if s.poisonAt k 8 then s.fault c Fc.poison (x.sreg ra)
      else
        let old : DWord := bytesBv 64 (s.loadBytes (podOf c) k 8)
        let s1 := (if s.loadOpen (podOf c) k 8 then s.took else s).setCore c (x.setS rd old).retire
        match f old (x.sreg rd) (x.sreg rb) with
        | none => s1
        | some v => s1.storeBytes (podOf c) k (bvBytes 8 v)))

def execAmoadd (c : Nat) (rd ra rb : BitVec 5) (s : State) : Outcome :=
  amo (fun o _ b => some (o + b)) c rd ra rb s
def execAmoswap (c : Nat) (rd ra rb : BitVec 5) (s : State) : Outcome :=
  amo (fun _ _ b => some b) c rd ra rb s
def execAmocas (c : Nat) (rd ra rb : BitVec 5) (s : State) : Outcome :=
  amo (fun o d b => if o = d then some b else none) c rd ra rb s
def execAmoand (c : Nat) (rd ra rb : BitVec 5) (s : State) : Outcome :=
  amo (fun o _ b => some (o &&& b)) c rd ra rb s
def execAmoor (c : Nat) (rd ra rb : BitVec 5) (s : State) : Outcome :=
  amo (fun o _ b => some (o ||| b)) c rd ra rb s
def execAmomax (c : Nat) (rd ra rb : BitVec 5) (s : State) : Outcome :=
  amo (fun o _ b => some (opMax o b)) c rd ra rb s

end Sys2Proof.Machine
end

