-- ==== Sys2Proof/Machine/Reduce.lean ====
section
/-! DEFINITION. REDUCE: chunks, sums, the blocks a member sends, counts, completion and early ends (R204, R343 to
R350). Blocks go on as soon as they can, one by one; the order of the steps of R346 and R347 follows from what
each block needs. -/

namespace Sys2Proof.Machine

/-! ## Chunks (R346) -/

/-- First block of chunk `c` of a REDUCE among `n` members. -/
def chunkLo (b n c : Nat) : Nat := c * b / n

/-- Block `i` lies in chunk `c`. -/
def inChunk (b n c i : Nat) : Bool := decide (chunkLo b n c ≤ i) && decide (i < chunkLo b n (c + 1))

/-- The blocks of chunk `c`. -/
def chunkBlocks (b n c : Nat) : List Nat :=
  (List.range (chunkLo b n (c + 1) - chunkLo b n c)).map (chunkLo b n c + ·)

def Group.inChunk (g : Group) (x : Desc) (c i : Nat) : Bool := Sys2Proof.Machine.inChunk x.redBlocks g.members.toNat c i
def Group.chunk (g : Group) (x : Desc) (c : Nat) : List Nat := chunkBlocks x.redBlocks g.members.toNat c

/-- Block `i` of the contribution, and DST block `i` (R344). -/
def Desc.srcBlk (x : Desc) (i : Nat) : Slot := .ext x.redSrc.1 (4096 * (x.redSrc.2 + i))
def Desc.dstBlk (x : Desc) (i : Nat) : Slot := .ext x.redDst.1 (4096 * (x.redDst.2 + i))

/-- The REDUCE of descriptor `d`, and the one of a group's index. -/
def State.reduceOf (s : State) (d : Nat) : Option Reduce := s.fab.reduces.find? (fun e => decide (e.desc = d))
def State.reduceAt (s : State) (g k : Nat) : Option Reduce :=
  s.fab.reduces.find? (fun e => decide (e.group = g) && decide (e.k % 2 ^ 32 = k))

def State.setReduce (s : State) (e : Reduce) : State :=
  { s with fab := { s.fab with reduces := s.fab.reduces.map (fun r => if r.desc = e.desc then e else r) } }

/-- Ranks of the other members. -/
def Group.others (g : Group) : List Nat := (List.range g.members.toNat).filter (fun r => decide (r ≠ g.rank.toNat))

/-! ## The end of a REDUCE -/

/-- A REDUCE ends: it sends no more data, its pods are freed when the combine program ends. -/
def State.endReduce (s : State) (d : Nat) (st : Status) : State :=
  let s1 := (s.fab.reqs.filter (fun q => decide (q.2.desc = some d ∧ q.2.pkt.ptype = pWrite))).foldl
    (fun (st : State) q => st.closeReq q.1) s
  (s1.modProg d (fun p => { p with state := .ending })).endDesc d st 0 0

/-- A REDUCE ends early: RED_ABORT with its status to every other member (R350). -/
def State.abortReduce (s : State) (x : Desc) (e : Reduce) (st : Status) : State :=
  let g := s.group e.group
  let gp := match x.party with | some p => (s.gpid p).getD 0 | none => 0
  (g.others.foldl (fun (s : State) r => s.request none 0 0
    { ptype := pRedAbort, cls := x.cls.toNat, gpid := gp, arg := redArg e.group e.k + 2 ^ 48 * st.toNat }
    (g.did r).toNat []) s).endReduce e.desc st

/-! ## Sums (R348) -/

/-- The sum of two blocks: FP32 additions, converted to ELEM (4 BF16, 6 FP32) to nearest even.
(DEDUCED, assumption 52.) -/
def sumBlocks (elem : Nat) (a b : Bytes) : Bytes :=
  if elem = 4 then
    (List.range 2048).flatMap (fun i =>
      let f := fun (l : Bytes) => (widen 1 0 (fieldAt l (2 * i) 2)).bits
      leBytes 2 (narrow 1 0 Round.near (fadd (f a) (f b)).bits).1)
  else
    (List.range 1024).flatMap (fun i =>
      let f := fun (l : Bytes) => BitVec.ofNat 32 (fieldAt l (4 * i) 4)
      leBytes 4 (fadd (f a) (f b)).bits.toNat)

/-- Staging blocks that have arrived and are not summed yet. -/
def Reduce.unsummed (e : Reduce) (b : Nat) : List Nat :=
  ((e.arrived.filter (fun i => decide (b ≤ i))).map (· - b)).filter (fun i => !(e.summed.contains i))

/-- Store the sum of block `i` encoded under TABLE_ID, and count it where it lies in the chunk that the member
finishes. -/
def State.storeSum (s : State) (x : Desc) (e : Reduce) (i : Nat) (v : Bytes) : State :=
  let list := match s.table x.redTable with | some t => t.list | none => []
  let r := encodeBlock list x.redElem x.redTable v
  let own := (s.group e.group).inChunk x (s.group e.group).rank.toNat i
  let raw := decide (r.1 = 0x3F)
  let s1 := s.slotStore (x.dstBlk i) (if raw then rawMeta else mkMeta x.redTable false r.1) r.2
  let s2 := { s1 with comp := { s1.comp with
    rawEsc := s1.comp.rawEsc + (if raw then 1 else 0), huskWr := s1.comp.huskWr + (if raw then 0 else 1) } }
  let s3 := if own then s2.countBlock x.redHctx.toNat x.go x.party x.redElem v else s2
  s3.setReduce { e with summed := e.summed ++ [i]
                        counts := if own then addCounts e.counts (blockCounts x.redElem v) else e.counts }

/-- Sum block `i` of REDUCE `d`: a poisoned or invalid block ends the REDUCE.
(DEDUCED, assumption 52.) -/
def State.sumBlk (d : Nat) (s : State) (i : Nat) : State :=
  match s.desc d, s.reduceOf d with
  | some x, some e =>
    if x.phase ≠ .working then s
    else match s.slotPlain (x.dstBlk (x.redBlocks + i)), s.slotPlain (x.srcBlk i) with
      | .bytes a, .bytes b => s.storeSum x e i (sumBlocks x.redElem a b)
      | .poisoned, _ => s.abortReduce x e St.poisoned
      | _, .poisoned => s.abortReduce x e St.poisoned
      | _, _ => s.countInvalid.abortReduce x e St.huskInvalid
  | _, _ => s

/-- The combine program runs. -/
def State.combineRuns (s : State) (d : Nat) : Bool :=
  match s.program d with | some p => decide (p.state = .running) | none => false

/-- Every block that can be summed.
(DESIGN CHOICE, assumption 53.) -/
def State.reduceSums (s : State) (d : Nat) : State :=
  match s.desc d, s.reduceOf d with
  | some x, some e => if s.combineRuns d then (e.unsummed x.redBlocks).foldl (State.sumBlk d) s else s
  | _, _ => s

/-! ## What a member sends (R346, R347) -/

/-- The blocks that are there to be sent: the DST block of the successor that each lands in, and where it is
read. -/
def reduceSends (x : Desc) (g : Group) (e : Reduce) : List (Nat × Slot) :=
  let b := x.redBlocks
  let own := g.inChunk x g.rank.toNat
  let scatter := (g.chunk x g.prev).map (fun i => (b + i, x.srcBlk i)) ++
    (e.summed.filter (fun i => !(own i))).map (fun i => (b + i, x.dstBlk i))
  let gather := (e.summed.filter own).map (fun i => (i, x.dstBlk i)) ++
    (e.arrived.filter (fun i => decide (i < b) && !(g.inChunk x g.next i))).map (fun i => (i, x.dstBlk i))
  (scatter ++ (if x.subop = 1 then gather else [])).filter (fun w => !(e.sent.contains w.1))

/-- Send one block in stored form: a WRITE with FLAGS REDUCE. -/
def State.sendBlk (d : Nat) (s : State) (w : Nat × Slot) : State :=
  match s.desc d, s.reduceOf d with
  | some x, some e =>
    let m := s.slotWord w.2
    let g := s.group e.group
    if x.phase ≠ .working then s
    else if mwPoison m then s.abortReduce x e St.poisoned
    else match e.ready with
      | none => s
      | some r =>
        (s.setReduce { e with sent := e.sent ++ [w.1] }).descReq d x w.1 1
          { ptype := pWrite, flags := fReduce + fStored, handle := BitVec.ofNat 32 (fieldAt r 12 4)
            offset := 4096 * (fieldAt r 16 4 + w.1), table := mwId m, btag := (m.extractLsb' 0 8).toNat
            arg := redArg e.group e.k } (g.did g.next).toNat (s.slotStored w.2)
  | _, _ => s

/-- The successor's RED_READY agrees in SUBOP, ELEM, TABLE_ID, TABLE_CRC and BLOCKS (R345). -/
def State.agrees (s : State) (x : Desc) (r : Bytes) : Bool :=
  decide (sliceBytes r 0 12 = sliceBytes (s.readyBody x) 0 12)

/-- Every block that can be sent; a disagreement ends the REDUCE. -/
def State.reduceOut (s : State) (d : Nat) : State :=
  match s.desc d, s.reduceOf d with
  | some x, some e =>
    (match e.ready with
     | none => s
     | some r =>
       if x.phase ≠ .working then s
       else if s.agrees x r then (reduceSends x (s.group e.group) e).foldl (State.sendBlk d) s
       else s.abortReduce x e St.malformed)
  | _, _ => s

/-! ## Counts and completion (R349) -/

/-- The body of RED_COUNTS: 256 counts of 48 bits. -/
def countsBody (c : Table Nat) : Bytes := (List.range 256).flatMap (fun v => leBytes 6 (Table.get 0 c v))

/-- The counts of a RED_COUNTS body. -/
def bodyCounts (b : Bytes) : Table Nat :=
  (List.range 256).foldl (fun (m : Table Nat) v => Table.put 0 m v (fieldAt b (6 * v) 6)) []

/-- Every block of the member's finished chunk is summed. -/
def Reduce.chunkDone (e : Reduce) (x : Desc) (g : Group) : Bool :=
  (g.chunk x g.rank.toNat).all (fun i => e.summed.contains i)

/-- RED_COUNTS to every other member once the finished chunk is stored. -/
def State.reduceCounts (s : State) (d : Nat) : State :=
  match s.desc d, s.reduceOf d with
  | some x, some e =>
    let g := s.group e.group
    if x.phase ≠ .working ∨ e.sentCounts ∨ !(e.chunkDone x g) then s
    else g.others.foldl (fun (st : State) r => st.descReq d x 0 0
        { ptype := pRedCounts, flags := fOnce, arg := redArg e.group e.k } (g.did r).toNat (countsBody e.counts))
      (s.setReduce { e with sentCounts := true })
  | _, _ => s

/-- Every WRITE of a descriptor has been answered. -/
def State.writesDone (s : State) (d : Nat) : Bool :=
  (s.fab.reqs.map (·.2) ++ s.fab.landing.map (·.1)).all (fun q => !(decide (q.desc = some d ∧ q.pkt.ptype = pWrite)))

/-- Result blocks are stored, every WRITE is sent and answered, every member's counts are added. -/
def State.reduceDone (s : State) (d : Nat) : State :=
  match s.desc d, s.reduceOf d with
  | some x, some e =>
    let g := s.group e.group
    let b := x.redBlocks
    let scattered := (List.range b).all (fun i => g.inChunk x g.prev i || e.summed.contains i)
    let gathered := decide (x.subop = 0) ||
      (List.range b).all (fun i => g.inChunk x g.rank.toNat i || e.arrived.contains i)
    if x.phase = .working ∧ scattered ∧ gathered ∧ (reduceSends x g e).isEmpty ∧ s.writesDone d ∧ e.sentCounts ∧
        g.others.all (fun r => e.counted.contains r) then s.endReduce d St.ok
    else s
  | _, _ => s

/-- A REDUCE goes on as far as it can.
(DESIGN CHOICE, assumption 53.) -/
def State.reduceGo (s : State) (d : Nat) : State :=
  match s.desc d with
  | none => s
  | some x =>
    s.withAccess srcMovers (.desc x.go) (accsOf x.redSrc.1 (4096 * x.redSrc.2) (4096 * x.redBlocks) false ++
        accsOf x.redDst.1 (4096 * x.redDst.2) (8192 * x.redBlocks) true)
      (fun s => (((s.reduceSums d).reduceOut d).reduceCounts d).reduceDone d)

/-! ## The start and the timer -/

/-- The launch-table entry of the combine program: non-preemptible, on PODS pods (R204, R348). -/
def combineProgram (d : Nat) (x : Desc) (p : BitVec 8) : Program :=
  { desc := d, chan := x.chan, party := p, cls := x.cls, pods := x.redPods, image := 0, page := 0, codeBytes := 0
    entry := 0, args := [], saveScratch := 0, saveShared := 0, ctx := none, segs := [], combine := true }

/-- A started REDUCE begins, or one under way goes on. -/
def reduceRow (sub d : Nat) (s : State) : State :=
  match s.desc d with
  | none => s
  | some x =>
    if x.phase = .working ∧ x.opcode = 0x21 ∧ x.subop = sub then s.reduceGo d
    else s.work d 0x21 sub (fun x =>
      match x.party, s.reduceOf d with
      | some p, some e =>
        ((((s.setDesc d { x with phase := .working }).setReduce { e with heard := s.now }).setProgram d
          (combineProgram d x p)).enqueueProgram d).reduceGo d
      | _, _ => s)

def execReduceScatter (d : Nat) (s : State) : Outcome := .next (reduceRow 0 d s)
def execAllReduce (d : Nat) (s : State) : Outcome := .next (reduceRow 1 d s)

/-- No data, RED_READY or HOLD from the predecessor for REDUCE_WAIT counts (R350).
(DEDUCED, assumption 55.) -/
def Reduce.expired (e : Reduce) (s : State) : Bool :=
  decide (s.fab.reduceWait ≠ 0) && decide (e.heard + s.fab.reduceWait.toNat ≤ s.now)

/-- (DEDUCED, assumption 55.) -/
def execReduceWaitExpiry (group : Nat) (s : State) : Outcome :=
  .next ((s.fab.reduces.filter (fun e => decide (e.group = group) && e.expired s)).foldl (fun (st : State) e =>
    match st.desc e.desc with
    | some x => if x.phase = .working then st.abortReduce x e St.peerUnreachable else st
    | none => st) s)

end Sys2Proof.Machine
end

