-- ==== Sys2Proof/Machine/RegMap.lean ====
section
/-! DEFINITION. The register map: addresses, writable bits, indexed registers and their instances (R13 to R16, R495,
R496, R500, R501, and the tables of R53, R92, R119, R203, R244, R270, R271, R290, R313, R351, R378, R379, R402,
R425, R447, R471, R494, R508). -/

namespace Sys2Proof.Machine

/-! ## Addresses (R14, R495) -/

/-- Block and offset of a BAR0 address. -/
def regBlock (addr : BitVec 24) : Option Blk := Blk.ofNum (addr.toNat / 65536)
def regOff (addr : BitVec 24) : Nat := addr.toNat / 4 % 1024 * 4

/-- The last offset of a block's first range. -/
def Blk.last : Blk → Nat
  | .ident => 0x44 | .clk => 0x24 | .host => 0x30 | .chan => 0x58 | .qos => 0x50 | .tier => 0x34 | .comp => 0x64
  | .fab => 0x6C | .ten => 0x5C | .rel => 0x50 | .sec => 0x68 | .evt => 0x78 | .win => 0x38 | .pod => 0x20 | .lch => 0x20

/-- The second range of a block that has one. -/
def Blk.range2 : Blk → Option (Nat × Nat)
  | .ident => some (0x50, 0x5C)
  | .clk => some (0x100, 0x130)
  | .rel => some (0x100, 0x14C)
  | _ => none

/-- The manual defines a register at the offset (R496). -/
def Blk.defines (b : Blk) (off : Nat) : Bool :=
  decide (off % 4 = 0) && (decide (off ≤ b.last) ||
    (match b.range2 with | some r => decide (r.1 ≤ off) && decide (off ≤ r.2) | none => false))

/-! ## Writable bits -/

/-- Writable registers of a block with their writable bits, W1C bits among them. -/
def Blk.writable : Blk → List (Nat × Word)
  | .ident => [(0x50, 0xFFFFFFFF), (0x54, 0xFFFFFFFF), (0x58, 0xFFFFFFFF), (0x5C, 0xFFFFFFFF)]
  | .clk => [(0x00, 0x00000100), (0x0C, 0xFFFF0003), (0x10, 0x00FFFFFF), (0x14, 0xFFFFFFFF), (0x18, 0x0000007F),
      (0x10C, 0x0000FFFF), (0x110, 0x00000003), (0x120, 0x80000000), (0x124, 0x00000007), (0x130, 0xB00007FF)]
  | .host => [(0x04, 0x00000003), (0x08, 0x80010F31), (0x10, 0x00FFFFFF)]
  | .chan => [(0x00, 0x00000002), (0x04, 0x000003FF), (0x08, 0x001F0033), (0x10, 0xFFFFF000), (0x14, 0xFFFFFFFF),
      (0x18, 0xFFFFF000), (0x1C, 0xFFFFFFFF), (0x20, 0xFFFFFFC0), (0x24, 0xFFFFFFFF), (0x28, 0x00007FFF),
      (0x2C, 0x001FFFFF), (0x30, 0xFFFF07FF), (0x34, 0x0FFF0FFF), (0x38, 0x0000FFFF)]
  | .qos => [(0x00, 0x00000002), (0x04, 0x0000003F), (0x08, 0x000100FF), (0x0C, 0xFFFFFFFF), (0x10, 0xFFFFFFFF),
      (0x14, 0x0000FFFF), (0x28, 0x000000FF), (0x38, 0xFFFFFFFF), (0x3C, 0x0000FFFF), (0x40, 0x0000001F), (0x44, 0x0000FFFF)]
  | .tier => [(0x10, 0x03FF03FF), (0x14, 0x0000FFFF), (0x1C, 0x000000FF), (0x20, 0x001FFFFF), (0x24, 0x0000073F)]
  | .comp => [(0x08, 0x0000FFFF), (0x18, 0x000000FF), (0x3C, 0x000001FF), (0x50, 0x000003FF)]
  | .fab => [(0x14, 0x0000000F), (0x18, 0x0000000F), (0x1C, 0x00000100), (0x38, 0x00001FFF), (0x3C, 0x0003FFFF),
      (0x40, 0x00000007), (0x44, 0x000000FF), (0x48, 0xFFFFFFFF), (0x4C, 0x000003FF), (0x50, 0x80FF1FFF),
      (0x54, 0x00000FFF), (0x58, 0x00000FFF), (0x5C, 0x00000FFF)]
  | .ten => [(0x04, 0x00000001), (0x2C, 0x000000FF), (0x3C, 0xFFFFFFFF)]
  | .rel => [(0x40, 0x0000000F), (0x44, 0x80FF0FFF), (0x48, 0xFFFFFFFF), (0x4C, 0x003FFFFF), (0x100, 0x0000003F),
      (0x108, 0x000100FF), (0x110, 0x00FFFFFF), (0x114, 0x000003FF)]
  | .sec => [(0x00, 0x00000008), (0x08, 0x00000007), (0x0C, 0x00000031), (0x10, 0xFFFFFFC0), (0x14, 0xFFFFFFFF),
      (0x18, 0x000001FF), (0x1C, 0xFFFFF000), (0x20, 0xFFFFFFFF), (0x24, 0x00FFFFFF), (0x34, 0x00000001),
      (0x38, 0xFFFFFFFF), (0x3C, 0xFFFFFFFF), (0x40, 0xFFFFFFFF), (0x44, 0xFFFFFFFF), (0x48, 0xFFFFFFFF),
      (0x4C, 0xFFFFFFFF), (0x50, 0xFFFFFFFF), (0x54, 0xFFFFFFFF), (0x58, 0x0003007F)]
  | .evt => [(0x00, 0x00000010), (0x04, 0x00010007), (0x10, 0xFFFFFFFF), (0x54, 0x000003FF), (0x58, 0x80000000),
      (0x5C, 0xFFFFFFFF), (0x60, 0xFFFFFFFF), (0x64, 0xFFFFFFFF), (0x68, 0x00000002), (0x74, 0x00000001)]
  | .win => [(0x00, 0x00000002), (0x08, 0x00000001), (0x0C, 0x00000007), (0x10, 0xB01FFF3F), (0x14, 0xF0000000),
      (0x18, 0x0000007F), (0x1C, 0xFFFFFFFF), (0x20, 0x0000FFFF)]
  | .pod => [(0x04, 0x003FFFFF), (0x10, 0x0000007F)]
  | .lch => [(0x04, 0x000000FF)]

/-- Writable bits of a register; none of a read-only one. -/
def Blk.bits (b : Blk) (off : Nat) : Word := ((b.writable.find? (fun r => decide (r.1 = off))).map Prod.snd).getD 0

/-! ## Instances (R500) -/

/-- The instance that the applied select names, for an indexed register; 0 for the others. -/
def State.regInst (s : State) (b : Blk) (off : Nat) : Nat :=
  match b with
  | .host => if off = 0x08 ∨ off = 0x10 then s.host.portSel.toNat else 0
  | .chan => if 0x08 ≤ off then s.chan.sel.toNat else 0
  | .qos => if 0x08 ≤ off ∧ off ≤ 0x14 then s.qos.classSel.toNat else if off = 0x44 then s.qos.latSel.toNat else 0
  | .tier => if off = 0x20 then s.place.partySel.toNat else 0
  | .fab =>
    if off = 0x18 ∨ off = 0x1C then s.fab.portSel.toNat
    else if off = 0x50 ∨ off = 0x54 then s.fab.grpSel.toNat
    else if off = 0x5C then s.fab.grpSel.toNat * 4096 + s.fab.memSel.toNat
    else 0
  | .rel =>
    if 0x44 ≤ off ∧ off ≤ 0x4C then s.rel.spillSel.toNat else if 0x108 ≤ off then s.rel.stkSel.toNat else 0
  | .evt => if 0x58 ≤ off ∧ off ≤ 0x68 then s.evt.jrnSel.toNat else 0
  | .win => if 0x10 ≤ off then s.host.winSel.toNat else 0
  | _ => 0

/-- Bits that an instance takes: none of an absent port (R5) or stack; class 63 holds no
guarantee; a part without deep stacks no ZD guarantee (R290, R402, R425, R505). -/
def State.instBits (s : State) (b : Blk) (off inst : Nat) : Word :=
  match b with
  | .host => if (off = 0x08 ∨ off = 0x10) ∧ s.variant.hostPorts ≤ inst then 0 else 0xFFFFFFFF
  | .qos =>
    let deep : Word := if off = 0x0C ∧ !s.variant.deep then 0x0000FFFF else 0xFFFFFFFF
    if inst = 63 ∧ off = 0x08 then 0x000000FF
    else if inst = 63 ∧ 0x0C ≤ off ∧ off ≤ 0x14 then 0
    else if off = 0x44 ∧ 22 ≤ inst then 0
    else deep
  | .fab => if (off = 0x18 ∨ off = 0x1C) ∧ s.variant.fabPorts ≤ inst then 0 else 0xFFFFFFFF
  | .rel => if 0x108 ≤ off ∧ !(s.variant.hasStack inst) then 0 else 0xFFFFFFFF
  | _ => 0xFFFFFFFF

/-- The bits that a write to a register lands in its shadow. -/
def State.regBits (s : State) (b : Blk) (off : Nat) : Word := b.bits off &&& s.instBits b off (s.regInst b off)

/-- The block is reachable: in recovery only IDENT, SEC and EVT (R436).
(DEDUCED, assumption 100.) -/
def State.reachable (s : State) (b : Blk) : Bool :=
  decide (s.power.boot ≠ .recovery) || decide (b = .ident ∨ b = .sec ∨ b = .evt)

/-- A whole write to a register joins its shadow; a read-only or undefined one drops it.
(DEDUCED, assumption 100.) -/
def State.shadowWrite (s : State) (b : Blk) (off : Nat) (value : Word) : State :=
  let m := s.regBits b off
  if m = 0 then s else s.addPend { block := b.num, off := off, inst := s.regInst b off, value := value, mask := m }

end Sys2Proof.Machine
end

