-- ==== Sys2Proof/Machine/Sideband.lean ====
section
/-! DEFINITION. Sideband inputs: filtering, coalescing, masking and their effects (R258, R487 to R492). -/

namespace Sys2Proof.Machine

/-! ## Effects (R487, R491, R492) -/

/-- FM_ALERT_N: ALERT, and a message where enabled. -/
def State.fmAlert (s : State) : State :=
  let s1 := { s with power := { s.power with alert := true } }
  if s.power.alertEn then s1.msix s.power.alertPort.toNat s.power.alertVec 0 else s1

/-- PERST# of a port: a port reset that lasts while it is asserted. -/
def State.perstEdge (s : State) (p : Nat) (on : Bool) : State :=
  if on then
    let s1 := if (s.hport p).up ∨ (s.hport p).training then s.portReset p else s
    s1.setHport p { s1.hport p with perst := true, training := false }
  else
    let s1 := s.setHport p { s.hport p with perst := false, wakeOut := (s.hport p).wakeOut && !s.mainPower }
    if s1.hostRails then s1.beginTraining p else s1

/-- Pip acts on a level. -/
def State.sideEffect (s : State) (n : Nat) (on : Bool) : State :=
  match n with
  | 0 => if on then s.wakeEvent Wk.wakeIn else s
  | 1 => s.rethrottle
  | 2 => if on then s.fmAlert else s
  | k => s.perstEdge (k - 3) on

/-- A change acted on: counted, the coalescing time starts, its effect. -/
def State.actSide (s : State) (n : Nat) (x : Side) (on : Bool) : State :=
  (s.setSide n { x with
    level := on, until_ := some (s.now + 25000), events := x.events + 1, since := if on then s.now else x.since }).sideEffect n on

/-- The input exists on the part: PERST# of an absent port is ignored. -/
def State.hasSide (s : State) (n : Nat) : Bool := decide (n < 3) || decide (n - 3 < s.variant.hostPorts)

/-! ## Changes (R489, R490) -/

/-- A filtered input changes. A pulse too short for the filter leaves the level it had: it is ignored and
counted, as is a change within the coalescing time. A masked input causes no action.
(DESIGN CHOICE, assumption 82.) -/
def execSidebandChange (n : SideSig) (level : Bool) (s : State) : Outcome :=
  .next (
    let x := s.side n
    if !(s.hasSide n) || !s.power.standby then s
    else if level = x.present then s.setSide n { x with ignored := x.ignored + 1 }
    else
      let y := { x with present := level, since := if level then s.now else x.since }
      if x.masked then s.setSide n y
      else if (match x.until_ with | some t => decide (s.now < t) | none => false) then
        s.setSide n { y with ignored := x.ignored + 1 }
      else s.actSide n y level)

/-- The coalescing time ends: Pip acts once where the level differs from the one last acted on. -/
def execCoalesceEnd (n : SideSig) (s : State) : Outcome :=
  .next (
    let x := s.side n
    match x.until_ with
    | none => s
    | some t =>
      if s.now < t then s
      else
        let y := { x with until_ := none }
        if x.present = x.level ∨ x.masked then s.setSide n y else s.actSide n y x.present)

/-! ## Stuck inputs (R491) -/

/-- An input found deasserted is unmasked; that is no assertion. -/
def State.unmaskSide (s : State) (n : Nat) (x : Side) : State :=
  (s.setSide n { x with masked := false, level := false, exam := 0, examInt := 0 }).raise 0x0500 Sev.warning Uk.sideband 0 n 0 0

/-- WAKE_IN or FM_ALERT_N has stayed asserted for 10 s: masked; found deasserted at an examination: unmasked. -/
def execInputStuck (n : SideSig) (s : State) : Outcome :=
  .next (
    let x := s.side n
    if n ≠ 0 ∧ n ≠ 2 then s
    else if x.masked then (if x.exam ≤ s.now ∧ !x.present then s.unmaskSide n x else s)
    else if x.level ∧ x.present ∧ x.since + 250000000 ≤ s.now then
      (s.setSide n { x with masked := true, exam := s.now + 25000000, examInt := 25000000 }).raise 0x0500 Sev.warning
        Uk.sideband 0 n 1 0
    else s)

/-- A masked input is examined again; while it is asserted, the interval doubles, up to 64 s. -/
def execStuckExamine (n : SideSig) (s : State) : Outcome :=
  .next (
    let x := s.side n
    if !x.masked ∨ s.now < x.exam then s
    else if x.present then
      let i := min 1600000000 (2 * x.examInt)
      s.setSide n { x with examInt := i, exam := s.now + i }
    else s.unmaskSide n x)

end Sys2Proof.Machine
end

