-- ==== Sys2Proof/Machine/Registers.lean ====
section
/-! DEFINITION. Register writes and the apply of each block's shadow at its boundary; local readiness (R16 to R19,
R225, R244, R270, R336, R351, R378, R379, R402, R425, R447, R471, R494, R499 to R505). -/

namespace Sys2Proof.Machine

/-! ## Writes (R16, R358, R496, R503) -/

/-- A write that a host makes at BAR0 through the port; where REGS_OFF closes it, UR.
(DESIGN CHOICE, assumption 12.) -/
def State.barWrite (s : State) (port : Nat) (a : HostAsk) (f : State → State) : State :=
  s.hostReq port a (fun s => if (s.hport port).regsOff then s.sendUr port else f s)

/-- A write reaches its register's shadow. -/
def State.regWrite (s : State) (port : Nat) (addr : BitVec 24) (be : BitVec 4) (value : Word) : State :=
  match regBlock addr with
  | none => s
  | some b =>
    if !(b.defines (regOff addr)) ∨ !(s.reachable b) then s
    else if be ≠ 0xF then s.raise 0x0100 Sev.notice Uk.hostPort port addr.toNat be.toNat 0
    else s.shadowWrite b (regOff addr) value

def execRegisterWrite (port : Nat) (addr : BitVec 24) (be : BitVec 4) (value : Word) (s : State) : Outcome :=
  .next (s.barWrite port (.write port addr be value) (fun s => s.regWrite port addr be value))

/-! ## Clamps -/

/-- A written value applied within limits. -/
def clampTo (lo hi x : Nat) : Nat := max lo (min hi x)

/-! ## IDENT and CLK (R270, R494, R504) -/

/-- A masked write: bit n of [15:0] where bit n + 16 is 1. -/
def maskedWrite (old : BitVec 16) (value : Word) : BitVec 16 :=
  let m : BitVec 16 := value.extractLsb' 16 16
  (old &&& ~~~ m) ||| (value.extractLsb' 0 16 &&& m)

def identApply (s : State) (p : PendWrite) : State :=
  let n := (p.off - 0x50) / 4
  { s with regs := { s.regs with scratch := Table.put 0 s.regs.scratch n (maskedWrite (Table.get 0 s.regs.scratch n) p.value) } }

/-- The scratch registers take every write that waits, in order. -/
def identMask (p : PendWrite) : Word := if p.block = Blk.ident.num then 0xFFFFFFFF else 0
def State.applyIdent (s : State) : State := s.applyPend identMask identApply

/-- A masked write to a scratch register; with fewer than four byte enables it is dropped (R16). -/
def State.scratchSet (s : State) (port : Nat) (n : BitVec 2) (be : BitVec 4) (value : Word) : State :=
  (s.regWrite port (BitVec.ofNat 24 (0x50 + 4 * n.toNat)) be value).applyIdent

def execScratchWrite (port : Nat) (n : BitVec 2) (value : RegData) (s : State) : Outcome :=
  .next (s.barWrite port (.scratch port n value.be value.value) (fun s => s.scratchSet port n value.be value.value))

/-- CLK but for PWR_CAP, which waits for the regulation boundary. -/
def clkMask (p : PendWrite) : Word := if p.block = Blk.clk.num ∧ p.off ≠ 0x10C then 0xFFFFFFFF else 0

def clkApply (s : State) (p : PendWrite) : State :=
  let k := s.clk
  let w := s.power
  match p.off with
  | 0x00 => { s with clk := { k with refFault := p.w1c 8 k.refFault } }
  | 0x0C =>
    let s1 := { s with clk := { k with idleDelay := p.bits 16 k.idleDelay, dozeEn := p.bit 1 k.dozeEn, idleEn := p.bit 0 k.idleEn } }
    if s1.clk.idleEn && (s1.clk.dozeEn || decide (k.mstate ≠ .doze)) then s1 else s1.wake Wk.internal
  | 0x10 => { s with clk := { k with dozeDelay := p.bits 0 k.dozeDelay } }
  | 0x14 => { s with clk := { k with wakeAt := p.value } }
  | 0x18 => { s with clk := { k with wakeCause := k.wakeCause &&& ~~~ (p.value.extractLsb' 0 7) } }
  | 0x110 =>
    let l := p.bits 0 w.thrLevel
    State.rethrottle { s with power := { w with thrLevel := if l = 0 then 1 else l } }
  | 0x120 => { s with power := { w with alert := p.w1c 31 w.alert } }
  | 0x124 => { s with power := { w with sbSel := p.bits 0 w.sbSel } }
  | 0x130 => { s with power := { w with alertEn := p.bit 31 w.alertEn, alertPort := p.bits 28 w.alertPort, alertVec := p.bits 0 w.alertVec } }
  | _ => s

/-! ## HOST (R358, R378, R505) -/

/-- Fields that apply within one count; the others wait for the port's training. -/
def hostMask (p : PendWrite) : Word :=
  if p.block ≠ Blk.host.num then 0 else if p.off = 0x08 then 0x80010001 else 0xFFFFFFFF

/-- The lock in force, as voted: set where its copies disagree three ways. -/
def State.hostLock (s : State) : Bool := s.host.lock.vote true

/-- `locked` is the lock in force before this apply: a field and its lock written in one apply take effect
together. -/
def hostApply (locked : Bool) (s : State) (p : PendWrite) : State :=
  match p.off with
  | 0x04 => { s with host := { s.host with portSel := p.bits 0 s.host.portSel } }
  | 0x08 =>
    let h := s.hport p.inst
    let s1 := if locked ∨ s.variant.hostPorts ≤ p.inst then s else s.setHport p.inst { h with regsOff := p.bit 0 h.regsOff }
    if p.has 31 && p.value.getLsbD 31 then { s1 with host := { s1.host with lock := Tv.all true } } else s1
  | 0x10 =>
    let h := s.hport p.inst
    s.setHport p.inst { h with cplTo := BitVec.ofNat 24 (max 2500 (p.bits 0 h.cplTo).toNat) }
  | _ => s

/-- Ports whose RETRAIN is written as 1. -/
def State.retrains (s : State) : List Nat :=
  ((s.regs.shadows.filter (fun p => decide (s.selNow hostMask p ≠ 0) && decide (p.off = 0x08) && p.has 16 && p.value.getLsbD 16)).map
    (fun p => p.inst)).eraseDups

def State.applyHost (s : State) : State :=
  s.retrains.foldl (fun (st : State) p => st.onPort p (fun s => s.retrainPort p))
    (s.applyPend hostMask (hostApply s.hostLock))

/-! ## CHAN (R213, R225, R244) -/

/-- PORT, WATCH, SQ_LOG2, the ring bases and the doorbell address: they apply only while the channel is DISABLED. -/
def ringBits (off : Nat) : Word :=
  if off = 0x08 then 0x001F0032 else if 0x10 ≤ off ∧ off ≤ 0x24 then 0xFFFFFFFF else 0

/-- The fields of channel writes that can apply now, ENABLE and XBUF left for later passes.
(DEDUCED, assumption 104.) -/
def State.chanMask (s : State) (p : PendWrite) : Word :=
  if p.block ≠ Blk.chan.num ∨ p.off = 0x34 then 0
  else if p.off < 0x08 then 0xFFFFFFFF
  else
    let m := if (s.ch p.inst).state = .disabled then 0xFFFFFFFF else ~~~ (ringBits p.off)
    if p.off = 0x08 then m &&& 0xFFFFFFFE else m

/-- A half of an address with some low bits. -/
def loHalf (old : DWord) (v : Word) : DWord := (old &&& 0xFFFFFFFF00000000) ||| v.setWidth 64
def hiHalf (old : DWord) (v : Word) : DWord := (old &&& 0x00000000FFFFFFFF) ||| (v.setWidth 64 <<< 32)

/-- The writable bits of a value. -/
def PendWrite.masked (p : PendWrite) : Word := p.value &&& p.mask

/-- (DEDUCED, assumption 104.) -/
def chanApply (s : State) (p : PendWrite) : State :=
  let c := s.ch p.inst
  let put := fun (x : Chan) => s.setCh p.inst x
  match p.off with
  | 0x00 => { s with chan := { s.chan with reject := p.w1c 1 s.chan.reject } }
  | 0x04 => { s with chan := { s.chan with sel := p.bits 0 s.chan.sel } }
  | 0x08 => if p.has 1 then put { c with sqLog2 := BitVec.ofNat 5 (clampTo 4 16 (p.num 16 5)), port := p.bits 4 c.port, watch := p.bit 1 c.watch } else s
  | 0x10 => put { c with sqBase := loHalf c.sqBase p.masked }
  | 0x14 => put { c with sqBase := hiHalf c.sqBase p.masked }
  | 0x18 => put { c with cqBase := loHalf c.cqBase p.masked }
  | 0x1C => put { c with cqBase := hiHalf c.cqBase p.masked }
  | 0x20 => put { c with dbAddr := loHalf c.dbAddr p.masked }
  | 0x24 => put { c with dbAddr := hiHalf c.dbAddr p.masked }
  | 0x28 => put { c with poll := BitVec.ofNat 15 (clampTo 25 25000 (p.num 0 15)) }
  | 0x2C => put { c with pasidEn := p.bit 20 c.pasidEn, pasid := p.bits 0 c.pasid }
  | 0x30 => put { c with holdoff := p.bits 16 c.holdoff, vector := p.bits 0 c.vector }
  | 0x38 => put { c with outMax := BitVec.ofNat 16 (clampTo 1 32768 (p.num 0 16)) }
  | _ => s

def xbufMask (p : PendWrite) : Word := if p.block = Blk.chan.num ∧ p.off = 0x34 then 0xFFFFFFFF else 0

/-- XBUF applies only where R225 allows it; else it is discarded. -/
def xbufApply (s : State) (p : PendWrite) : State :=
  let c := s.ch p.inst
  let y := { c with xmax := p.bits 16 c.xmax, xmin := p.bits 0 c.xmin }
  if s.minSum - c.xmin.toNat + y.xmin.toNat ≤ 2048 ∧ y.xmin.toNat ≤ y.xmax.toNat ∧ 1 ≤ y.xmax.toNat then s.setCh p.inst y
  else { s with chan := { s.chan with reject := true } }

/-- ENABLE: last, so that the fields of the same apply take effect first. -/
def enableMask (p : PendWrite) : Word := if p.block = Blk.chan.num ∧ p.off = 0x08 then 1 else 0
/-- (DEDUCED, assumption 101.) -/
def enableApply (s : State) (p : PendWrite) : State :=
  if p.value.getLsbD 0 then s.enableOn p.inst else s.disableChannel p.inst

def State.applyChan (s : State) : State :=
  let s1 := (s.applyPend s.chanMask chanApply).applyPend xbufMask xbufApply
  s1.applyPend enableMask enableApply

/-! ## QOS, TIER, COMP, TEN, POD, LCH -/

/-- Selects of QOS apply at once. -/
def qosSelMask (p : PendWrite) : Word :=
  if p.block = Blk.qos.num ∧ (p.off = 0x04 ∨ p.off = 0x28 ∨ p.off = 0x40) then 0xFFFFFFFF else 0
def qosSelApply (s : State) (p : PendWrite) : State :=
  match p.off with
  | 0x04 => { s with qos := { s.qos with classSel := p.bits 0 s.qos.classSel } }
  | 0x28 => { s with qos := { s.qos with resSel := p.bits 0 s.qos.resSel } }
  | _ => { s with qos := { s.qos with latSel := p.bits 0 s.qos.latSel } }

/-- Every bit of a block's writes. -/
def allOf (b : Blk) (p : PendWrite) : Word := if p.block = b.num then 0xFFFFFFFF else 0

def tierApply (s : State) (p : PendWrite) : State :=
  let t := s.place
  match p.off with
  | 0x10 => { s with place := { t with highPm := p.bits 16 t.highPm, lowPm := p.bits 0 t.lowPm } }
  | 0x14 => { s with place := { t with hotThresh := p.bits 0 t.hotThresh } }
  | 0x1C => { s with place := { t with partySel := p.bits 0 t.partySel } }
  | 0x20 => { s with place := { t with pinLimit := Table.put 0x100000 t.pinLimit p.inst (p.num 0 21) } }
  | _ => { s with place := { t with stallCause := p.bits 8 t.stallCause, stallWin := p.bits 0 t.stallWin } }

def compApply (s : State) (p : PendWrite) : State :=
  let c := s.comp
  match p.off with
  | 0x08 => { s with comp := { c with tableSel := p.bits 0 c.tableSel } }
  | 0x18 => { s with comp := { c with hctxSel := p.bits 0 c.hctxSel } }
  | 0x3C => { s with comp := { c with bankEgress := p.bit 8 c.bankEgress, bankSel := p.bits 0 c.bankSel } }
  | _ => { s with comp := { c with coreSel := p.bits 0 c.coreSel } }

/-- PARTY_SEL and EXT_SEL; SEAL_CTL waits for the regulation boundary. -/
def tenMask (p : PendWrite) : Word := if p.block = Blk.ten.num ∧ p.off ≠ 0x04 then 0xFFFFFFFF else 0
def tenApply (s : State) (p : PendWrite) : State :=
  if p.off = 0x2C then { s with ten := { s.ten with partySel := p.bits 0 s.ten.partySel } }
  else { s with ten := { s.ten with extSel := p.value } }

def podApply (s : State) (p : PendWrite) : State :=
  if p.off = 0x04 then { s with pods := { s.pods with quantum := BitVec.ofNat 22 (clampTo 2500 2500000 (p.num 0 22)) } }
  else { s with pods := { s.pods with podSel := p.bits 0 s.pods.podSel } }

def lchApply (s : State) (p : PendWrite) : State := { s with clk := { s.clk with gateSel := p.bits 0 s.clk.gateSel } }

/-! ## FAB (R343, R351, R352) -/

/-- Everything but MAX_SPEED and ALLOW_X2, which wait for TRAINING, and the group registers. -/
def fabMask (p : PendWrite) : Word :=
  if p.block ≠ Blk.fab.num ∨ p.off = 0x50 ∨ p.off = 0x54 ∨ p.off = 0x5C then 0
  else if p.off = 0x18 then 0x00000009 else 0xFFFFFFFF

/-- ENABLE applied as 0 holds the port DOWN. -/
def State.enablePort (s : State) (p : Nat) (on : Bool) : State :=
  let s1 := s.setFport p { s.fport p with enable := on }
  if on ∨ (s1.fport p).state = .down then s1 else s1.dropLink p .down

def fabApply (s : State) (p : PendWrite) : State :=
  let f := s.fab
  match p.off with
  | 0x14 => { s with fab := { f with portSel := p.bits 0 f.portSel } }
  | 0x18 =>
    let x := s.fport p.inst
    let s1 := s.setFport p.inst { x with sleepEn := p.bit 3 x.sleepEn }
    if p.has 0 then s1.enablePort p.inst (p.value.getLsbD 0) else s1
  | 0x1C => s.setFport p.inst { s.fport p.inst with degraded := p.w1c 8 (s.fport p.inst).degraded }
  | 0x38 => { s with fab := { f with life := BitVec.ofNat 13 (clampTo 250 5000 (p.num 0 13)) } }
  | 0x3C => { s with fab := { f with e2eWait := BitVec.ofNat 18 (clampTo 5000 250000 (p.num 0 18)) } }
  | 0x40 => { s with fab := { f with tries := BitVec.ofNat 3 (clampTo 1 4 (p.num 0 3)) } }
  | 0x44 => { s with fab := { f with escWait := p.bits 0 f.escWait } }
  | 0x48 => { s with fab := { f with reduceWait := p.value } }
  | 0x4C => { s with fab := { f with grpSel := p.bits 0 f.grpSel } }
  | 0x58 => { s with fab := { f with memSel := p.bits 0 f.memSel } }
  | _ => s

/-- The writes of a group's registers. -/
def grpMask (g : Nat) (p : PendWrite) : Word :=
  if p.block = Blk.fab.num ∧ (((p.off = 0x50 ∨ p.off = 0x54) ∧ p.inst = g) ∨ (p.off = 0x5C ∧ p.inst / 4096 = g)) then 0xFFFFFFFF
  else 0

/-- (DEDUCED, assumption 102.) -/
def grpApply (s : State) (p : PendWrite) : State :=
  let g := if p.off = 0x5C then p.inst / 4096 else p.inst
  let x := Table.get {} s.fab.groups g
  match p.off with
  | 0x50 =>
    let m := p.bits 0 x.members
    s.setGroup g { x with valid := p.bit 31 x.valid && decide (2 ≤ m.toNat) && decide (m.toNat ≤ 4096)
                          party := p.bits 16 x.party, members := m, k := 0, ready := [] }
  | 0x54 => s.setGroup g { x with rank := p.bits 0 x.rank }
  | _ => s.setGroup g { x with dids := Table.put 0xFFF x.dids (p.inst % 4096) (BitVec.ofNat 12 (p.num 0 12)) }

/-- A REDUCE that names the group is accepted and incomplete. -/
def State.groupBusy (s : State) (g : Nat) : Bool :=
  s.fab.reduces.any (fun r => decide (r.group = g)) ||
    s.chan.descs.any (fun e => decide (e.2.opcode = 0x21) && decide (e.2.redGroup = g))

/-- Groups whose GRP_CTL is written and that no REDUCE holds. -/
def State.groupsDue (s : State) : List Nat :=
  ((s.regs.shadows.filter (fun p => decide (p.block = Blk.fab.num) && decide (p.off = 0x50))).map (fun p => p.inst)).eraseDups.filter
    (fun g => !(s.groupBusy g))

/-- A group's registers apply together.
(DEDUCED, assumption 102.) -/
def State.applyGroups (s : State) : State :=
  s.groupsDue.foldl (fun (st : State) g => st.applyPend (grpMask g) grpApply) s

def execGroupConfigure (s : State) : Outcome := .next s.applyGroups

/-! ## REL (R402, R421, R425) -/

/-- A spill target waits until nothing is spilled to it. -/
def State.relMask (s : State) (p : PendWrite) : Word :=
  if p.block ≠ Blk.rel.num then 0
  else if 0x44 ≤ p.off ∧ p.off ≤ 0x4C ∧ (Table.get {} s.rel.spills p.inst).used ≠ 0 then 0
  else 0xFFFFFFFF

def relApply (s : State) (p : PendWrite) : State :=
  let r := s.rel
  let t := Table.get {} r.spills p.inst
  let spill := fun (x : Spill) => { s with rel := { r with spills := Table.put {} r.spills p.inst x } }
  let x := s.stack p.inst
  match p.off with
  | 0x40 => { s with rel := { r with spillSel := p.bits 0 r.spillSel } }
  | 0x44 => spill { t with valid := p.bit 31 t.valid, party := p.bits 16 t.party, did := p.bits 0 t.did }
  | 0x48 => spill { t with handle := p.value }
  | 0x4C => spill { t with tracts := p.bits 0 t.tracts }
  | 0x100 => { s with rel := { r with stkSel := p.bits 0 r.stkSel } }
  | 0x108 => s.setStack p.inst { x with scrubEn := p.bit 16 x.scrubEn, scrubHours := BitVec.ofNat 8 (clampTo 1 168 (p.num 0 8)) }
  | 0x110 => s.setStack p.inst { x with tempDelta := BitVec.ofNat 8 (clampTo 2 20 (p.num 16 8))
                                        retrainInt := BitVec.ofNat 16 (clampTo 100 60000 (p.num 0 16)) }
  | 0x114 => s.setStack p.inst { x with mergeHold := BitVec.ofNat 10 (clampTo 16 1023 (p.num 0 10)) }
  | _ => s

/-! ## SEC (R437, R446, R447) -/

/-- A lock bit: once set, it stays. -/
def lockWrite (old : Tv Bool) (on : Bool) : Tv Bool := if on then Tv.all true else old

/-- (DEDUCED, assumption 103.) -/
def secApply (s : State) (p : PendWrite) : State :=
  let c := s.sec
  let v := p.masked
  match p.off with
  | 0x00 => { s with sec := { c with dropped := p.w1c 3 c.dropped } }
  | 0x08 =>
    { s with sec := { c with lcLock := lockWrite c.lcLock (v.getLsbD 0), fwLock := lockWrite c.fwLock (v.getLsbD 1)
                             dbgLock := lockWrite c.dbgLock (v.getLsbD 2), debugOpen := c.debugOpen && !(v.getLsbD 2) } }
  | 0x0C => { s with sec := { c with cmdPort := p.bits 4 c.cmdPort } }
  | 0x10 => { s with sec := { c with cmdAddr := loHalf c.cmdAddr v } }
  | 0x14 => { s with sec := { c with cmdAddr := hiHalf c.cmdAddr v } }
  | 0x18 => { s with sec := { c with cmdBytes := p.bits 0 c.cmdBytes } }
  | 0x1C => { s with sec := { c with dataAddr := loHalf c.dataAddr v } }
  | 0x20 => { s with sec := { c with dataAddr := hiHalf c.dataAddr v } }
  | 0x24 => { s with sec := { c with dataBytes := p.bits 0 c.dataBytes } }
  | 0x34 => s
  | 0x58 => { s with sec := { c with outObj := p.bits 16 c.outObj, outWord := p.bits 0 c.outWord } }
  | k =>
    if 0x38 ≤ k ∧ k ≤ 0x54 then
      let i := (k - 0x38) / 4
      let m : BitVec 256 := 0xFFFFFFFF#256 <<< (32 * i)
      { s with sec := { c with nonce := (c.nonce &&& ~~~ m) ||| (v.setWidth 256 <<< (32 * i)) } }
    else s

/-- SEC_CMD_CTL.GO: a command runs, with the lengths in force; ignored while one does.
(DESIGN CHOICE, assumption 91.) -/
def State.secGo (s : State) : State :=
  let c := s.sec
  if c.cmdBusy then { s with sec := { c with dropped := true } }
  else { s with sec := { c with cmdBusy := true, runBytes := c.cmdBytes.toNat, runData := c.dataBytes.toNat } }

/-- The shadow holds a GO at an offset.
(DESIGN CHOICE, assumption 91.) -/
def State.goAt (s : State) (off : Nat) : Bool :=
  s.regs.shadows.any (fun p => decide (p.block = Blk.sec.num) && decide (p.off = off) && p.value.getLsbD 0)

/-- The action bits act last, on what the same apply has set.
(DESIGN CHOICE, assumption 105.) -/
def State.applySec (s : State) : State :=
  if !(s.mayApply .sec) then s
  else
    let s1 := s.applyPend (allOf .sec) secApply
    let s2 := if s.goAt 0x34 then s1.attGo else s1
    if s.goAt 0x0C then s2.secGo else s2

/-! ## EVT and WIN (R379, R471) -/

/-- Registers that apply within one count; HOLD, the JRN registers and REPLAY_CTL follow by their own rules. -/
def evtMask (p : PendWrite) : Word :=
  if p.block ≠ Blk.evt.num ∨ (0x58 ≤ p.off ∧ p.off ≤ 0x64) ∨ p.off = 0x74 then 0
  else if p.off = 0x04 then 0x00000007 else 0xFFFFFFFF

/-- (DEDUCED, assumption 103.) -/
def evtApply (s : State) (p : PendWrite) : State :=
  let e := s.evt
  match p.off with
  | 0x00 => { s with evt := { e with reject := p.w1c 4 e.reject } }
  | 0x04 => { s with evt := { e with minSev := BitVec.ofNat 3 (min 3 (p.num 0 3)) } }
  | 0x10 => s.selectRec p.value
  | 0x54 => { s with evt := { e with jrnSel := p.bits 0 e.jrnSel } }
  | 0x68 => s.setJournal p.inst { s.journal p.inst with stopped := p.w1c 1 (s.journal p.inst).stopped }
  | _ => s

/-- Channels with pending JRN values. -/
def State.jrnDue (s : State) : List Nat :=
  ((s.regs.shadows.filter (fun p => decide (p.block = Blk.evt.num) && decide (0x58 ≤ p.off) && decide (p.off ≤ 0x64))).map
    (fun p => p.inst)).eraseDups

/-- (DESIGN CHOICE, assumption 105.) -/
def State.applyEvt (s : State) : State :=
  let s1 := (s.applyPend evtMask evtApply).applyPend holdMask holdApply
  (s1.jrnDue.foldl State.applyJournal s1).applyPend replayMask replayApply

/-- WIN_STAT, WIN_SWITCH and WIN_SEL; the shadow of the windows waits for GO. -/
def winMask (p : PendWrite) : Word := if p.block = Blk.win.num ∧ p.off < 0x10 then 0xFFFFFFFF else 0

def winApply (s : State) (p : PendWrite) : State :=
  match p.off with
  | 0x00 => { s with host := { s.host with reject := p.w1c 1 s.host.reject } }
  | 0x08 => if p.value.getLsbD 0 then s.winSwitch else s
  | 0x0C => { s with host := { s.host with winSel := p.bits 0 s.host.winSel } }
  | _ => s

/-! ## REGISTER_APPLY (R501) -/

/-- A block's shadow applies, as far as its fields have reached their boundary. -/
def State.applyBlk (s : State) (b : Blk) : State :=
  match b with
  | .ident => s.applyIdent
  | .clk => s.applyPend clkMask clkApply
  | .host => s.applyHost
  | .chan => s.applyChan
  | .qos => s.applyPend qosSelMask qosSelApply
  | .tier => s.applyPend (allOf .tier) tierApply
  | .comp => s.applyPend (allOf .comp) compApply
  | .fab => (s.applyPend fabMask fabApply).applyGroups
  | .ten => s.applyPend tenMask tenApply
  | .rel => s.applyPend s.relMask relApply
  | .sec => s.applySec
  | .evt => s.applyEvt
  | .win => s.applyPend winMask winApply
  | .pod => s.applyPend (allOf .pod) podApply
  | .lch => s.applyPend (allOf .lch) lchApply

/-- Blocks of the always-on domain and of Pip apply in every module state. -/
def Blk.alwaysOn (b : Blk) : Bool := decide (b = .ident ∨ b = .clk ∨ b = .sec ∨ b = .evt)

/-- (DESIGN CHOICE, assumption 106.) -/
def execRegisterApply (block : BitVec 4) (s : State) : Outcome :=
  .next (
    match Blk.ofNum block.toNat with
    | none => s
    | some b => if !(s.hasPend b) then s else if b.alwaysOn ∨ s.active then s.applyBlk b else s.wake Wk.internal)

/-! ## Local readiness (R336, R503) -/

def allBlks : List Blk :=
  [.ident, .clk, .host, .chan, .qos, .tier, .comp, .fab, .ten, .rel, .sec, .evt, .win, .pod, .lch]

/-- Self-test and lane training have ended: the module is locally ready, pending writes apply, and AUTH begins on
each trained port. -/
def execLocallyReady (s : State) : Outcome :=
  .next (
    if s.power.boot ≠ .tested then s
    else
      let s1 := (s.setBoot .ready)
      let s2 := { s1 with power := { s1.power with readyAt := s1.now } }
      let s3 := allBlks.foldl State.applyBlk s2
      let auth := (s3.fab.ports.filter (fun e => decide (e.2.state = .auth) && e.2.own.isNone)).map Prod.fst
      (auth.foldl State.beginAuth s3).originate)

end Sys2Proof.Machine
end

