-- ==== Sys2Proof/Machine/Routing.lean ====
section
/-! DEFINITION. The link-state database, device ids, routes, and packets that pass through (R328 to R334). -/

namespace Sys2Proof.Machine

/-! ## The database (R329) -/

/-- A link that both its ends list, seen from the end `u`: the ports at both ends and its rate code. -/
structure Edge where
  u    : Nat
  v    : Nat
  port : Nat
  far  : Nat
  rate : Nat
  deriving DecidableEq, Repr

/-- Every counted link, once from each end. -/
def State.edges (s : State) : List Edge :=
  s.fab.lsas.flatMap (fun l => l.links.filterMap (fun k =>
    match s.lsaOf k.uid with
    | some m =>
      if m.links.any (fun q => decide (q.uid = l.uid) && decide (q.own = k.port) && decide (q.port = k.own)) then
        some ⟨l.uid.toNat, k.uid.toNat, k.own.toNat, k.port.toNat, k.rate.toNat⟩
      else none
    | none => none))

/-- Modules reached in up to `n` further hops. -/
def reached (es : List Edge) : Nat → List Nat → List Nat
  | 0, l => l
  | n + 1, l => reached es n (es.foldl (fun (a : List Nat) e => if a.contains e.u && !(a.contains e.v) then a ++ [e.v] else a) l)

/-- The modules of the database. -/
def State.database (s : State) : List Nat := reached s.edges s.fab.lsas.length [s.sec.uid.toNat]

/-- The coordinator: the lowest UID (R330). -/
def State.coordinator (s : State) : Nat := s.database.foldl Nat.min s.sec.uid.toNat

/-- The LSAs of the database. -/
def State.dbLsas (s : State) : List Lsa :=
  let db := s.database
  s.fab.lsas.filter (fun l => db.contains l.uid.toNat)

/-! ## LSAs -/

/-- The 10 s timer; a change originates its own. -/
def execLsaOriginate (s : State) : Outcome :=
  .next (match s.lsaOf s.sec.uid with
    | some l => if s.now < l.stamp + 250000000 then s else s.originate
    | none => s.originate)

/-- Read an LSA's body; none where its length or reserved bits are wrong. -/
def readLsa (b : Bytes) (now : Nat) : Option Lsa :=
  let n := fieldAt b 11 1
  let w := fieldAt b 8 2
  if b.length ≠ 24 + 12 * n ∨ 16 < n ∨ w / 4096 % 8 ≠ 0 ∨ fieldAt b 20 4 ≠ 0 then none
  else some
    { uid := BitVec.ofNat 64 (fieldAt b 0 8), did := if bitOf w 15 then some (BitVec.ofNat 12 w) else none
      part := BitVec.ofNat 8 (fieldAt b 10 1), seq := BitVec.ofNat 64 (fieldAt b 12 8), stamp := now
      links := (List.range n).map (fun j =>
        { uid := BitVec.ofNat 64 (fieldAt b (24 + 12 * j) 8), own := BitVec.ofNat 8 (fieldAt b (32 + 12 * j) 1)
          port := BitVec.ofNat 8 (fieldAt b (33 + 12 * j) 1), rate := BitVec.ofNat 8 (fieldAt b (34 + 12 * j) 1) }) }

/-- A module of the database with a lower UID holds this module's DID: it is given up (R331). -/
def State.yieldDid (s : State) : State :=
  match s.fab.did with
  | none => s
  | some d =>
    match s.dbLsas.find? (fun l => decide (l.did = some d) && decide (l.uid.toNat < s.sec.uid.toNat)) with
    | none => s
    | some l =>
      let s1 := { s with fab := { s.fab with did := none, released := s.fab.released ++ [(d, s.now)] } }
      (s1.raise 0x0404 Sev.warning Uk.module 0 d.toNat (l.uid.toNat % 2 ^ 32) 0).originate

/-- A packet arrives on a port: it wakes the module, and its flits are consumed (R253, R322). -/
def State.arrives (s : State) (port : Nat) (q : Packet → Bool) : State := (s.consume port q).wake Wk.fabric

/-- An LSA arrives: held and passed on where its SEQ is greater. -/
def lsaIn (port : Nat) (body : Bytes) (s : State) : State :=
  match readLsa body s.now with
  | none => s.violation port
  | some l =>
    if (match s.lsaOf l.uid with | some o => decide (l.seq.toNat ≤ o.seq.toNat) | none => false) then s
    else
      let s1 := s.storeLsa l
      ((s1.linkPorts.filter (fun p => decide (p ≠ port))).foldl
        (fun (st : State) p => st.sendMgmt p pLsa body) s1).yieldDid

def execPktLsa (port : Nat) (body : Bytes) (s : State) : Outcome :=
  .next (if (s.fport port).sealed then lsaIn port body (s.arrives port (fun p => decide (p.ptype = pLsa ∧ p.body = body))) else s)

/-- An LSA that was not refreshed for 40 s is removed; its DID is released (R331). -/
def execLsaExpiry (uid : DWord) (s : State) : Outcome :=
  .next (
    match s.lsaOf uid with
    | none => s
    | some l =>
      if uid = s.sec.uid ∨ s.now < l.stamp + 1000000000 then s
      else
        let f := s.fab
        { s with fab := { f with
            lsas := f.lsas.filter (fun o => decide (o.uid ≠ uid)), changed := s.now, routesValid := false
            released := f.released ++ (match l.did with | some d => [(d, s.now)] | none => []) } })

/-! ## Device ids (R330) -/

/-- This module takes a DID. -/
def State.takeDid (s : State) (d : BitVec 12) (coord : Nat) : State :=
  let s1 := { s with fab := { s.fab with did := some d } }
  (s1.raise 0x0403 Sev.info Uk.module 0 d.toNat (coord % 2 ^ 32) 0).originate

/-- The lowest DID that no LSA holds, that is not among `used`, and that no module released in the last 60 s. -/
def State.freeDid (s : State) (used : List (BitVec 12)) : Option (BitVec 12) :=
  ((List.range 4096).find? (fun n =>
    let d : BitVec 12 := BitVec.ofNat 12 n
    !(s.fab.lsas.any (fun l => decide (l.did = some d))) && !(used.contains d) &&
      !(s.fab.released.any (fun r => decide (r.1 = d) && decide (s.now < r.2 + 1500000000))))).map (BitVec.ofNat 12)

/-- The body of DID_ASSIGN. -/
def assignBytes (coord target : Nat) (d : BitVec 12) : Bytes := leBytes 8 coord ++ leBytes 8 target ++ leBytes 2 d.toNat

/-- Flood a DID_ASSIGN on every UP port but one.
(DESIGN CHOICE, assumption 48.) -/
def State.floodAssign (s : State) (coord target : Nat) (d : BitVec 12) (from_ : Option Nat) : State :=
  (s.linkPorts.filter (fun p => decide (some p ≠ from_))).foldl
    (fun (st : State) p => st.sendMgmt p pDidAssign (assignBytes coord target d)) s

/-- Ascending insertion. -/
def insNat (n : Nat) : List Nat → List Nat
  | [] => [n]
  | m :: r => if n < m then n :: m :: r else m :: insNat n r

/-- One assignment of the coordinator. -/
def assignOne (coord : Nat) (a : State × List (BitVec 12)) (target : Nat) : State × List (BitVec 12) :=
  match a.1.freeDid a.2 with
  | none => a
  | some d =>
    let s1 := a.1.floodAssign coord target d none
    (if target = coord then s1.takeDid d coord else s1, a.2 ++ [d])

/-- The coordinator, its database unchanged for 5 s, numbers the modules without a DID in ascending UID.
(DESIGN CHOICE, assumption 48.) -/
def execDidAssignment (s : State) : Outcome :=
  .next (
    let me := s.sec.uid.toNat
    let bare := (s.dbLsas.filter (fun l => decide (l.did = none))).map (fun l => l.uid.toNat)
    if !s.isReady || decide (s.coordinator ≠ me) || decide (s.now < s.fab.changed + 125000000) then s
    else ((bare.foldl (fun a n => insNat n a) []).foldl (assignOne me) (s, [])).1)

/-- A DID_ASSIGN arrives: taken where it names this module and comes from its coordinator; one for another
module without a DID is passed on once. -/
def didAssignIn (port : Nat) (body : Bytes) (s : State) : State :=
    let coord := fieldAt body 0 8
    let target := fieldAt body 8 8
    let d : BitVec 12 := BitVec.ofNat 12 (fieldAt body 16 2)
    let key := (BitVec.ofNat 64 coord, BitVec.ofNat 64 target, d)
    if body.length ≠ 18 ∨ 4096 ≤ fieldAt body 16 2 then s.violation port
    else if target = s.sec.uid.toNat then
      if coord = s.coordinator ∧ s.fab.did = none then s.takeDid d coord else s
    else if s.fab.assigns.contains key || (match s.lsaOf (BitVec.ofNat 64 target) with | some l => l.did.isSome | none => true) then s
    else { s with fab := { s.fab with assigns := s.fab.assigns ++ [key] } }.floodAssign coord target d (some port)

def execPktDidAssign (port : Nat) (body : Bytes) (s : State) : Outcome :=
  .next (if (s.fport port).sealed then
      didAssignIn port body (s.arrives port (fun p => decide (p.ptype = pDidAssign ∧ p.body = body)))
    else s)

/-! ## Routes (R332) -/

/-- Cost of a link. -/
def edgeCost (e : Edge) : Nat := if e.rate = 0 then 1 else if e.rate = 1 ∨ e.rate = 2 then 2 else 4

/-- One pass of relaxation toward the module at distance 0. -/
def relax (es : List Edge) (w : Edge → Nat) (d : Table Nat) : Table Nat :=
  es.foldl (fun (m : Table Nat) e =>
    match Table.find m e.v with
    | none => m
    | some k => match Table.find m e.u with
      | none => Table.set m e.u (w e + k)
      | some j => if w e + k < j then Table.set m e.u (w e + k) else m) d

/-- `n` passes. -/
def relaxN (es : List Edge) (w : Edge → Nat) : Nat → Table Nat → Table Nat
  | 0, d => d
  | n + 1, d => relaxN es w n (relax es w d)

/-- What routes are computed from: the links, the number of modules, the levels of the escape tree. -/
structure RouteBase where
  es     : List Edge
  n      : Nat
  levels : Table Nat

/-- A hop from `u` to `v` goes up: `v` has the lower (level, UID). -/
def RouteBase.up (b : RouteBase) (e : Edge) : Bool :=
  let lu := Table.get 0 b.levels e.u
  let lv := Table.get 0 b.levels e.v
  decide (lv < lu) || (decide (lv = lu) && decide (e.v < e.u))

/-- Of hops to neighbors, the one to the lowest UID, then the lowest port. -/
def firstHop (l : List (Edge × Bool)) : Option (Edge × Bool) :=
  l.foldl (fun (a : Option (Edge × Bool)) x => match a with
    | none => some x
    | some y => if x.1.v < y.1.v ∨ (x.1.v = y.1.v ∧ x.1.port < y.1.port) then some x else some y) none

/-- Routes of module `me` to module `t`. -/
def RouteBase.route (b : RouteBase) (me t : Nat) : Route :=
  let dist := relaxN b.es edgeCost b.n [(t, 0)]
  let downs := b.es.filter (fun e => !(b.up e))
  let dd := relaxN downs (fun _ => 1) b.n [(t, 0)]
  let ud := relaxN (b.es.filter b.up) (fun _ => 1) b.n dd
  let mine := b.es.filter (fun e => decide (e.u = me))
  let at_ := fun (d : Table Nat) (e : Edge) (w : Nat) (best : Table Nat) =>
    match Table.find d e.v, Table.find best me with | some k, some j => decide (w + k = j) | _, _ => false
  { minimal := (mine.filter (fun e => at_ dist e (edgeCost e) dist)).map Edge.port
    updown := (firstHop (((mine.filter (fun e => b.up e && at_ ud e 1 ud)).map (fun (e : Edge) => (e, false))) ++
      ((mine.filter (fun e => !(b.up e) && at_ dd e 1 ud)).map (fun (e : Edge) => (e, true))))).map (fun x => (x.1.port, x.2))
    down := (firstHop ((mine.filter (fun e => !(b.up e) && at_ dd e 1 dd)).map (fun (e : Edge) => (e, true)))).map (fun x => x.1.port) }

/-- Routes are computed from the database; packets that wait are tried by them. -/
def execRouteRecompute (s : State) : Outcome :=
  .next (
    if !s.isReady then s
    else
      let es := s.edges
      let n := s.fab.lsas.length
      let b : RouteBase := { es := es, n := n, levels := relaxN es (fun _ => 1) n [(s.coordinator, 0)] }
      let me := s.sec.uid.toNat
      let routes := s.dbLsas.foldl (fun (m : Table Route) l => match l.did with
        | some d => if l.uid = s.sec.uid then m else Table.set m d.toNat (b.route me l.uid.toNat)
        | none => m) []
      { s with fab := { s.fab with routes := routes, routesValid := true } }.drainTx)

/-! ## Packets that pass through (R333, R334) -/

/-- A packet that is not addressed to this module is passed on, aged, or discarded; its flits are free once it has left
(R322). A module without a DID passes packets on too.
(DEDUCED, assumption 137.) -/
def State.passOn (s : State) (port vc : Nat) (pkt : Packet) (counts : Nat) : State :=
  let gone := s.consume port (fun p => decide (p = pkt))
  if !pkt.ok then gone.violation port
  else if 64 < pkt.hops + 1 then { gone with fab := { gone.fab with expired := gone.fab.expired + 1 } }
  else
    let w : FabWait := { vc := vc, port := none, pkt := pkt.put 9 1 (pkt.hops + 1), since := s.now, spent := some counts }
    let y := (s.fport port).rxVc vc
    match y.pkts.find? (fun r => decide (r.pkt = pkt)) with
    | none => s.dispatch w
    | some r =>
      let z := { y with pkts := y.pkts.erase r, passing := y.passing ++ [(r.first, r.last)] }
      State.dispatch (s.setFport port ((s.fport port).buffer vc 0 z)) { w with held := some (port, vc, r.first, r.last) }

def execPacketForward (port vc : Nat) (pkt : Packet) (counts : Nat) (s : State) : Outcome :=
  .next (
    if !((s.fport port).sealed) ∨ 3 ≤ vc ∨ s.fab.did = some (BitVec.ofNat 12 pkt.dst) then s
    else (s.wake Wk.fabric).passOn port vc pkt counts)

/-- No minimal port held a credit for ESC_WAIT counts: the packet moves to VC 2. -/
def execEscapeTimeout (pkt : Packet) (s : State) : Outcome :=
  .next (
    match s.fab.waiting.find? (fun w => decide (w.pkt = pkt) && decide (w.vc < 2) && w.port.isNone) with
    | none => s
    | some w =>
      if s.now < w.since + s.fab.escWait.toNat then s
      else if (s.hopNow w).isSome then s.drainTx
      else { s with fab := { s.fab with waiting := s.fab.waiting.erase w } }.dispatch { w with vc := 2, esc := true })

end Sys2Proof.Machine
end

