-- ==== Sys2Proof/Machine/Requests.lean ====
section
/-! DEFINITION. Fabric requests at their target: checks, performing, answers, holding, deduplication (R268, R306 to
R308, R339 to R342, R345, R349, R350). -/

namespace Sys2Proof

/-! ## Fields of request packets (R338) -/

/-- The metadata word under which an arriving block is stored. -/
def Packet.word (p : Packet) : Word :=
  if bitOf p.btag 7 then Machine.mkMeta p.tableId true (p.btag % 64) else Machine.wordOf p.btag p.body

/-- The group and index of a collective packet. -/
def Packet.group (p : Packet) : Nat := p.arg % 65536
def Packet.index (p : Packet) : Nat := p.arg / 65536 % 2 ^ 32

/-- BLOCKS and BASE_VERSION of a PUBLISH packet. -/
def Packet.blocks (p : Packet) : Nat := p.arg / 256 % 2 ^ 24
def Packet.version (p : Packet) : Word := BitVec.ofNat 32 (p.arg / 2 ^ 32)

end Sys2Proof

namespace Sys2Proof.Machine

/-- What performing a request gives: the answer's head and body, or none while the request is held. -/
abbrev Answer := State × Option (ReqHead × Bytes)

/-- An answer that is only a status. -/
def reply (s : State) (st : Status) : Answer := (s, some ({ ptype := 0, status := st }, []))

/-- The source of a request at memory: the fabric port toward its SRC (R283). -/
def State.pktSource (s : State) (p : Packet) : Nat := srcFab ((s.bestPort p.src 1).getD 0)

/-- Whose accesses a request's are. -/
def pktWho (p : Packet) : Who := .peer p.src p.txid.toNat

/-- Perform once the accesses can be made; until then the request is held. -/
def State.onAccess (s : State) (p : Packet) (l : List Acc) (f : State → Answer) : Answer :=
  if s.granting (s.pktSource p) (pktWho p) l then f (s.granted (s.pktSource p) (pktWho p) l)
  else (s.waiting (s.pktSource p) (pktWho p) l, none)

/-- The same for a request that needs the plain bytes of the blocks (R112, R342). -/
def State.onPlain (s : State) (p : Packet) (l : List Acc) (blocks : List Slot) (f : State → Answer) : Answer :=
  s.onAccess p l (fun s =>
    if (s.husksOf blocks).isEmpty then f s
    else if s.plainReady (pktWho p) blocks then
      let a := f (s.taking (pktWho p))
      (a.1.taken (pktWho p) blocks, a.2)
    else (s.askPlains (pktWho p) blocks, none))

/-! ## READ (R338, R339, R342) -/

/-- A READ of a version that the same SRC has open. -/
def State.readVersion (s : State) (p : Packet) (e : Extent) (n : Nat) : Answer :=
  let v : Word := BitVec.ofNat 32 (p.arg / 2 ^ 32)
  match e.holder v with
  | none => reply s St.accessDenied
  | some k =>
    let sl := e.vslot k
    if !(sl.remote.any (fun r => decide (r.1 = p.src))) then reply s St.accessDenied
    else if 4096 * sl.blocks < p.offset + n then reply s St.outOfBounds
    else
      let off := 4096 * e.slotBase k + p.offset
      s.onPlain p (accsOf p.handle off n false) ((Slot.ext p.handle off).blocks n) (fun s =>
        let seen := { sl with remote := sl.remote.map (fun (r : Nat × Nat) => if r.1 = p.src then (r.1, s.now) else r) }
        let s1 := s.setExtent p.handle (e.setVslot k seen)
        match s1.readExt p.handle off n with
        | .error st => reply s1 st
        | .ok b => (s1, some ({ ptype := 0 }, b)))

/-- READ: bytes of an extent in plain or stored form.
(DEDUCED, assumption 57.) -/
def State.performRead (s : State) (p : Packet) : Answer :=
  let n := p.arg % 8192
  if n = 0 ∨ 4096 < n then reply s St.malformed
  else match s.extent p.handle, p.flag 4 with
    | some e, true =>
      (match s.reach (some p.gpid) p.handle 0 0 .fetch false (s.arrivalOf p) with
       | some st => reply s st
       | none => s.readVersion p e n)
    | _, _ =>
      match s.reach (some p.gpid) p.handle p.offset n .data false (s.arrivalOf p) with
      | some st => reply s st
      | none =>
        if p.flag 1 && decide (p.offset % 4096 ≠ 0 ∨ n ≠ 4096) then reply s St.malformed
        else s.onPlain p (accsOf p.handle p.offset n false)
          (if p.flag 1 then [] else (Slot.ext p.handle p.offset).blocks n) (fun s =>
          if p.flag 1 then
            let m := s.blkMeta p.handle (p.offset / 4096)
            let h : ReqHead := { ptype := 0, flags := fStored, table := mwId m, btag := (m.extractLsb' 0 8).toNat }
            if mwPoison m then (s, some ({ h with status := St.poisoned }, []))
            else (s, some (h, s.blkBytes p.handle (p.offset / 4096)))
          else match s.readExt p.handle p.offset n with
            | .error st => reply s st
            | .ok b => (s, some ({ ptype := 0 }, b)))

/-! ## WRITE -/

/-- The table of a poisoned husk that arrives as its tag alone: held for the party, so that the reference it keeps is
counted (R78, R342). (DEDUCED, assumption 130.) -/
def State.poisonOk (s : State) (p : Packet) (owner : Option (BitVec 8)) : Bool :=
  decide (p.tableId = 0) || (match s.table p.tableId with | some t => decide (some t.owner = owner) | none => false)

/-- The tag of an arriving block, and the checks of R342: RESEND on a CRC failure, HUSK_INVALID on a form or table
that R74 refuses. -/
def State.arriving (s : State) (p : Packet) : Option Status :=
  if bitOf p.btag 7 then (if s.poisonOk p (s.pktParty p) then none else some St.huskInvalid)
  else if p.btag ≠ 0x3F ∧ !(huskCrcOk p.body) then some St.resend
  else if p.body.length = (if p.btag = 0x3F then 4096 else 64 * p.btag) ∧ formOk p.btag p.body ∧
      s.tableOk p.btag (s.pktParty p) p.body then none
  else some St.huskInvalid

/-- An arriving husk is named from the moment its header is read (R78). -/
def State.nameArriving (s : State) (w : Who) (p : Packet) : State :=
  if bitOf p.btag 7 ∨ p.btag = 0x3F ∨ p.tableId = 0 then s else s.nameFor w p.tableId

/-- A stored block lands in an extent. -/
def State.landStored (s : State) (p : Packet) : Answer :=
  match s.arriving p with
  | some st => reply (if st = St.huskInvalid then s.countInvalid else s) st
  | none => reply (s.storeBlk p.handle (p.offset / 4096) p.word p.body) St.ok

/-- Plain bytes land in an extent. -/
def State.landPlain (s : State) (p : Packet) : Answer :=
  let r := s.writePlain (.ext p.handle p.offset) p.body
  reply r.1 r.2.status

/-- A block of a PEER publish lands in the slot that its BEGIN took (R339). -/
def State.landPublish (s : State) (p : Packet) : Answer :=
  match s.extent p.handle with
  | none => reply s St.accessDenied
  | some e =>
    let k := p.arg % 256
    let v := e.vslot k
    if v.state ≠ .writing ∨ v.writer ≠ some (p.src, p.gpid) ∨ e.slots.length ≤ k then reply s St.accessDenied
    else if p.offset % 4096 ≠ 0 ∨ p.body.length ≠ 4096 then reply s St.malformed
    else if v.blocks ≤ p.offset / 4096 then reply s St.outOfBounds
    else
      let blk := e.slotBase k + p.offset / 4096
      s.onAccess p (accsOf p.handle (4096 * blk) 4096 true) (fun s => reply (s.storeBlk p.handle blk rawMeta p.body) St.ok)

/-- The group is configured and the packet comes from its party. -/
def State.groupOk (s : State) (p : Packet) : Bool :=
  let g := s.group p.group
  decide (p.group < 1024) && g.valid && decide (s.gpid g.party = some p.gpid)

/-- A collective packet of index k: its REDUCE, or that it is not accepted yet, or over. -/
def State.matchReduce (s : State) (p : Packet) (now : Reduce → Answer) (early : Answer) : Answer :=
  match s.reduceAt p.group p.index with
  | some e => now e
  | none => if decide ((s.group p.group).k ≤ p.index) then early else reply s St.ok

/-- A REDUCE's WRITE lands in its DST extent: staging or result (R346 to R348). A block that cannot be taken ends
the REDUCE. -/
def State.landReduce (s : State) (p : Packet) : Answer :=
  if !(s.groupOk p) || decide (p.src ≠ ((s.group p.group).did (s.group p.group).prev).toNat) then reply s St.accessDenied
  else s.matchReduce p (fun e =>
    match s.desc e.desc with
    | none => reply s St.ok
    | some x =>
      let i := p.offset / 4096 - x.redDst.2
      if p.handle ≠ x.redDst.1 ∨ p.offset % 4096 ≠ 0 ∨ p.offset / 4096 < x.redDst.2 ∨ 2 * x.redBlocks ≤ i then
        reply s St.accessDenied
      else if x.phase = .ended then reply s St.ok
      else match s.arriving p with
        | some st =>
          if st = St.resend then reply s st else reply (s.countInvalid.abortReduce x e st) st
        | none =>
          if bitOf p.btag 7 then reply (s.abortReduce x e St.poisoned) St.poisoned
          else s.onAccess p (accsOf p.handle p.offset 4096 true) (fun s =>
            let s1 := s.storeBlk p.handle (p.offset / 4096) p.word p.body
            let e1 := { e with heard := s.now, arrived := if e.arrived.contains i then e.arrived else e.arrived ++ [i] }
            reply ((s1.setReduce e1).reduceGo e.desc) St.ok)) (s, none)

/-- WRITE: plain bytes, a stored block, a block of a publish or of a REDUCE.
(DEDUCED, assumption 57.) -/
def State.performWrite (s : State) (p : Packet) : Answer :=
  if p.flag 3 then s.landReduce p
  else if p.flag 4 then
    (match s.reach (some p.gpid) p.handle 0 0 .publish true (s.arrivalOf p) with
     | some st => reply s st
     | none => s.landPublish p)
  else
    let n := if p.flag 1 then 4096 else p.body.length
    match s.reach (some p.gpid) p.handle p.offset n .data true (s.arrivalOf p) with
    | some st => reply s st
    | none =>
      if p.flag 1 && decide (p.offset % 4096 ≠ 0) then reply s St.malformed
      else
        let s := if p.flag 1 then s.nameArriving (pktWho p) p else s
        s.onPlain p (accsOf p.handle p.offset n true) (if p.flag 1 then [] else (Slot.ext p.handle p.offset).partials n)
          (fun s => if p.flag 1 then s.landStored p else s.landPlain p)

/-! ## GATE (R268) -/

/-- GATE_OPEN from another module, on a gate of the requester's party: ADD, or a remote ARM of R265. -/
def State.performGate (s : State) (p : Packet) : Answer :=
  let g : BitVec 8 := BitVec.ofNat 8 p.arg
  let v : Word := BitVec.ofNat 32 (p.arg / 2 ^ 32)
  match s.pktParty p with
  | none => reply s St.accessDenied
  | some q =>
    if !(s.partyHolds (some q) g) then reply s St.accessDenied
    else if bitOf p.arg 8 then reply (s.setGate g { s.gate g with arms := (s.gate g).arms ++ [v] }) St.ok
    else reply (s.addGate g v) St.ok

/-! ## PUBLISH and VERSION of peers (R307, R308, R339) -/

/-- A status whose ARG [63:32] carries a version. -/
def saysVersion (s : State) (st : Status) (low : Nat) (v : Word) : Answer :=
  (s, some ({ ptype := 0, status := st, arg := low + 2 ^ 32 * v.toNat }, []))

/-- BEGIN takes a slot for the SRC and GPID; COMMIT ends the publish of that slot, and is answered at the end of the
count.
(DEDUCED, assumption 56.) -/
def State.performPublish (s : State) (p : Packet) : Answer :=
  match s.reach (some p.gpid) p.handle 0 0 .publish true (s.arrivalOf p), s.extent p.handle with
  | some st, _ => reply s st
  | none, none => reply s St.accessDenied
  | none, some e =>
    if bitOf p.arg 0 then
      match (List.range e.slots.length).find? (fun k =>
          let v := e.vslot k
          decide (v.state = .writing) && decide (v.writer = some (p.src, p.gpid)) && decide (v.blocks = p.blocks) &&
            decide (v.version = p.version)) with
      | none => reply s St.accessDenied
      | some k => (s.land p.handle (.peer p k), none)
    else match publishStatus e p.version p.blocks with
      | some st => saysVersion (s.countConflict st) st 0 e.current
      | none =>
        if s.wipeHolds e (s.arrivalOf p) then (s, none)
        else match e.pick with
          | none => (s, none)
          | some k =>
            let s1 := s.takeVslot p.handle k (some (p.src, p.gpid))
            (match s1.extent p.handle with
             | some e1 => saysVersion (s1.setExtent p.handle (e1.setVslot k
                 { e1.vslot k with blocks := p.blocks, version := p.version })) St.ok k 0
             | none => (s1, none))

/-- OPEN counts a reader on the version that R308 delivers; CLOSE drops it. -/
def State.performVersion (s : State) (p : Packet) : Answer :=
  match s.reach (some p.gpid) p.handle 0 0 .fetch false (s.arrivalOf p), s.extent p.handle with
  | some st, _ => reply s st
  | none, none => reply s St.accessDenied
  | none, some e =>
    if bitOf p.arg 0 then
      match e.holder p.version with
      | none => reply s St.ok
      | some k =>
        let v := e.vslot k
        match v.remote.find? (fun r => decide (r.1 = p.src)) with
        | none => reply s St.ok
        | some r => reply (s.setExtent p.handle (e.setVslot k
            { v with remote := v.remote.erase r, readers := v.readers - 1 })) St.ok
    else if s.wipeHolds e (s.arrivalOf p) then (s, none)
    else match e.chooseVersion p.version with
      | none => saysVersion s St.ok 0 0
      | some (k, ver) =>
        let v := e.vslot k
        saysVersion (s.setExtent p.handle (e.setVslot k
          { v with remote := v.remote ++ [(p.src, s.now)], readers := v.readers + 1 })) St.ok v.blocks ver

/-! ## Collectives (R345, R349, R350) -/

/-- RED_READY of the successor: matched, or kept until its REDUCE is accepted. -/
def State.performReady (s : State) (p : Packet) : Answer :=
  let g := s.group p.group
  if !(s.groupOk p) || decide (p.src ≠ (g.did g.next).toNat) then reply s St.accessDenied
  else if p.body.length ≠ 24 then reply s St.malformed
  else s.matchReduce p
    (fun e =>
      let heard := if p.src = (g.did g.prev).toNat then s.now else e.heard
      reply ((s.setReduce { e with ready := some p.body, heard := heard }).reduceGo e.desc) St.ok)
    (s.setGroup p.group { g with ready := if g.ready.any (fun r => decide (r.1 = p.index)) then g.ready
                                            else g.ready ++ [(p.index, p)] }, none)

/-- RED_COUNTS of another member: added once to HCTX. -/
def State.performCounts (s : State) (p : Packet) : Answer :=
  let g := s.group p.group
  match g.others.find? (fun r => decide ((g.did r).toNat = p.src)) with
  | none => reply s St.accessDenied
  | some r =>
    if !(s.groupOk p) then reply s St.accessDenied
    else if p.body.length ≠ 1536 then reply s St.malformed
    else s.matchReduce p (fun e =>
      match s.desc e.desc with
      | none => reply s St.ok
      | some x =>
        if x.phase = .ended ∨ e.counted.contains r then reply s St.ok
        else
          let s1 := s.countAll x.redHctx.toNat x.go x.party (bodyCounts p.body)
          reply ((s1.setReduce { e with counted := e.counted ++ [r] }).reduceGo e.desc) St.ok) (s, none)

/-- RED_ABORT: the REDUCE completes with the status that it carries. -/
def State.performAbort (s : State) (p : Packet) : Answer :=
  let g := s.group p.group
  if !(s.groupOk p) || !(g.others.any (fun r => decide ((g.did r).toNat = p.src))) then reply s St.accessDenied
  else s.matchReduce p (fun e =>
    match s.desc e.desc with
    | none => reply s St.ok
    | some x =>
      if x.phase = .ended then reply s St.ok else reply (s.endReduce e.desc (BitVec.ofNat 16 (p.arg / 2 ^ 48))) St.ok) (s, none)

/-! ## Serving (R339 to R341) -/

/-- Perform a request by its type. -/
def State.perform (s : State) (p : Packet) : Answer :=
  if p.ptype = pRead then s.performRead p
  else if p.ptype = pWrite then s.performWrite p
  else if p.ptype = pGate then s.performGate p
  else if p.ptype = pPublish then s.performPublish p
  else if p.ptype = pVersion then s.performVersion p
  else if p.ptype = pRedReady then s.performReady p
  else if p.ptype = pRedCounts then s.performCounts p
  else s.performAbort p

/-- The request is one still being performed. -/
def State.isServing (s : State) (p : Packet) : Bool := s.fab.serving.any (fun q => p.same q.pkt)

/-- Send a HOLD for a request.
(DESIGN CHOICE, assumption 54.) -/
def State.sendHold (s : State) (p : Packet) : State :=
  let src := match s.fab.did with | some x => x.toNat | none => 0
  s.transmit 1 (mkPacket { ptype := pHold, cls := p.field 8 1, gpid := p.gpid } src p.src s.fab.life.toNat p.txid [])

/-- Keep a request held; `hold` sends a HOLD now.
(DESIGN CHOICE, assumption 54.) -/
def State.keepServing (s : State) (p : Packet) (hold : Bool) : State :=
  let s1 := if s.isServing p then s else { s with fab := { s.fab with serving := s.fab.serving ++ [⟨p, s.now, s.now⟩] } }
  if hold then
    State.sendHold { s1 with fab := { s1.fab with serving := s1.fab.serving.map (fun (q : Serving) =>
      if p.same q.pkt then { q with since := s.now } else q) } } p
  else s1

/-- A request is answered: its charge at the port (R274, R276), its deduplication entry (R341). -/
def State.doneServing (s : State) (p : Packet) (h : ReqHead) (body : Bytes) : State :=
  let src := match s.fab.did with | some x => x.toNat | none => 0
  let r := mkPacket { h with ptype := p.ptype + 128, cls := p.field 8 1, gpid := p.gpid } src p.src s.fab.life.toNat p.txid body
  let e : DedupEnt := { src := p.src, txid := p.txid, resp := some r, sent := s.now }
  let s1 := { s with fab := { s.fab with
    serving := s.fab.serving.filter (fun q => !(p.same q.pkt))
    dedup := if p.flag 0 then s.fab.dedup ++ [e] else s.fab.dedup } }
  let s2 := match s.bestPort p.src 1 with
    | some k => s1.charge (80 + k) (BitVec.ofNat 6 (p.field 8 1)) (s.pktParty p) 1
    | none => s1
  let s3 := if h.status = St.revoked then { s2 with ten := { s2.ten with revokedReqs := s2.ten.revokedReqs + 1 } } else s2
  (s3.dropNamed (pktWho p)).transmit 1 r

/-- A publish that landed commits (R307). -/
def takeLanded (h : Word) (s : State) (l : Landed) : State :=
  match l with
  | .desc d => (match s.desc d with
    | some x => if x.phase = .working then s.commitHere d x h else s
    | none => s)
  | .peer p k =>
    let r := s.commit p.handle k p.blocks p.version
    r.1.doneServing p { ptype := 0, status := if r.2.2 then St.ok else St.versionConflict, arg := 2 ^ 32 * r.2.1.toNat } []

/-- The channel of a landed publish, and those in ascending order of it. -/
def State.landedChan (s : State) (l : Landed) : Nat :=
  match l with | .desc d => (s.desc d).elim 0 Desc.chan | .peer _ _ => 0
def State.landedOrder (s : State) (l : List Landed) : List Landed :=
  let own := fun (x : Landed) => match x with | .desc _ => true | .peer _ _ => false
  sortBy s.landedChan (l.filter own) ++ l.filter (fun x => !(own x))

/-- Channel and GO of the descriptors among landed publishes. -/
def State.landedMeet (s : State) (l : List Landed) : List (Nat × Nat) :=
  l.filterMap (fun x => match x with | .desc d => (s.desc d).map (fun y => (y.chan, y.go)) | .peer _ _ => none)

/-- The end of a count: each region takes its commits, by channel, then peers' in arrival order (R307). -/
def State.takeCommits (s : State) : State :=
  (s.ten.extents.filter (fun e => !e.2.landed.isEmpty)).foldl (fun (st : State) e =>
    let h : Word := BitVec.ofNat 32 e.1
    let l := st.landedOrder e.2.landed
    l.foldl (takeLanded h) ((st.setExtent h { e.2 with landed := [] }).jrnMeet 4 (st.landedMeet l))) s

/-- Try to perform a request; one that cannot be performed yet is held, and one that is still being performed is answered
with HOLD (R341). -/
def State.tryServe (s : State) (p : Packet) : State :=
  if s.isServing p then s.keepServing p true
  else if !s.active then s.keepServing p false
  else if p.flag 0 && decide (65536 ≤ s.fab.dedup.length) then s.keepServing p (!(s.isServing p))
  else match s.perform p with
    | (s1, some a) => s1.doneServing p a.1 a.2
    | (s1, none) => s1.keepServing p (s.isServing p)

/-- A packet for this module arrives on a port and is consumed; one that is not well formed is discarded and counted
against the port's partner (R326). -/
def State.received (s : State) (port : Nat) (p : Packet) (f : State → State) : State :=
  let s1 := s.arrives port (fun q => decide (q = p))
  if !((s.fport port).sealed) then s
  else if !p.ok then s1.violation port
  else if s.fab.did ≠ some (BitVec.ofNat 12 p.dst) then s
  else f s1

/-- A request of a type. One that its deduplication entry knows is answered from it. -/
def requestIn (ptype : Nat) (p : Packet) (s : State) : State :=
  if p.ptype ≠ ptype then s
  else match s.fab.dedup.find? (fun e => p.flag 0 && decide (e.src = p.src) && decide (e.txid = p.txid)) with
    | some e => (match e.resp with
      | some r =>
        let seen := s.fab.dedup.map (fun (y : DedupEnt) => if y = e then { y with sent := s.now } else y)
        State.transmit { s with fab := { s.fab with dedup := seen } } 1 r
      | none => s)
    | none => s.tryServe p

def execPktRead (pkt : PktIn) (s : State) : Outcome := .next (s.received pkt.port pkt.pkt (requestIn pRead pkt.pkt))
def execPktWrite (pkt : PktIn) (s : State) : Outcome := .next (s.received pkt.port pkt.pkt (requestIn pWrite pkt.pkt))
def execPktGate (pkt : PktIn) (s : State) : Outcome := .next (s.received pkt.port pkt.pkt (requestIn pGate pkt.pkt))
def execPktPublish (pkt : PktIn) (s : State) : Outcome := .next (s.received pkt.port pkt.pkt (requestIn pPublish pkt.pkt))
def execPktVersion (pkt : PktIn) (s : State) : Outcome := .next (s.received pkt.port pkt.pkt (requestIn pVersion pkt.pkt))
def execPktRedReady (pkt : PktIn) (s : State) : Outcome := .next (s.received pkt.port pkt.pkt (requestIn pRedReady pkt.pkt))
def execPktRedCounts (pkt : PktIn) (s : State) : Outcome := .next (s.received pkt.port pkt.pkt (requestIn pRedCounts pkt.pkt))
def execPktRedAbort (pkt : PktIn) (s : State) : Outcome := .next (s.received pkt.port pkt.pkt (requestIn pRedAbort pkt.pkt))

/-- Requests held are tried again, in order of arrival; without a HOLD. A module without a DID answers none (R328). -/
def State.serveHeld (s : State) : State :=
  if !s.active || s.fab.did.isNone then s
  else s.fab.serving.foldl (fun (st : State) q =>
    if !(st.isServing q.pkt) || (q.pkt.flag 0 && decide (65536 ≤ st.fab.dedup.length)) then st
    else match st.perform q.pkt with
      | (s1, some a) => s1.doneServing q.pkt a.1 a.2
      | (s1, none) => s1) s

/-- A request held for 1,250 counts since it arrived or since its last HOLD: a HOLD is sent. -/
def execHoldTimer (src : Nat) (txid : Word) (s : State) : Outcome :=
  .next (
    match s.fab.serving.find? (fun q => decide (q.pkt.src = src) && decide (q.pkt.txid = txid)) with
    | none => s
    | some q => if s.now < q.since + 1250 then s else s.keepServing q.pkt true)

/-- An entry frees 1,100,000 counts after its response was sent. -/
def execDedupExpiry (src : Nat) (txid : Word) (s : State) : Outcome :=
  .next (
    let left := s.fab.dedup.filter (fun e =>
      !(decide (e.src = src) && decide (e.txid = txid) && decide (e.sent + 1100000 ≤ s.now)))
    { s with fab := { s.fab with dedup := left } })

/-- A reader from another module that has not read for 1,100,000 counts is dropped (R339). -/
def execReaderTimeout (handle : Word) (vslot src : Nat) (s : State) : Outcome :=
  .next (
    match s.extent handle with
    | none => s
    | some e =>
      let v := e.vslot vslot
      match v.remote.find? (fun r => decide (r.1 = src) && decide (r.2 + 1100000 ≤ s.now)) with
      | none => s
      | some r => s.setExtent handle (e.setVslot vslot { v with remote := v.remote.erase r, readers := v.readers - 1 }))

end Sys2Proof.Machine
end

