-- ==== Sys2Proof/Machine/Responses.lean ====
section
/-! DEFINITION. Fabric responses at their requester: delivery, HOLD, resending, PEER_UNREACHABLE; collective groups
(R268, R307, R308, R340, R342, R350, R351). -/

namespace Sys2Proof.Machine

/-! ## Progress of a descriptor with requests outstanding (R239) -/

/-- Unit `i` failed with a status: what counts as done ends at the first such unit. -/
def Desc.failAt (x : Desc) (i : Nat) (st : Status) : Desc :=
  if x.stop.isSome ∧ x.done ≤ i then x
  else { x with done := min x.done i, stop := some st, bad := some (min (x.bad.getD i) i) }

/-- Unit `i` was poisoned: noted, the others go on (R90). -/
def Desc.poisonAt (x : Desc) (i : Nat) : Desc :=
  { x with poisoned := true, bad := some (min (x.bad.getD i) i) }

/-- What a status says of unit `i`. -/
def Desc.answered (x : Desc) (i : Nat) (st : Status) : Desc :=
  if st = St.ok then x else if st = St.poisoned then x.poisonAt i else x.failAt i st

/-- The TXID is no longer outstanding. -/
def State.dropReq (s : State) (txid : Word) (d : Option Nat) : State :=
  let s1 := s.closeReq txid.toNat
  match d with
  | some k => s1.modDesc k (fun y => { y with peers := y.peers.filter (fun t => decide (t ≠ txid)) })
  | none => s1

/-- A descriptor whose last request is answered ends with its progress. -/
def State.endIfAnswered (s : State) (d : Nat) : State :=
  match s.desc d with
  | none => s
  | some x =>
    if x.phase ≠ .working ∨ !x.peers.isEmpty then s
    else s.endDesc d x.prog.status (BitVec.ofNat 64 x.done)
      (if x.stop = some St.translationFault then x.refused.getD 0 else x.prog.d1)

/-! ## Delivering what a READ brings -/

/-- Plain bytes that arrived for unit offset `at_` of a destination; `unit` bytes are one unit of progress. -/
def State.deliverPlain (s : State) (d : Nat) (x : Desc) (dst : Slot) (at_ unit : Nat) (b : Bytes) : State :=
  if s.podDenied x dst then s.setDesc d (x.failAt (at_ / unit) St.accessDenied)
  else
    let dest := dst.plus at_
    match dest with
    | .host a _ => if x.cut then s.setDesc d (x.failAt (at_ / unit) x.short) else s.hostWrite x a b
    | _ =>
      let r := s.writePlain dest b
      match r.2.stop, r.2.poisoned with
      | some st, _ => r.1.modDesc d (fun y => y.failAt ((at_ + r.2.bad.getD 0) / unit) st)
      | none, true => r.1.modDesc d (fun y => y.poisonAt ((at_ + r.2.bad.getD 0) / unit))
      | none, false => r.1

/-- A stored block that arrived for block `i` of a destination: imported under R342 and R74, or handed to host
memory with its tag (R73, R233). A poisoned block is written as a poisoned block, and the COPY ends POISONED (R73, R90). -/
def State.deliverStored (s : State) (d : Nat) (x : Desc) (dst : Slot) (len i : Nat) (p : Packet) : State :=
  let bad := bitOf p.btag 7
  let note := fun (st : State) => if bad then st.modDesc d (fun y => y.poisonAt i) else st
  if s.podDenied x dst then s.setDesc d (x.failAt i St.accessDenied)
  else match dst with
    | .host base _ =>
      if x.cut then s.setDesc d (x.failAt i x.short) else
      let tagAt := base + BitVec.ofNat 64 (len + i)
      let s1 := if bad then s else s.hostWrite x (base + BitVec.ofNat 64 (4096 * i)) p.body
      note (s1.hostWrite x tagAt (leBytes 1 p.btag))
    | _ =>
      let owner := s.tableParty x dst
      if (if bad then s.poisonOk p owner else formOk p.btag p.body && s.tableOk p.btag owner p.body) then
        note (s.slotStore (dst.plus (4096 * i)) p.word p.body)
      else s.countInvalid.modDesc d (fun y => y.failAt i St.huskInvalid)

/-- The unit of progress of an answered READ. -/
def PeerReq.unit (r : PeerReq) (x : Desc) : Nat := if x.opcode = 3 then r.index / 4096 else r.index

/-- The answer to a READ of unit `r.index`. Nothing is written once an earlier unit has stopped the work (R75, R342). -/
def State.gotData (s : State) (d : Nat) (x : Desc) (dst : Slot) (r : PeerReq) (p : Packet) : State :=
  let stored := r.pkt.flag 1
  if x.stop.isSome then s
  else if p.status = St.ok ∨ (p.status = St.poisoned ∧ stored ∧ bitOf p.btag 7) then
    if stored then s.deliverStored d x dst (x.field 56 8) r.index p
    else s.deliverPlain d x dst
      (if x.opcode = 0x19 then 4096 * r.index else r.index) (if x.opcode = 1 then 1 else 4096) p.body
  else if p.status = St.poisoned then s.modDesc d (fun y => y.poisonAt (r.unit x))
  else s.modDesc d (fun y => y.failAt (r.unit x) p.status)

/-! ## Answers by opcode -/

/-- COPY and DECODE. -/
def State.copyAnswer (s : State) (d : Nat) (x : Desc) (r : PeerReq) (p : Packet) : State :=
  if r.pkt.ptype = pRead then
    match (x.slot 40).map s.resolve with
    | some dst => (s.gotData d x dst r p).endIfAnswered d
    | none => s
  else (s.modDesc d (fun y => y.answered r.index p.status)).endIfAnswered d

/-- PUBLISH at a peer: the answers to BEGIN, to its blocks, to COMMIT (R307). -/
def State.publishAnswer (s : State) (d : Nat) (x : Desc) (r : PeerReq) (p : Packet) : State :=
  let v : DWord := BitVec.ofNat 64 (p.arg / 2 ^ 32 * 2 ^ 32)
  if r.pkt.ptype = pWrite then s.modDesc d (fun y => if p.status = St.ok then y else y.failAt r.index p.status)
  else if bitOf r.pkt.arg 0 then
    s.endDesc d p.status (if p.status = St.ok then BitVec.ofNat 64 x.done else 0)
      (if p.status = St.ok ∨ p.status = St.versionConflict then v else allOnes)
  else if p.status = St.ok then s.publishTo d x (p.arg % 256)
  else s.endDesc d p.status 0 (if p.status = St.versionConflict then v else x.noFail)

/-- CLOSE once every block of a fetch has arrived. -/
def State.closeIfRead (s : State) (d : Nat) : State :=
  match s.desc d with
  | some x => if x.aux = 1 ∧ x.peers.isEmpty ∧ x.phase = .working then s.closePeer d x else s
  | none => s

/-- FETCH_VERSION from a peer: the answers to OPEN, to its READs, to CLOSE (R308). -/
def State.fetchAnswer (s : State) (d : Nat) (x : Desc) (r : PeerReq) (p : Packet) : State :=
  if r.pkt.ptype = pRead then
    match (x.slot 40).map s.resolve with
    | some dst => (s.gotData d x dst r p).closeIfRead d
    | none => s
  else if bitOf r.pkt.arg 0 then
    s.endDesc d x.prog.status (BitVec.ofNat 64 x.done)
      (if x.prog.status = St.ok then BitVec.ofNat 64 (x.aux2 * 2 ^ 32) else x.prog.d1)
  else if p.status = St.ok then
    let blocks := p.arg % 2 ^ 32
    ((s.fetchFrom d x (BitVec.ofNat 32 (p.arg / 2 ^ 32)) blocks).modDesc d (fun y =>
      { y with done := min (x.field 60 4) blocks })).closeIfRead d
  else s.endDesc d p.status 0 x.noFail

/-- A REDUCE's RED_READY, WRITE or RED_COUNTS: a refusal ends it (R350). -/
def State.reduceAnswer (s : State) (d : Nat) (x : Desc) (p : Packet) : State :=
  match s.reduceOf d with
  | none => s
  | some e => if p.status = St.ok then s.reduceGo d else s.abortReduce x e p.status

/-- An answer that a descriptor waited for. -/
def State.peerAnswer (s : State) (d : Nat) (x : Desc) (r : PeerReq) (p : Packet) : State :=
  if x.phase = .ended then s
  else match x.opcode with
    | 0x01 => s.copyAnswer d x r p
    | 0x03 => s.copyAnswer d x r p
    | 0x18 => s.publishAnswer d x r p
    | 0x19 => s.fetchAnswer d x r p
    | 0x21 => s.reduceAnswer d x p
    | _ => s.endDesc d p.status 0 0

/-! ## Responses (R340, R342) -/

/-- The block of a WRITE as memory holds it now (R342): of a COPY or PUBLISH from a module source, or of a REDUCE. -/
def State.reread (s : State) (r : PeerReq) : Packet :=
  match r.desc.bind s.desc with
  | none => r.pkt
  | some x =>
    let from_ : Option Slot := match x.opcode with
      | 0x01 => (match (x.slot 24).map s.resolve with | some (.host _ _) => none | o => o.map (fun sl => sl.plus (4096 * r.index)))
      | 0x21 =>
        let i := r.index % x.redBlocks
        let g := s.group x.redGroup
        some (if x.redBlocks ≤ r.index ∧ g.inChunk x g.prev i then x.srcBlk i else x.dstBlk i)
      | _ => none
    match from_, r.pkt.flag 1 with
    | some sl, true =>
      let m := s.slotWord sl
      let b := if mwPoison m then [] else s.slotStored sl
      { (((r.pkt.put 10 2 b.length).put 34 2 (mwId m).toNat).put 36 1 (m.extractLsb' 0 8).toNat) with body := b }
    | _, _ => r.pkt

/-- The request is sent again, without counting as a send. -/
def State.again (s : State) (txid : Word) (r : PeerReq) : State :=
  let r1 := { r with pkt := if r.pkt.ptype = pWrite then s.reread r else r.pkt, last := s.now }
  State.sendReq { s with fab := { s.fab with reqs := Table.set s.fab.reqs txid.toNat r1 } } r1

/-- A stored body whose CRC fails on arrival at the requester. -/
def PeerReq.damaged (r : PeerReq) (p : Packet) : Bool :=
  decide (r.pkt.ptype = pRead) && r.pkt.flag 1 && decide (p.status = St.ok) && !(bitOf p.btag 7) &&
    decide (p.btag ≠ 0x3F) && !(huskCrcOk p.body)

/-- The answer's data go to a destination of the descriptor. -/
def PeerReq.lands (r : PeerReq) (x : Desc) : Bool :=
  decide (r.pkt.ptype = pRead ∧ (x.opcode = 0x01 ∨ x.opcode = 0x03 ∨ x.opcode = 0x19) ∧ x.phase ≠ .ended)

/-- Byte of the destination at which the answer of a READ lands. -/
def PeerReq.at_ (r : PeerReq) (x : Desc) : Nat := if x.opcode = 0x19 ∨ r.pkt.flag 1 then 4096 * r.index else r.index

/-- Where the data of an answer land: the slot and the bytes. -/
def State.landing (s : State) (x : Desc) (r : PeerReq) (p : Packet) : Option (Slot × Nat) :=
  if r.lands x then (x.slot 40).map (fun sl => ((s.resolve sl).plus (r.at_ x), if r.pkt.flag 1 then 4096 else p.body.length))
  else none

/-- The source blocks of a PUBLISH that the answer to its BEGIN lets go (R307). -/
def State.beginning (s : State) (x : Desc) (r : PeerReq) (p : Packet) : Option (Slot × Nat) :=
  if x.opcode = 0x18 ∧ r.pkt.ptype = pPublish ∧ !(bitOf r.pkt.arg 0) ∧ p.status = St.ok then
    (x.slot 24).map (fun sl => (s.resolve sl, 4096 * x.field 60 4))
  else none

/-- The accesses that taking an answer makes (R36, R342). -/
def State.landAccs (s : State) (x : Desc) (r : PeerReq) (p : Packet) : List Acc :=
  (match s.landing x r p with | some (sl, n) => sl.accs n true | none => []) ++
    (match s.beginning x r p with | some (sl, n) => sl.accs n false | none => [])

/-- The blocks whose plain bytes taking an answer needs (R73, R112). -/
def State.landBlocks (s : State) (x : Desc) (r : PeerReq) (p : Packet) : List Slot :=
  (match s.landing x r p with | some (sl, n) => if r.pkt.flag 1 then [] else sl.partials n | none => []) ++
    (match s.beginning x r p with | some (sl, n) => sl.blocks n | none => [])

/-- An earlier READ of the descriptor is outstanding: its answers land in order (R75, R342). -/
def State.earlierRead (s : State) (d : Nat) (r : PeerReq) : Bool :=
  (s.fab.reqs.map (·.2) ++ s.fab.landing.map (·.1)).any (fun q =>
    decide (q.desc = some d ∧ q.pkt.ptype = pRead ∧ q.index < r.index))

/-- The block of a module destination that a READ brings the first part of, where the COPY covers the block (R73). -/
def State.firstPart (s : State) (x : Desc) (r : PeerReq) : Bool :=
  let n := r.pkt.arg % 8192
  r.lands x && !(r.pkt.flag 1) && decide (x.opcode = 1 ∨ x.opcode = 3) && decide (n < 4096) &&
    (match (x.slot 40).map s.resolve with
     | some dst => (dst.isExt || dst.isPod) && decide ((dst.off + r.index) % 4096 = 0) &&
         decide (r.index + 4096 ≤ (if x.opcode = 1 then x.field 56 8 else 4096 * x.field 56 4))
     | none => false)

/-- The READ of the block's other part is outstanding. -/
def State.partOut (s : State) (d : Nat) (r : PeerReq) : Bool :=
  s.fab.reqs.any (fun q => decide (q.2.desc = some d ∧ q.2.pkt.ptype = pRead ∧ q.2.index = r.index + r.pkt.arg % 8192))

/-- The answer with the block's other part, where both brought their bytes. -/
def State.otherPart (s : State) (d : Nat) (x : Desc) (r : PeerReq) (p : Packet) : Option (PeerReq × Packet) :=
  if s.firstPart x r ∧ p.status = St.ok then
    s.fab.landing.find? (fun q =>
      decide (q.1.desc = some d ∧ q.1.pkt.ptype = pRead ∧ q.1.index = r.index + r.pkt.arg % 8192 ∧ q.2.status = St.ok))
  else none

/-- An answer is taken, or waits: for an earlier one, for the other part of its block, for the tract it goes to, for
the banks. It is then held.
(DESIGN CHOICE, assumption 58.) -/
def State.takeAnswer (s : State) (r : PeerReq) (p : Packet) : State :=
  match r.desc with
  | none => s
  | some d =>
    match s.desc d with
    | none => s
    | some x =>
      let w : Who := .desc x.go
      let hold := fun (st : State) => { st with fab := { st.fab with landing := st.fab.landing ++ [(r, p)] } }
      let other := s.otherPart d x r p
      let p' : Packet := match other with | some q => { p with body := p.body ++ q.2.body } | none => p
      let l := s.landAccs x r p'
      let b := s.landBlocks x r p'
      if r.lands x && (s.earlierRead d r || (s.firstPart x r && s.partOut d r)) then hold s
      else if !(s.granting srcMovers w l) then hold (s.waiting srcMovers w l)
      else if !(s.plainReady w b) then hold (s.askPlains w b)
      else
        let s0 := match other with
          | some q => State.dropReq { s with fab := { s.fab with landing := s.fab.landing.erase q } } q.2.txid r.desc
          | none => s
        let s1 := ((s0.granted srcMovers w l).dropReq p.txid r.desc).taking w
        (match s1.desc d with | some y => s1.peerAnswer d y r p' | none => s1).taken w b

/-- Answers that wait are tried again. -/
def State.landHeld (s : State) : State :=
  (sortBy (fun q => q.1.index) s.fab.landing).foldl (fun (st : State) q =>
    if st.fab.landing.contains q then
      State.takeAnswer { st with fab := { st.fab with landing := st.fab.landing.erase q } } q.1 q.2
    else st) s

/-- A response: discarded where its TXID is not outstanding; otherwise its request is done. -/
def responseIn (pkt : Packet) (s : State) : State :=
  match Table.find s.fab.reqs pkt.txid.toNat with
  | none => s
  | some r =>
    if pkt.ptype ≠ r.pkt.ptype + 128 then s
    else if pkt.status = St.resend || r.damaged pkt then s.again pkt.txid r
    else
      let s1 := s.closeReq pkt.txid.toNat
      let s2 := match r.desc.bind s1.desc with
        | some x => if r.lands x && r.pkt.flag 1 then s1.nameArriving (.desc x.go) pkt else s1
        | none => s1
      if r.desc.isNone then s2.spillAnswer pkt.txid pkt.status else (s2.takeAnswer r pkt).landHeld

def execPktResponse (pkt : PktIn) (s : State) : Outcome := .next (s.received pkt.port pkt.pkt (responseIn pkt.pkt))

/-- A HOLD restarts the wait of its request; of a REDUCE's predecessor it counts as heard (R350). -/
def holdIn (pkt : Packet) (s : State) : State :=
  if pkt.ptype ≠ pHold then s
  else match Table.find s.fab.reqs pkt.txid.toNat with
    | none => s
    | some r =>
      let s1 := { s with fab := { s.fab with reqs := Table.set s.fab.reqs pkt.txid.toNat { r with last := s.now } } }
      match r.desc.bind s.reduceOf with
      | some e =>
        if pkt.src = ((s.group e.group).did (s.group e.group).prev).toNat then s1.setReduce { e with heard := s.now } else s1
      | none => s1

def execPktHold (pkt : PktIn) (s : State) : Outcome := .next (s.received pkt.port pkt.pkt (holdIn pkt.pkt))

/-! ## Packets come whole from flits (R318, R333) -/

/-- What the module does with a packet in a port's buffer: a MGMT packet, one to pass on, or one for this module. -/
def State.takePacket (s : State) (port vc : Nat) (r : RxPkt) : State :=
  let p := r.pkt
  if !((s.fport port).rxVc vc).pkts.contains r then s
  else if vc = 3 then
    let s1 := s.arrives port (fun q => decide (q = p))
    if p.ptype = pLsa then lsaIn port p.body s1 else if p.ptype = pDidAssign then didAssignIn port p.body s1 else s1
  else if s.fab.did ≠ some (BitVec.ofNat 12 p.dst) then s.passOn port vc p (s.now - r.at_)
  else s.received port p (fun s =>
    if p.ptype = pHold then holdIn p s
    else if p.ptype < 128 then requestIn p.ptype p s
    else responseIn p s)

/-- Every packet in the buffers, by port and VC, in order of arrival. -/
def State.takePackets (s : State) : State :=
  s.fab.ports.foldl (fun (st : State) e => (List.range 4).foldl (fun (su : State) v =>
    ((e.2.rxVc v).pkts).foldl (fun (sv : State) r => sv.takePacket e.1 v r) su) st) s

/-! ## Transit buffers given back (R224) -/

/-- READs and WRITEs of a descriptor whose bytes are still on their way. -/
def State.dataOut (s : State) (d : Nat) : Nat :=
  ((s.fab.reqs.map (·.2) ++ s.fab.landing.map (·.1)).filter (fun q =>
    decide (q.desc = some d ∧ (q.pkt.ptype = pRead ∨ q.pkt.ptype = pWrite)))).length

/-- The buffers that a descriptor still needs: one for four blocks not yet at their destination, none once its
parameter block has been read (R223, R224). -/
def State.bufsNeeded (s : State) (d : Nat) (x : Desc) : Nat :=
  if x.phase = .ended then 0
  else if x.opcode = 0x20 then (if x.decided || (s.program d).isSome then 0 else x.bufs)
  else if x.phase ≠ .working then (if 0x40 ≤ x.opcode ∧ x.aux = 1 then 0 else x.bufs)
  else if x.opcode = 0x02 then (x.jobs + 3) / 4
  else if x.opcode = 0x03 ∧ x.peers.isEmpty then (x.field 56 4 - x.done + 3) / 4
  else if (x.opcode = 0x18 ∨ x.opcode = 0x19) ∧ x.aux = 0 then x.bufs
  else (s.dataOut d + 3) / 4

def execXbufRelease (ch : BitVec 10) (s : State) : Outcome :=
  .next (
    match s.chan.descs.find? (fun e => decide (e.2.chan = ch.toNat) && decide (s.bufsNeeded e.1 e.2 < e.2.bufs)) with
    | some (d, x) => (s.giveBack ch.toNat 1).setDesc d { x with bufs := x.bufs - 1 }
    | none => s)

/-! ## Recovery (R340) -/

/-- A request ends PEER_UNREACHABLE. -/
def State.unreachable (s : State) (txid : Word) (r : PeerReq) : State :=
  let s1 := s.dropReq txid r.desc
  let s2 := { s1 with fab := { s1.fab with unreach := s1.fab.unreach + 1 } }
  match r.desc with
  | none => s2.spillAnswer txid St.peerUnreachable
  | some d =>
    match s2.desc d with
    | none => s2
    | some x => s2.peerAnswer d x r (mkPacket { ptype := r.pkt.ptype + 128, status := St.peerUnreachable } 0 0 0 txid [])

/-- E2E_WAIT counts without an answer: the request is sent again, or ends after E2E_TRIES sends. -/
def execE2eResend (txid : Word) (s : State) : Outcome :=
  .next (
    match Table.find s.fab.reqs txid.toNat with
    | none => s
    | some r =>
      if r.sends = 0 ∨ s.now < r.last + s.fab.e2eWait.toNat then s
      else if r.sends < s.fab.tries.toNat then
        State.sendReq { s with fab := { s.fab with
          reqs := Table.set s.fab.reqs txid.toNat { r with sends := r.sends + 1, last := s.now }
          resends := s.fab.resends + 1 } } r
      else s.unreachable txid r)

end Sys2Proof.Machine
end

