-- ==== Sys2Proof/Machine/Stream.lean ====
section
/-! DEFINITION. Streams and block requests of a core: STRM and BLK (R149 to R155). -/

namespace Sys2Proof.Machine

/-! ## Streams (R149 to R152) -/

/-- The checks of R126 for a run of whole blocks: kind, alignment of offset and base, range (R150, R153). -/
def State.checkRun (s : State) (c : Nat) (a : DWord) (count : Nat) (kinds : List (BitVec 2)) :
    Except (BitVec 8) Segment :=
  let g := s.segOf c (segNum a)
  if !(kinds.contains g.kind) then .error Fc.segKind
  else if segOff a % 4096 ≠ 0 ∨ g.base.toNat % 4096 ≠ 0 then .error Fc.misaligned
  else if (a.extractLsb' 48 12 : BitVec 12) ≠ 0 ∨ g.limit.toNat < segOff a + count * 4096 then .error Fc.bounds
  else .ok g

/-- No operation in the matrix unit reads the stream (R150). -/
def Core.streamIdle (x : Core) : Bool := !(x.mu.any (·.sb))

/-- The stream ends: its queued blocks and the unread bytes of the operand buffer are discarded. -/
def State.closeStream (s : State) (c : Nat) : State :=
  let s1 := s.dropCoreBlks c
  s1.setCore c { s1.core c with stream := none, obuf := [], taken := 0 }

/-- A stream opens over `n` blocks at pod-store address `k` and queues its first blocks (R102, R150). -/
def State.openStream (s : State) (c k n : Nat) : State :=
  let t : Stream := { next := k, blocks := n, left := 4096 * n, pos := 0 }
  State.feedStream 2 c (s.setCore c { s.core c with stream := some t })

def execSopen (c : Nat) (ra rb : BitVec 5) (s : State) : Outcome :=
  .next (s.issue c (fun x =>
    let a := x.sreg ra
    let n := (x.sreg rb).toNat
    if n = 0 ∨ 2 ^ 32 ≤ n then s.fault c Fc.streamState 0
    else match s.checkRun c a n localKinds with
      | .error e => s.fault c e a
      | .ok g =>
        if !x.streamIdle then s
        else
          let s1 := s.closeStream c
          (s1.setCore c (s1.core c).retire).openStream c (localKey c g (segOff a)) n))

def execSclose (c : Nat) (s : State) : Outcome :=
  .next (s.issue c (fun x =>
    if !x.streamIdle then s
    else
      let s1 := s.closeStream c
      s1.setCore c (s1.core c).retire))

/-- SPOP takes the next 64 bytes; it waits behind MMAs that have yet to take theirs, and for bytes not
yet readable (R111, R151). -/
def execSpop (c : Nat) (vd : BitVec 5) (s : State) : Outcome :=
  .next (s.issue c (fun x =>
    if !(x.streamOk 64) then s.fault c Fc.streamState 0
    else if x.mu.any (fun o => o.sb && !o.started) then s
    else if x.readable 64 then
      let r := (x.consume 64).take 64
      State.feedStream 2 c (s.setCore c (r.2.setV vd (bytesBv 512 r.1)).retire)
    else match s.streamStop c with
      | some code => s.fault c code 0
      | none => s.setCore c { x with wait := .stream }))

/-- Bytes the stream still has, 0 with none open (R149, R158). -/
def Core.streamLeft (x : Core) : DWord :=
  match x.stream with | some t => BitVec.ofNat 64 t.left | none => 0

def execSstat (c : Nat) (rd : BitVec 5) (s : State) : Outcome :=
  .next (s.issue c (fun x => s.setCore c (x.setS rd x.streamLeft).retire))

/-! ## Block requests (R153, R154) -/

/-- The control value's fields. -/
def ctlCount (v : DWord) : Nat := (v.extractLsb' 0 16).toNat
def ctlTable (v : DWord) : BitVec 16 := v.extractLsb' 16 16
def ctlElem (v : DWord) : BitVec 4 := v.extractLsb' 32 4
def ctlCtx (v : DWord) : Option (BitVec 8) := if v.getLsbD 36 then some (v.extractLsb' 40 8) else none

/-- The control value is well formed for the function.
(DEDUCED, assumption 65.) -/
def ctlOk (kind : BlkKind) (v : DWord) : Bool :=
  decide (1 ≤ ctlCount v ∧ ctlCount v ≤ 1024) &&
    (if kind = .pute then decide (v &&& ~~~(0x0000FF1FFFFFFFFF : DWord) = 0) && (elemShape (ctlElem v).toNat).isSome
     else decide (v &&& ~~~(0xFFFF : DWord) = 0))

/-- BPUTE's table and context check. -/
def State.puteOk (s : State) (p : BitVec 8) (v : DWord) : Bool :=
  (match s.table (ctlTable v) with | some t => t.loadRef && decide (t.owner = p) | none => false) &&
    (match ctlCtx v with | some n => s.hctxOk n.toNat p | none => true)

/-- A block request's checks, in R154's order, the reach of the extent (REVOKED) last: the local key, the segment of the
extent, or the fault and the address it reports.
(DEDUCED, assumption 65.) -/
def State.checkBlkReq (s : State) (c : Nat) (kind : BlkKind) (p : BitVec 8) (la ra v : DWord) :
    Except (BitVec 8 × DWord) (Nat × Segment) :=
  if !(ctlOk kind v) then .error (Fc.illegal, 0)
  else match s.checkRun c la (ctlCount v) localKinds with
    | .error e => .error (e, la)
    | .ok g =>
      match s.checkRun c ra (ctlCount v) [kExt] with
      | .error e => .error (e, ra)
      | .ok r =>
        if kind = .pute && !(s.puteOk p v) then .error (Fc.table, 0)
        else if (s.reach (s.gpid p) r.handle (r.base.toNat + segOff ra) (4096 * ctlCount v) .data false s.now).isSome
        then .error (Fc.revoked, ra)
        else .ok (localKey c g (segOff la), r)

/-- The blocks of a BPUTE that are encoded, with the fault met: poisoned ones are passed over, none is
stored from the first husk on (R154). A position that is poisoned and held a husk is a poisoned one.
(DESIGN CHOICE, assumption 132.) -/
def State.puteScan (s : State) (k : Nat) : Nat → Nat → List (Nat × Bytes) × Option (BitVec 8 × Nat)
  | 0, _ => ([], none)
  | n + 1, i =>
    let w := s.posWord (k + 4096 * i)
    if mwPoison w then
      let r := s.puteScan k n (i + 1)
      (r.1, some (Fc.poison, i))
    else if mwTag w ≠ 0x3F then ([], some (Fc.blkForm, i))
    else
      let r := s.puteScan k n (i + 1)
      ((i, s.posBytes (k + 4096 * i)) :: r.1, r.2)

/-- The request of a BLK instruction. -/
def blkReq (kind : BlkKind) (x : Core) (k : Nat) (g : Segment) (ra v : DWord) (left now : Nat) : BlkReq :=
  { kind := kind, addr := k, handle := g.handle, blk := (g.base.toNat + segOff ra) / 4096
    count := ctlCount v, tableId := ctlTable v, left := left, done := false, pc := x.pc, order := x.ord, issued := now }

/-- A request enters the core's list and the instruction retires. -/
def State.addBlk (s : State) (c : Nat) (r : BlkReq) : State :=
  let x := s.core c
  s.setCore c { x with blks := x.blks ++ [r], ord := x.ord + 1 }.retire

/-- A BGET, BPUT or BPUTE issues (R154, R155). -/
def blkIssue (kind : BlkKind) (c : Nat) (ra rb rc : BitVec 5) (s : State)
    (go : Core → BitVec 8 → Nat → Segment → State) : Outcome :=
  .next (s.issue c (fun x =>
    if 16 ≤ x.blks.length then s
    else match s.coreParty c with
      | none => s
      | some p =>
        match s.checkBlkReq c kind p (x.sreg ra) (x.sreg rb) (x.sreg rc) with
        | .error (e, a) =>
          let s1 := s.fault c e a
          if e = Fc.revoked then
            { s1 with ten := { s1.ten with revokedReqs := s1.ten.revokedReqs + 1 } } else s1
        | .ok (k, g) => go x p k g))

def execBget (c : Nat) (ra rb rc : BitVec 5) (s : State) : Outcome :=
  blkIssue .get c ra rb rc s (fun x _ k g =>
    s.addBlk c (blkReq .get x k g (x.sreg rb) (x.sreg rc) 0 s.now))

def execBput (c : Nat) (ra rb rc : BitVec 5) (s : State) : Outcome :=
  blkIssue .put c ra rb rc s (fun x _ k g =>
    s.addBlk c (blkReq .put x k g (x.sreg rb) (x.sreg rc) 0 s.now))

/-- BPUTE's raw source blocks go to the encoder engines; it names its table and context as an ENCODE
does. -/
def execBpute (c : Nat) (ra rb rc : BitVec 5) (s : State) : Outcome :=
  blkIssue .pute c ra rb rc s (fun x p k g =>
    let v := x.sreg rc
    let sc := s.puteScan k (ctlCount v) 0
    let r := blkReq .pute x k g (x.sreg rb) v sc.1.length s.now
    let jobs := sc.1.map (fun b =>
      ({ desc := none, core := some c, index := x.ord, bytes := b.2, toPod := false
         dst := extBlkKey g.handle (r.blk + b.1), tableId := ctlTable v, elem := ctlElem v
         hctx := ctlCtx v, order := s.chan.go } : EncJob))
    let s1 := match ctlCtx v with | some n => s.claimHctx n.toNat p | none => s
    let s2 := (s1.addQueued (ctlTable v)).enqueue jobs
    let s3 := s2.addBlk c r
    match sc.2 with
    | none => s3
    | some (e, i) =>
      (s3.setCore c { s3.core c with pc := x.pc, instret := x.instret }).fault c e
        (x.sreg ra + BitVec.ofNat 64 (4096 * i)))

def execBwait (c : Nat) (imm : BitVec 8) (s : State) : Outcome :=
  .next (s.issue c (fun x =>
    if x.blks.length ≤ imm.toNat then s.setCore c x.retire
    else s.setCore c { x with wait := .bwait imm.toNat }))

end Sys2Proof.Machine
end

