-- ==== Sys2Proof/Machine/Sync.lean ====
section
/-! DEFINITION. Synchronization, system instructions, CSRs and instruction fetch (R130, R156 to R158,
R163). -/

namespace Sys2Proof.Machine

/-! ## SYNC (R156, R157) -/

/-- In order, every earlier local access has been performed already (R128). -/
def execSyncFence (c : Nat) (s : State) : Outcome :=
  .next (s.issue c (fun x => s.setCore c x.retire))

/-- A core joins its k-th barrier of the mask; PBAR_END ends it. -/
def execPbar (c : Nat) (mask : BitVec 8) (s : State) : Outcome :=
  .next (s.issue c (fun x =>
    if !(mask.getLsbD (c % 8)) then s.fault c Fc.illegal 0
    else
      let k := Table.get 0 x.pbars mask.toNat + 1
      s.setCore c { x with pbars := Table.put 0 x.pbars mask.toNat k, wait := .pbar mask k }))

/-- Cores of a pod that a mask names. -/
def maskCores (pod : Nat) (mask : BitVec 8) : List Nat :=
  ((List.range 8).filter (fun i => mask.getLsbD i)).map (fun i => 8 * pod + i)

/-- Core `c` waits in a barrier of the mask that every core of the mask has reached. -/
def State.barrierDone (s : State) (pod : Nat) (mask : BitVec 8) (c : Nat) : Bool :=
  match (s.core c).wait with
  | .pbar m k => decide (m = mask) &&
      (maskCores pod mask).all (fun i => decide (k ≤ Table.get 0 (s.core i).pbars mask.toNat))
  | _ => false

def execPbarEnd (pod : Nat) (mask : BitVec 8) (s : State) : Outcome :=
  .next (((maskCores pod mask).filter (s.barrierDone pod mask)).foldl
    (fun (st : State) c => st.setCore c { st.core c with wait := .none }.retire) s)

/-- The program on a core's pod is of the party that holds the gate. -/
def State.holdsGate (s : State) (c : Nat) (g : BitVec 8) : Bool :=
  match (s.gate g).owner, s.coreParty c with
  | some o, some p => decide (o = p)
  | _, _ => false

/-- An instruction that names a gate (R156). -/
def gateOp (c : Nat) (g : BitVec 8) (s : State) (f : Core → State) : Outcome :=
  .next (s.issue c (fun x => if s.holdsGate c g then f x else s.fault c Fc.gateAccess 0))

/-- GCOMP takes effect when the core's earlier block requests are complete. -/
def execGcomp (c : Nat) (gate : BitVec 8) (s : State) : Outcome :=
  gateOp c gate s (fun x =>
    (s.setCore c { x with gwait := x.gwait ++ [(gate, x.ord)] }.retire).fireGcomps c)

/-- GWAITC goes on at once where the count is reached, else the core stalls. -/
def execGwaitc (c : Nat) (ra : BitVec 5) (gate : BitVec 8) (s : State) : Outcome :=
  gateOp c gate s (fun x =>
    let v : Word := (x.sreg ra).setWidth 32
    if s.gateMet gate v then s.setCore c x.retire
    else s.setCore c { x with wait := .gwaitc gate v })

def execGwaitcResume (c : Nat) (s : State) : Outcome :=
  .next (
    let x := s.core c
    match x.wait with
    | .gwaitc g v => if s.gateMet g v then s.setCore c { x with wait := .none }.retire else s
    | _ => s)

def execGcnt (c : Nat) (rd : BitVec 5) (gate : BitVec 8) (s : State) : Outcome :=
  gateOp c gate s (fun x => s.setCore c (x.setS rd ((s.gate gate).c.setWidth 64)).retire)

def execWaitl (c : Nat) (ra : BitVec 5) (s : State) : Outcome :=
  .next (s.issue c (fun x =>
    if (x.sreg ra).toNat ≤ (s.lcntOf (podOf c)).toNat then s.setCore c x.retire
    else s.setCore c { x with wait := .waitl (x.sreg ra) }))

def execWaitlResume (c : Nat) (s : State) : Outcome :=
  .next (
    let x := s.core c
    match x.wait with
    | .waitl v => if v.toNat ≤ (s.lcntOf (podOf c)).toNat then s.setCore c { x with wait := .none }.retire else s
    | _ => s)

def execRdlcnt (c : Nat) (rd : BitVec 5) (s : State) : Outcome :=
  .next (s.issue c (fun x => s.setCore c (x.setS rd (s.lcntOf (podOf c))).retire))

/-! ## SYS (R156, R175) -/

def execNop (c : Nat) (s : State) : Outcome :=
  .next (s.issue c (fun x => s.setCore c x.retire))

/-- HALT stops the core once its block requests are complete. -/
def execHalt (c : Nat) (s : State) : Outcome :=
  .next (s.issue c (fun x =>
    if x.blks.isEmpty then s.setCore c { x with halted := true }.retire
    else s.setCore c { x with wait := .halt }))

def execTrap (c : Nat) (code : BitVec 8) (s : State) : Outcome :=
  .next (s.issue c (fun _ => s.fault c Fc.trap (code.setWidth 64)))

def execRngnext (c : Nat) (rd : BitVec 5) (s : State) : Outcome :=
  .next (s.issue c (fun x =>
    s.setCore c ({ x with rng := rngNext x.rng }.setS rd (rngNext x.rng)).retire))

/-! ## CSRs (R158) -/

/-- A segment CSR: number `n` counts from 0x040, three to a segment. -/
def State.segCsr (s : State) (c n : Nat) : DWord :=
  let g := s.segOf c (n / 3)
  let p : BitVec 8 := (s.coreParty c).getD 0
  match n % 3 with
  | 0 => (g.kind.setWidth 64 : DWord) ||| ((p.setWidth 64 : DWord) <<< 8) |||
      ((if g.kind = kExt then (g.handle.setWidth 64 : DWord) else 0) <<< 32)
  | 1 => g.base.setWidth 64
  | _ => g.limit.setWidth 64

/-- The clock of the count in which CYCLE is read: not before the one it last showed. -/
def State.clockAt (s : State) (x : Core) : Nat :=
  x.phase + (Config.clockPhase s.free).toNat % (clocksPerCount - x.phase)

/-- The value a CSR reads; none for an undefined number. CYCLE is finer than LCNT counts. -/
def State.csr (s : State) (c : Nat) (x : Core) (n : Nat) : Option DWord :=
  match n with
  | 0x000 => some (BitVec.ofNat 64 c)
  | 0x001 => some (BitVec.ofNat 64 (podOf c))
  | 0x002 => some (match s.coreParty c with | some p => p.setWidth 64 | none => 0)
  | 0x003 => some (BitVec.ofNat 64 s.variant.code)
  | 0x010 => some (x.cycle + BitVec.ofNat 64 (s.clockAt x))
  | 0x011 => some x.instret
  | 0x012 => some (s.lcntOf (podOf c))
  | 0x020 => some (x.fflags.setWidth 64)
  | 0x021 => some x.rng
  | 0x030 => some x.streamLeft
  | 0x031 => some (BitVec.ofNat 64 x.blks.length)
  | 0x080 => some x.dMiss
  | 0x081 => some x.dBusy
  | _ => if 0x040 ≤ n ∧ n < 0x070 then some (s.segCsr c (n - 0x040)) else none

/-- An MMA or TRSC in the matrix unit has yet to record its flags (R183). -/
def Core.flagsPending (x : Core) : Bool := x.mu.any (fun o => decide (o.kind ≠ .tzero))

def execCsrr (c : Nat) (rd : BitVec 5) (num : BitVec 16) (s : State) : Outcome :=
  .next (s.issue c (fun x =>
    if num = 0x020 ∧ x.flagsPending then s
    else match s.csr c x num.toNat with
    | some v =>
      if num = 0x010 then s.took.setCore c ({ x with phase := s.clockAt x }.setS rd v).retire
      else s.setCore c (x.setS rd v).retire
    | none => s.fault c Fc.illegal 0))

def execCsrw (c : Nat) (ra : BitVec 5) (num : BitVec 16) (s : State) : Outcome :=
  .next (s.issue c (fun x =>
    if num = 0x020 ∧ x.flagsPending then s
    else if num = 0x020 then s.setCore c { x with fflags := (x.sreg ra).setWidth 5 }.retire
    else if num = 0x021 then s.setCore c { x with rng := x.sreg ra }.retire
    else s.fault c Fc.illegal 0))

/-! ## Fetch (R130, R163) -/

/-- The line of PC takes the place of the least recently used of 64. -/
def execInstructionFetchMiss (c : Nat) (s : State) : Outcome :=
  .next (
    let x := s.core c
    let l := lineOf x.pc
    if x.ready && s.fetchable c && !(x.ibuf.contains l) then
      s.setCore c { x with ibuf := (l :: x.ibuf).take 64 }
    else s)

/-- A fetched word that no instruction has raises ILLEGAL.
(DESIGN CHOICE, assumption 7.) -/
def execUndefinedOpcode (c : Nat) (word : Word) (s : State) : Outcome :=
  .next (
    match decodeCore c word with
    | some _ => s
    | none => s.issue c (fun _ => s.fault c Fc.illegal 0))

end Sys2Proof.Machine
end

