-- ==== Sys2Proof/Machine/Wake.lean ====
section
/-! DEFINITION. The end of a wake and the host requests held for it (R254, R255). -/

namespace Sys2Proof.Machine

/-- Serve one held request. -/
def State.serveAsk (s : State) (a : HostAsk) : State :=
  match a with
  | .write p addr be v => s.barWrite p a (fun s => s.regWrite p addr be v)
  | .scratch p n be v => s.barWrite p a (fun s => s.scratchSet p n be v)
  | .unsupported p => s.hostReq p a (fun s => s.sendUr p)
  | .abort p w => s.hostReq p a (fun s => s.abortAsk p w)
  | .invalidate p page n => s.hostReq p a (fun s => s.invalidateAtc p page n)
  | .window r => s.urZ r

/-- Every held request is served, in order of arrival. -/
def State.serveAsks (s : State) : State :=
  s.host.asks.foldl State.serveAsk { s with host := { s.host with asks := [] } }

/-- The wake is complete: the module is ACTIVE and serves the requests held (R255); after DOZE the pods and stacks
are up again. -/
def execWakeEnd (s : State) : Outcome :=
  .next (
    match s.clk.waking with
    | none => s
    | some t =>
      if s.now < t then s
      else
        let s1 := if s.clk.mstate = .doze then (s.powerPods.selfRefresh false).portsL1 false else s
        ({ s1 with clk := { s1.clk with mstate := .active, waking := none, quietFor := 0, idleFor := 0 } }).retryZ.serveAsks)

end Sys2Proof.Machine
end

