-- ==== Sys2Proof/Machine/Dispatch.lean ====
section
/-! DEFINITION. One arm per command: each calls its meaning, or refuses by name. -/

namespace Sys2Proof.Machine

/-- What a command does to everything but the queue. -/
def exec (i : Instr) (s : State) : Host.Outcome State Fault Refusal :=
  match i with
  | .copyStored d h => Sys2Proof.Machine.execCopyStored d h s
  | .copyPlain d h => Sys2Proof.Machine.execCopyPlain d h s
  | .encode d h => Sys2Proof.Machine.execEncode d h s
  | .decode d => Sys2Proof.Machine.execDecode d s
  | .promote d => Sys2Proof.Machine.execPromote d s
  | .evict d => Sys2Proof.Machine.execEvict d s
  | .pin d => Sys2Proof.Machine.execPin d s
  | .unpin d => Sys2Proof.Machine.execUnpin d s
  | .windowInstall d h => Sys2Proof.Machine.execWindowInstall d h s
  | .windowRelease d => Sys2Proof.Machine.execWindowRelease d s
  | .windowRemove d => Sys2Proof.Machine.execWindowRemove d s
  | .publish d h => Sys2Proof.Machine.execPublish d h s
  | .fetchVersion d => Sys2Proof.Machine.execFetchVersion d s
  | .launch d h => Sys2Proof.Machine.execLaunch d h s
  | .reduceScatter d => Sys2Proof.Machine.execReduceScatter d s
  | .allReduce d => Sys2Proof.Machine.execAllReduce d s
  | .load d h => Sys2Proof.Machine.execLoad d h s
  | .build d => Sys2Proof.Machine.execBuild d s
  | .buildRun d => Sys2Proof.Machine.execBuildRun d s
  | .drop d => Sys2Proof.Machine.execDrop d s
  | .fence d => Sys2Proof.Machine.execFence d s
  | .gateWait d => Sys2Proof.Machine.execGateWait d s
  | .gateOpenAdd d => Sys2Proof.Machine.execGateOpenAdd d s
  | .gateOpenArm d => Sys2Proof.Machine.execGateOpenArm d s
  | .beginNative d => Sys2Proof.Machine.execBeginNative d s
  | .endNative d => Sys2Proof.Machine.execEndNative d s
  | .caps d => Sys2Proof.Machine.execCaps d s
  | .extentCreate d h => Sys2Proof.Machine.execExtentCreate d h s
  | .setOwner d h => Sys2Proof.Machine.execSetOwner d h s
  | .grant d h => Sys2Proof.Machine.execGrant d h s
  | .revokeOwner d h => Sys2Proof.Machine.execRevokeOwner d h s
  | .revokeGrant d h => Sys2Proof.Machine.execRevokeGrant d h s
  | .destroy d h => Sys2Proof.Machine.execDestroy d h s
  | .extentWipe d h => Sys2Proof.Machine.execExtentWipe d h s
  | .bindParty d h => Sys2Proof.Machine.execBindParty d h s
  | .unparty d h => Sys2Proof.Machine.execUnparty d h s
  | .bindChannel d h => Sys2Proof.Machine.execBindChannel d h s
  | .bindGate d h => Sys2Proof.Machine.execBindGate d h s
  | .extentWatch d h => Sys2Proof.Machine.execExtentWatch d h s
  | .doorbellPoll ch => Sys2Proof.Machine.execDoorbellPoll ch s
  | .doorbellInvalidation ch => Sys2Proof.Machine.execDoorbellInvalidation ch s
  | .doorbellReadReturn ch sqTail cqHead => Sys2Proof.Machine.execDoorbellReadReturn ch sqTail cqHead s
  | .descriptorAccept ch desc => Sys2Proof.Machine.execDescriptorAccept ch desc s
  | .descriptorStart d => Sys2Proof.Machine.execDescriptorStart d s
  | .descriptorComplete d => Sys2Proof.Machine.execDescriptorComplete d s
  | .msixHoldoffEnd ch => Sys2Proof.Machine.execMsixHoldoffEnd ch s
  | .xbufGrant ch => Sys2Proof.Machine.execXbufGrant ch s
  | .xbufRelease ch => Sys2Proof.Machine.execXbufRelease ch s
  | .channelEnable ch => Sys2Proof.Machine.execChannelEnable ch s
  | .channelDisable ch => Sys2Proof.Machine.execChannelDisable ch s
  | .channelDrained ch => Sys2Proof.Machine.execChannelDrained ch s
  | .gateCountEnd => Sys2Proof.Machine.execGateCountEnd s
  | .enterIdle => Sys2Proof.Machine.execEnterIdle s
  | .enterDoze => Sys2Proof.Machine.execEnterDoze s
  | .wakeStart sources => Sys2Proof.Machine.execWakeStart sources s
  | .wakeEnd => Sys2Proof.Machine.execWakeEnd s
  | .launchWakeTimer => Sys2Proof.Machine.execLaunchWakeTimer s
  | .wakeAtTimer => Sys2Proof.Machine.execWakeAtTimer s
  | .refSwitch driftPpm => Sys2Proof.Machine.execRefSwitch driftPpm s
  | .programStart => Sys2Proof.Machine.execProgramStart s
  | .quantumExpiry prog => Sys2Proof.Machine.execQuantumExpiry prog s
  | .contextSaveEnd prog => Sys2Proof.Machine.execContextSaveEnd prog s
  | .programRestore => Sys2Proof.Machine.execProgramRestore s
  | .programEnd prog => Sys2Proof.Machine.execProgramEnd prog s
  | .podReset pod => Sys2Proof.Machine.execPodReset pod s
  | .podResetEnd pod passed => Sys2Proof.Machine.execPodResetEnd pod passed s
  | .add c rd ra rb => Sys2Proof.Machine.execAdd c rd ra rb s
  | .sub c rd ra rb => Sys2Proof.Machine.execSub c rd ra rb s
  | .and c rd ra rb => Sys2Proof.Machine.execAnd c rd ra rb s
  | .or c rd ra rb => Sys2Proof.Machine.execOr c rd ra rb s
  | .xor c rd ra rb => Sys2Proof.Machine.execXor c rd ra rb s
  | .sll c rd ra rb => Sys2Proof.Machine.execSll c rd ra rb s
  | .srl c rd ra rb => Sys2Proof.Machine.execSrl c rd ra rb s
  | .sra c rd ra rb => Sys2Proof.Machine.execSra c rd ra rb s
  | .slt c rd ra rb => Sys2Proof.Machine.execSlt c rd ra rb s
  | .sltu c rd ra rb => Sys2Proof.Machine.execSltu c rd ra rb s
  | .min c rd ra rb => Sys2Proof.Machine.execMin c rd ra rb s
  | .max c rd ra rb => Sys2Proof.Machine.execMax c rd ra rb s
  | .minu c rd ra rb => Sys2Proof.Machine.execMinu c rd ra rb s
  | .maxu c rd ra rb => Sys2Proof.Machine.execMaxu c rd ra rb s
  | .mul c rd ra rb => Sys2Proof.Machine.execMul c rd ra rb s
  | .mulh c rd ra rb => Sys2Proof.Machine.execMulh c rd ra rb s
  | .mulhu c rd ra rb => Sys2Proof.Machine.execMulhu c rd ra rb s
  | .divu c rd ra rb => Sys2Proof.Machine.execDivu c rd ra rb s
  | .remu c rd ra rb => Sys2Proof.Machine.execRemu c rd ra rb s
  | .clz c rd ra => Sys2Proof.Machine.execClz c rd ra s
  | .popc c rd ra => Sys2Proof.Machine.execPopc c rd ra s
  | .ctz c rd ra => Sys2Proof.Machine.execCtz c rd ra s
  | .addi c rd ra imm => Sys2Proof.Machine.execAddi c rd ra imm s
  | .andi c rd ra imm => Sys2Proof.Machine.execAndi c rd ra imm s
  | .ori c rd ra imm => Sys2Proof.Machine.execOri c rd ra imm s
  | .xori c rd ra imm => Sys2Proof.Machine.execXori c rd ra imm s
  | .shi c rd ra imm => Sys2Proof.Machine.execShi c rd ra imm s
  | .slti c rd ra imm => Sys2Proof.Machine.execSlti c rd ra imm s
  | .sltiu c rd ra imm => Sys2Proof.Machine.execSltiu c rd ra imm s
  | .movz c rd hw imm => Sys2Proof.Machine.execMovz c rd hw imm s
  | .movk c rd hw imm => Sys2Proof.Machine.execMovk c rd hw imm s
  | .beq c ra rb off => Sys2Proof.Machine.execBeq c ra rb off s
  | .bne c ra rb off => Sys2Proof.Machine.execBne c ra rb off s
  | .blt c ra rb off => Sys2Proof.Machine.execBlt c ra rb off s
  | .bge c ra rb off => Sys2Proof.Machine.execBge c ra rb off s
  | .bltu c ra rb off => Sys2Proof.Machine.execBltu c ra rb off s
  | .bgeu c ra rb off => Sys2Proof.Machine.execBgeu c ra rb off s
  | .jal c off => Sys2Proof.Machine.execJal c off s
  | .jalr c rd ra imm => Sys2Proof.Machine.execJalr c rd ra imm s
  | .ld c rt ra sz disp => Sys2Proof.Machine.execLd c rt ra sz disp s
  | .st c rt ra sz disp => Sys2Proof.Machine.execSt c rt ra sz disp s
  | .vld c rt ra sz disp => Sys2Proof.Machine.execVld c rt ra sz disp s
  | .vst c rt ra sz disp => Sys2Proof.Machine.execVst c rt ra sz disp s
  | .tld c td ra sz disp => Sys2Proof.Machine.execTld c td ra sz disp s
  | .tst c td ra sz disp => Sys2Proof.Machine.execTst c td ra sz disp s
  | .amoadd c rd ra rb => Sys2Proof.Machine.execAmoadd c rd ra rb s
  | .amoswap c rd ra rb => Sys2Proof.Machine.execAmoswap c rd ra rb s
  | .amocas c rd ra rb => Sys2Proof.Machine.execAmocas c rd ra rb s
  | .amoand c rd ra rb => Sys2Proof.Machine.execAmoand c rd ra rb s
  | .amoor c rd ra rb => Sys2Proof.Machine.execAmoor c rd ra rb s
  | .amomax c rd ra rb => Sys2Proof.Machine.execAmomax c rd ra rb s
  | .vadd c vd va vb => Sys2Proof.Machine.execVadd c vd va vb s
  | .vsub c vd va vb => Sys2Proof.Machine.execVsub c vd va vb s
  | .vmul c vd va vb => Sys2Proof.Machine.execVmul c vd va vb s
  | .vmin c vd va vb => Sys2Proof.Machine.execVmin c vd va vb s
  | .vmax c vd va vb => Sys2Proof.Machine.execVmax c vd va vb s
  | .vabs c vd va => Sys2Proof.Machine.execVabs c vd va s
  | .vneg c vd va => Sys2Proof.Machine.execVneg c vd va s
  | .vdiv c vd va vb => Sys2Proof.Machine.execVdiv c vd va vb s
  | .vsqrt c vd va => Sys2Proof.Machine.execVsqrt c vd va s
  | .vrcp c vd va => Sys2Proof.Machine.execVrcp c vd va s
  | .vrsqrt c vd va => Sys2Proof.Machine.execVrsqrt c vd va s
  | .vexp2 c vd va => Sys2Proof.Machine.execVexp2 c vd va s
  | .vlog2 c vd va => Sys2Proof.Machine.execVlog2 c vd va s
  | .vcmpeq c vd va vb => Sys2Proof.Machine.execVcmpeq c vd va vb s
  | .vcmplt c vd va vb => Sys2Proof.Machine.execVcmplt c vd va vb s
  | .vcmple c vd va vb => Sys2Proof.Machine.execVcmple c vd va vb s
  | .vfma c vd va vb vc form => Sys2Proof.Machine.execVfma c vd va vb vc form s
  | .iadd c vd va vb => Sys2Proof.Machine.execIadd c vd va vb s
  | .isub c vd va vb => Sys2Proof.Machine.execIsub c vd va vb s
  | .imul c vd va vb => Sys2Proof.Machine.execImul c vd va vb s
  | .iand c vd va vb => Sys2Proof.Machine.execIand c vd va vb s
  | .ior c vd va vb => Sys2Proof.Machine.execIor c vd va vb s
  | .ixor c vd va vb => Sys2Proof.Machine.execIxor c vd va vb s
  | .isll c vd va vb => Sys2Proof.Machine.execIsll c vd va vb s
  | .isrl c vd va vb => Sys2Proof.Machine.execIsrl c vd va vb s
  | .isra c vd va vb => Sys2Proof.Machine.execIsra c vd va vb s
  | .imin c vd va vb => Sys2Proof.Machine.execImin c vd va vb s
  | .imax c vd va vb => Sys2Proof.Machine.execImax c vd va vb s
  | .icmpeq c vd va vb => Sys2Proof.Machine.execIcmpeq c vd va vb s
  | .icmplt c vd va vb => Sys2Proof.Machine.execIcmplt c vd va vb s
  | .cvtif c vd va => Sys2Proof.Machine.execCvtif c vd va s
  | .cvtfi c vd va => Sys2Proof.Machine.execCvtfi c vd va s
  | .vcvt c vd va vb vc func => Sys2Proof.Machine.execVcvt c vd va vb vc func s
  | .fsum c vd va => Sys2Proof.Machine.execFsum c vd va s
  | .fmax c vd va => Sys2Proof.Machine.execFmax c vd va s
  | .fmin c vd va => Sys2Proof.Machine.execFmin c vd va s
  | .isum c vd va => Sys2Proof.Machine.execIsum c vd va s
  | .vmov c vd va => Sys2Proof.Machine.execVmov c vd va s
  | .vbcast c vd va => Sys2Proof.Machine.execVbcast c vd va s
  | .vext c vd va vb => Sys2Proof.Machine.execVext c vd va vb s
  | .vins c vd va vb => Sys2Proof.Machine.execVins c vd va vb s
  | .vsel c vd va vb vc => Sys2Proof.Machine.execVsel c vd va vb vc s
  | .vshuf c vd va vb => Sys2Proof.Machine.execVshuf c vd va vb s
  | .vzero c vd => Sys2Proof.Machine.execVzero c vd s
  | .mma c td a b vs fmt m sb tb z am => Sys2Proof.Machine.execMma c td a b vs fmt m sb tb z am s
  | .matrixOpStart c => Sys2Proof.Machine.execMatrixOpStart c s
  | .matrixOpEnd c => Sys2Proof.Machine.execMatrixOpEnd c s
  | .tzero c td => Sys2Proof.Machine.execTzero c td s
  | .trdr c td v row => Sys2Proof.Machine.execTrdr c td v row s
  | .twrr c td v row => Sys2Proof.Machine.execTwrr c td v row s
  | .trsc c td v => Sys2Proof.Machine.execTrsc c td v s
  | .sopen c ra rb => Sys2Proof.Machine.execSopen c ra rb s
  | .sclose c => Sys2Proof.Machine.execSclose c s
  | .spop c vd => Sys2Proof.Machine.execSpop c vd s
  | .sstat c rd => Sys2Proof.Machine.execSstat c rd s
  | .bget c ra rb rc => Sys2Proof.Machine.execBget c ra rb rc s
  | .bput c ra rb rc => Sys2Proof.Machine.execBput c ra rb rc s
  | .bpute c ra rb rc => Sys2Proof.Machine.execBpute c ra rb rc s
  | .bwait c imm => Sys2Proof.Machine.execBwait c imm s
  | .blockRequestComplete c => Sys2Proof.Machine.execBlockRequestComplete c s
  | .syncFence c => Sys2Proof.Machine.execSyncFence c s
  | .pbar c mask => Sys2Proof.Machine.execPbar c mask s
  | .pbarEnd pod mask => Sys2Proof.Machine.execPbarEnd pod mask s
  | .gcomp c gate => Sys2Proof.Machine.execGcomp c gate s
  | .gwaitc c ra gate => Sys2Proof.Machine.execGwaitc c ra gate s
  | .gwaitcResume c => Sys2Proof.Machine.execGwaitcResume c s
  | .gcnt c rd gate => Sys2Proof.Machine.execGcnt c rd gate s
  | .waitl c ra => Sys2Proof.Machine.execWaitl c ra s
  | .waitlResume c => Sys2Proof.Machine.execWaitlResume c s
  | .rdlcnt c rd => Sys2Proof.Machine.execRdlcnt c rd s
  | .nop c => Sys2Proof.Machine.execNop c s
  | .halt c => Sys2Proof.Machine.execHalt c s
  | .trap c code => Sys2Proof.Machine.execTrap c code s
  | .rngnext c rd => Sys2Proof.Machine.execRngnext c rd s
  | .csrr c rd num => Sys2Proof.Machine.execCsrr c rd num s
  | .csrw c ra num => Sys2Proof.Machine.execCsrw c ra num s
  | .instructionFetchMiss c => Sys2Proof.Machine.execInstructionFetchMiss c s
  | .slotFillEnd bank id => Sys2Proof.Machine.execSlotFillEnd bank id s
  | .bankIngestEnd bank crcOk => Sys2Proof.Machine.execBankIngestEnd bank crcOk s
  | .blockDecoded bank => Sys2Proof.Machine.execBlockDecoded bank s
  | .encoderBlockEnd engine => Sys2Proof.Machine.execEncoderBlockEnd engine s
  | .mempathCrcFailure handle blk => Sys2Proof.Machine.execMempathCrcFailure handle blk s
  | .rereadResult handle blk passed => Sys2Proof.Machine.execRereadResult handle blk passed s
  | .parityRebuildResult handle blk passed => Sys2Proof.Machine.execParityRebuildResult handle blk passed s
  | .pressureEvictionStart => Sys2Proof.Machine.execPressureEvictionStart s
  | .hotPromotion handle tract => Sys2Proof.Machine.execHotPromotion handle tract s
  | .promotionCopyEnd handle tract => Sys2Proof.Machine.execPromotionCopyEnd handle tract s
  | .writeBackEnd handle tract => Sys2Proof.Machine.execWriteBackEnd handle tract s
  | .tmapFetchEnd handle tract => Sys2Proof.Machine.execTmapFetchEnd handle tract s
  | .windowPromotionStart w => Sys2Proof.Machine.execWindowPromotionStart w s
  | .windowPinRetry w => Sys2Proof.Machine.execWindowPinRetry w s
  | .regulationBoundary => Sys2Proof.Machine.execRegulationBoundary s
  | .stackRequestArrival stack req => Sys2Proof.Machine.execStackRequestArrival stack req s
  | .activationStart stack source found => Sys2Proof.Machine.execActivationStart stack source found s
  | .stackRequestComplete stack source => Sys2Proof.Machine.execStackRequestComplete stack source s
  | .refresh stack pc bank => Sys2Proof.Machine.execRefresh stack pc bank s
  | .pcRetrain stack pc => Sys2Proof.Machine.execPcRetrain stack pc s
  | .pcRetrainEnd stack pc passed => Sys2Proof.Machine.execPcRetrainEnd stack pc passed s
  | .mergeWrite stack slot sector source data mask => Sys2Proof.Machine.execMergeWrite stack slot sector source data mask s
  | .mergeHoldExpiry stack slot sector => Sys2Proof.Machine.execMergeHoldExpiry stack slot sector s
  | .mergeFlushEnd stack slot sector => Sys2Proof.Machine.execMergeFlushEnd stack slot sector s
  | .scrubStep stack found => Sys2Proof.Machine.execScrubStep stack found s
  | .rowRemapEnd stack slot => Sys2Proof.Machine.execRowRemapEnd stack slot s
  | .stripeRetirementEnd tier stripe => Sys2Proof.Machine.execStripeRetirementEnd tier stripe s
  | .rebuildEnd stack => Sys2Proof.Machine.execRebuildEnd stack s
  | .controllerReset stack cause => Sys2Proof.Machine.execControllerReset stack cause s
  | .controllerResetEnd stack => Sys2Proof.Machine.execControllerResetEnd stack s
  | .unitReset unit inst cause => Sys2Proof.Machine.execUnitReset unit inst cause s
  | .unitResetEnd unit inst => Sys2Proof.Machine.execUnitResetEnd unit inst s
  | .reclaimMoveEnd handle tract => Sys2Proof.Machine.execReclaimMoveEnd handle tract s
  | .revocationDrained handle => Sys2Proof.Machine.execRevocationDrained handle s
  | .wipeEnd handle => Sys2Proof.Machine.execWipeEnd handle s
  | .publishCommit d => Sys2Proof.Machine.execPublishCommit d s
  | .readerTimeout handle vslot src => Sys2Proof.Machine.execReaderTimeout handle vslot src s
  | .trainingDone port rate rtt pair => Sys2Proof.Machine.execTrainingDone port rate rtt pair s
  | .trainingTimeout port => Sys2Proof.Machine.execTrainingTimeout port s
  | .hello port payload => Sys2Proof.Machine.execHello port payload s
  | .cert port payload => Sys2Proof.Machine.execCert port payload s
  | .helloSig port sig => Sys2Proof.Machine.execHelloSig port sig s
  | .authBackoffEnd port => Sys2Proof.Machine.execAuthBackoffEnd port s
  | .sleepReq port => Sys2Proof.Machine.execSleepReq port s
  | .sleepAck port => Sys2Proof.Machine.execSleepAck port s
  | .linkWake port => Sys2Proof.Machine.execLinkWake port s
  | .linkRetrain port => Sys2Proof.Machine.execLinkRetrain port s
  | .dataFlit port flit => Sys2Proof.Machine.execDataFlit port flit s
  | .idleFlit port flit => Sys2Proof.Machine.execIdleFlit port flit s
  | .degradedBackoffEnd port => Sys2Proof.Machine.execDegradedBackoffEnd port s
  | .lsaOriginate => Sys2Proof.Machine.execLsaOriginate s
  | .pktLsa port body => Sys2Proof.Machine.execPktLsa port body s
  | .lsaExpiry uid => Sys2Proof.Machine.execLsaExpiry uid s
  | .didAssignment => Sys2Proof.Machine.execDidAssignment s
  | .pktDidAssign port body => Sys2Proof.Machine.execPktDidAssign port body s
  | .routeRecompute => Sys2Proof.Machine.execRouteRecompute s
  | .packetForward port vc pkt counts => Sys2Proof.Machine.execPacketForward port vc pkt counts s
  | .escapeTimeout pkt => Sys2Proof.Machine.execEscapeTimeout pkt s
  | .pktRead pkt => Sys2Proof.Machine.execPktRead pkt s
  | .pktWrite pkt => Sys2Proof.Machine.execPktWrite pkt s
  | .pktGate pkt => Sys2Proof.Machine.execPktGate pkt s
  | .pktPublish pkt => Sys2Proof.Machine.execPktPublish pkt s
  | .pktVersion pkt => Sys2Proof.Machine.execPktVersion pkt s
  | .pktRedReady pkt => Sys2Proof.Machine.execPktRedReady pkt s
  | .pktRedCounts pkt => Sys2Proof.Machine.execPktRedCounts pkt s
  | .pktRedAbort pkt => Sys2Proof.Machine.execPktRedAbort pkt s
  | .pktHold pkt => Sys2Proof.Machine.execPktHold pkt s
  | .pktResponse pkt => Sys2Proof.Machine.execPktResponse pkt s
  | .holdTimer src txid => Sys2Proof.Machine.execHoldTimer src txid s
  | .e2eResend txid => Sys2Proof.Machine.execE2eResend txid s
  | .dedupExpiry src txid => Sys2Proof.Machine.execDedupExpiry src txid s
  | .reduceWaitExpiry group => Sys2Proof.Machine.execReduceWaitExpiry group s
  | .hotReset port => Sys2Proof.Machine.execHotReset port s
  | .functionLevelReset port => Sys2Proof.Machine.execFunctionLevelReset port s
  | .hostLinkUp port link => Sys2Proof.Machine.execHostLinkUp port link s
  | .hostLinkDown port cause => Sys2Proof.Machine.execHostLinkDown port cause s
  | .powerstateWrite port state => Sys2Proof.Machine.execPowerstateWrite port state s
  | .atsInvalidation port page pages => Sys2Proof.Machine.execAtsInvalidation port page pages s
  | .hostReadCompletion port d addr good => Sys2Proof.Machine.execHostReadCompletion port d addr good s
  | .cplTimeout port d addr => Sys2Proof.Machine.execCplTimeout port d addr s
  | .msixUnmask port vector => Sys2Proof.Machine.execMsixUnmask port vector s
  | .unsupportedRequest port => Sys2Proof.Machine.execUnsupportedRequest port s
  | .malformedTlp port => Sys2Proof.Machine.execMalformedTlp port s
  | .poisonedTlp port => Sys2Proof.Machine.execPoisonedTlp port s
  | .unexpectedCompletion port => Sys2Proof.Machine.execUnexpectedCompletion port s
  | .memrd port spid dpa excl => Sys2Proof.Machine.execMemrd port spid dpa excl s
  | .memwr port spid dpa data => Sys2Proof.Machine.execMemwr port spid dpa data s
  | .memwrptl port spid dpa data be => Sys2Proof.Machine.execMemwrptl port spid dpa data be s
  | .bisnpAck port dpa spid dirty => Sys2Proof.Machine.execBisnpAck port dpa spid dirty s
  | .dirtyWriteback port dpa spid data => Sys2Proof.Machine.execDirtyWriteback port dpa spid data s
  | .winSwitchGo => Sys2Proof.Machine.execWinSwitchGo s
  | .epochDrainEnd => Sys2Proof.Machine.execEpochDrainEnd s
  | .hportRetrain port => Sys2Proof.Machine.execHportRetrain port s
  | .attGo => Sys2Proof.Machine.execAttGo s
  | .quoteReady => Sys2Proof.Machine.execQuoteReady s
  | .provision h => Sys2Proof.Machine.execProvision h s
  | .enterField h => Sys2Proof.Machine.execEnterField h s
  | .leaveField h => Sys2Proof.Machine.execLeaveField h s
  | .release h => Sys2Proof.Machine.execRelease h s
  | .returnCmd h => Sys2Proof.Machine.execReturnCmd h s
  | .stage h image => Sys2Proof.Machine.execStage h image s
  | .svnCommit h => Sys2Proof.Machine.execSvnCommit h s
  | .revokeKey h => Sys2Proof.Machine.execRevokeKey h s
  | .reset h nonce => Sys2Proof.Machine.execReset h nonce s
  | .activate h => Sys2Proof.Machine.execActivate h s
  | .moduleReset cause nonce => Sys2Proof.Machine.execModuleReset cause nonce s
  | .locallyReady => Sys2Proof.Machine.execLocallyReady s
  | .debugOpen => Sys2Proof.Machine.execDebugOpen s
  | .recordCloseTimer => Sys2Proof.Machine.execRecordCloseTimer s
  | .recordCommit => Sys2Proof.Machine.execRecordCommit s
  | .opSecondsCheckpoint => Sys2Proof.Machine.execOpSecondsCheckpoint s
  | .evtHold => Sys2Proof.Machine.execEvtHold s
  | .holdExpiry => Sys2Proof.Machine.execHoldExpiry s
  | .recSel n => Sys2Proof.Machine.execRecSel n s
  | .journalEnable ch => Sys2Proof.Machine.execJournalEnable ch s
  | .journalPageWrite ch => Sys2Proof.Machine.execJournalPageWrite ch s
  | .replayMode => Sys2Proof.Machine.execReplayMode s
  | .replayAccept ch => Sys2Proof.Machine.execReplayAccept ch s
  | .standbyPowerApplied feed36 nonce => Sys2Proof.Machine.execStandbyPowerApplied feed36 nonce s
  | .inputGood => Sys2Proof.Machine.execInputGood s
  | .staggerSlotStart => Sys2Proof.Machine.execStaggerSlotStart s
  | .railStep => Sys2Proof.Machine.execRailStep s
  | .railTimeout => Sys2Proof.Machine.execRailTimeout s
  | .inputLoss => Sys2Proof.Machine.execInputLoss s
  | .overvoltage => Sys2Proof.Machine.execOvervoltage s
  | .overTemperature => Sys2Proof.Machine.execOverTemperature s
  | .coolantLoss => Sys2Proof.Machine.execCoolantLoss s
  | .stopReturn nonce => Sys2Proof.Machine.execStopReturn nonce s
  | .selfTestEnd passed => Sys2Proof.Machine.execSelfTestEnd passed s
  | .powerSample volts amps die temps vr inlet outlet flow => Sys2Proof.Machine.execPowerSample volts amps die temps vr inlet outlet flow s
  | .sidebandChange sig level => Sys2Proof.Machine.execSidebandChange sig level s
  | .coalesceEnd sig => Sys2Proof.Machine.execCoalesceEnd sig s
  | .inputStuck sig => Sys2Proof.Machine.execInputStuck sig s
  | .stuckExamine sig => Sys2Proof.Machine.execStuckExamine sig s
  | .scratchWrite port n value => Sys2Proof.Machine.execScratchWrite port n value s
  | .groupConfigure => Sys2Proof.Machine.execGroupConfigure s
  | .registerWrite port addr be value => Sys2Proof.Machine.execRegisterWrite port addr be value s
  | .controllerResetTimeout stack => Sys2Proof.Machine.execControllerResetTimeout stack s
  | .stackTrainingEnd => Sys2Proof.Machine.execStackTrainingEnd s
  | .memoryWipeEnd => Sys2Proof.Machine.execMemoryWipeEnd s
  | .standbyPowerLoss => Sys2Proof.Machine.execStandbyPowerLoss s
  | .programLoadEnd prog => Sys2Proof.Machine.execProgramLoadEnd prog s
  | .registerApply block => Sys2Proof.Machine.execRegisterApply block s
  | .atsEnableClear port => Sys2Proof.Machine.execAtsEnableClear port s
  | .undefinedOpcode c word => Sys2Proof.Machine.execUndefinedOpcode c word s
  | .completerAbort port write => Sys2Proof.Machine.execCompleterAbort port write s

end Sys2Proof.Machine
end

