-- ==== Sys2Proof/Machine/Inject.lean ====
section
/-! DEFINITION. Recorded faults of a replayed run, injected into the same descriptors (R469). -/

namespace Sys2Proof.Machine

/-- FAULT entries of the replayed journals whose descriptor is under way and that are not injected yet: channel, entry,
descriptor. -/
def State.faultsDue (s : State) : List (Nat × Bytes × Nat × Desc) :=
  (s.evt.journals.filter (fun e => e.2.active)).flatMap (fun e =>
    ((s.jrnEntries e.1).filter (fun b => decide (b.getD 0 0 = 6) && !(s.evt.injected.contains (e.1, fieldAt b 4 4)))).filterMap
      (fun b => (s.chan.descs.find? (fun d => decide (d.2.chan = e.1) && decide (d.2.go = entryGo b) &&
        decide (d.2.phase = .started ∨ d.2.phase = .working))).map (fun d => (e.1, b, d.1, d.2))))

/-- The unit of a kind code. -/
def unitOf : Nat → Option UnitKind
  | 5 => some .mover | 6 => some .encoder | 7 => some .egress | 8 => some .placement | 9 => some .scanner | 10 => some .pip
  | _ => none

/-- The block of an index within the descriptor: of its source, or of its destination where that is the extent. -/
def State.blockAt (s : State) (x : Desc) (i : Nat) : Option (Word × Nat) :=
  [24, 40].findSome? (fun lo => match (x.slot lo).map s.resolve with
    | some (.ext h off) => some (h, off / 4096 + i)
    | _ => none)

/-- A re-read or a rebuild of a block. -/
def State.recoverAt (s : State) (x : Desc) (i : Nat) (g : CrcStage) : State :=
  match s.blockAt x i with
  | some b => if (s.recoverStage (extBlkKey b.1 b.2)).isSome then s else s.recover (extBlkKey b.1 b.2) g
  | none => s

/-- One recorded fault: the same action on the same unit and block. Causes are not recorded. -/
def injectFault (s : State) (f : Nat × Bytes × Nat × Desc) : State :=
  let b := f.2.1
  let inst := fieldAt b 17 1
  let s1 := { s with evt := { s.evt with injected := s.evt.injected ++ [(f.1, fieldAt b 4 4)] } }
  match fieldAt b 18 1 with
  | 0 => s1.recoverAt f.2.2.2 (fieldAt b 20 4) .reread
  | 1 => s1.recoverAt f.2.2.2 (fieldAt b 20 4) .rebuild
  | 2 => if inst < s1.variant.pods ∧ (s1.pod inst).state ≠ .out then s1.podReset inst else s1
  | 3 => (match unitOf (fieldAt b 16 1) with | some u => s1.startReset u inst Config.resetCause | none => s1)
  | 4 => if s1.variant.hasStack inst ∧ (s1.stack inst).state = .ready then s1.resetController inst Config.resetCause else s1
  | _ => s1

/-- What a count injects in replay mode.
(DESIGN CHOICE, assumption 99.) -/
def State.injectFaults (s : State) : State := if s.evt.replay then s.faultsDue.foldl injectFault s else s

end Sys2Proof.Machine
end

