-- ==== Sys2Proof/Machine/Vote.lean ====
section
/-! DEFINITION. Voted words (R417, R506): within one count a copy that disagrees is rewritten, and three
copies that all disagree are recorded, once per word. Kinds of word, by the model's own numbers: 0 remap
entries of a stack, 1 its lost pseudo-channels, 2 retired stripes (0 near, 1 deep), 3 owner, kind and state
of an extent, 4 party-slot binding, 5 SEC locks (0 LC, 1 FW, 2 DBG), 6 the host lock, 7 life-cycle state,
8 FM key, 9 TIER_RES (0 near, 1 deep). -/

namespace Sys2Proof.Machine

/-- The word with a single disagreeing copy rewritten; three different copies stay. -/
def Tv.mend {α : Type} [DecidableEq α] (t : Tv α) : Tv α := if t.broken then t else Tv.all (t.vote t.a)

/-- Copies rewritten by `mend`. -/
def Tv.fixes {α : Type} [DecidableEq α] (t : Tv α) : Nat := if t.split && !t.broken then 1 else 0

/-- One word is examined: what it adds to VOTE_FIX, and its three-way disagreement recorded.
(DEDUCED, assumption 73.) -/
def State.voteWord {α : Type} [DecidableEq α] (s : State) (kind idx : Nat) (t : Tv α) : State :=
  let s1 := { s with rel := { s.rel with voteFix := s.rel.voteFix + BitVec.ofNat 32 t.fixes } }
  if t.broken && !(s.rel.voteDone.contains (kind, idx)) then
    let s2 : State := { s1 with rel := { s1.rel with voteFatal := s1.rel.voteFatal + 1, voteDone := s1.rel.voteDone ++ [(kind, idx)] } }
    s2.raise 0x0309 Sev.fatal Uk.module 0 (Config.voteWord kind).toNat idx 0
  else s1

/-- The words of a stack. -/
def State.voteStack (s : State) (e : Nat × Stack) : State :=
  let s1 := (s.voteWord 0 e.1 e.2.remap).voteWord 1 e.1 e.2.lost
  let x := s1.stack e.1
  s1.setStack e.1 { x with remap := x.remap.mend, lost := x.lost.mend }

/-- The words of the repair record: stacks and retired stripes. -/
def State.voteRepair (s : State) : State :=
  let s1 := s.rel.stks.foldl State.voteStack s
  let s2 := (s1.voteWord 2 0 s1.rel.retiredNear).voteWord 2 1 s1.rel.retiredDeep
  let s3 := (s2.voteWord 9 0 s2.rel.resNear).voteWord 9 1 s2.rel.resDeep
  { s3 with rel := { s3.rel with retiredNear := s3.rel.retiredNear.mend, retiredDeep := s3.rel.retiredDeep.mend
                                 resNear := s3.rel.resNear.mend, resDeep := s3.rel.resDeep.mend } }

/-- The words of tenancy: extents and party bindings. -/
def State.voteTenancy (s : State) : State :=
  let s1 := s.ten.extents.foldl (fun (u : State) (e : Nat × Extent) => u.voteWord 3 e.1 e.2.word) s
  let s2 := s1.ten.parties.foldl (fun (u : State) (e : Nat × Party) => u.voteWord 4 e.1 e.2.gpid) s1
  { s2 with ten := { s2.ten with extents := s2.ten.extents.map (fun (e : Nat × Extent) => (e.1, { e.2 with word := e.2.word.mend }))
                                 parties := s2.ten.parties.map (fun (e : Nat × Party) => (e.1, { e.2 with gpid := e.2.gpid.mend })) } }

/-- Lock bits, life-cycle state and FM key. -/
def State.voteSec (s : State) : State :=
  let c := s.sec
  let s1 := ((s.voteWord 5 0 c.lcLock).voteWord 5 1 c.fwLock).voteWord 5 2 c.dbgLock
  let s2 := ((s1.voteWord 6 0 s.host.lock).voteWord 7 0 c.lc).voteWord 8 0 c.fmKey
  { s2 with sec := { s2.sec with lcLock := c.lcLock.mend, fwLock := c.fwLock.mend, dbgLock := c.dbgLock.mend
                                 lc := c.lc.mend, fmKey := c.fmKey.mend }
            host := { s2.host with lock := s2.host.lock.mend } }

/-- Every voted word is examined, once each count.
(DEDUCED, assumption 74.) -/
def State.voteAll (s : State) : State := s.voteRepair.voteTenancy.voteSec

end Sys2Proof.Machine
end

