-- ==== Sys2Proof/Machine/Tick.lean ====
section
/-! DEFINITION. One LCNT count with nothing commanded (assumption 2): the end of the count, then the
counters that follow the clock. -/

namespace Sys2Proof.Machine

/-- The core waits for operand bytes: an SPOP ready to issue, or an MMA with SB that cannot start, whether or not the
core goes on issuing (R111). -/
def Core.decodeWait (x : Core) : Bool :=
  (x.running && !x.halted && decide (x.wait = .stream)) ||
    (match x.mu with
     | o :: _ => o.sb && !o.started && !(x.readable (fmtBytes o.fmt))
     | [] => false)

/-- The bank fills a slot for the block the core waits on. -/
def State.fillsFor (s : State) (c : Nat) : Bool :=
  let b := Table.get {} s.comp.banks (c / 4)
  match b.queue.find? (fun q => decide (q.owner = c)) with
  | some q => decide (mwTag q.word ≠ 0x3F) && b.slots.any (fun t => decide (t.id = mwId q.word) && t.filling)
  | none => false

/-- A core over one count: CYCLE while it runs (R158) and the DEC_STALL counters (R111).
(DESIGN CHOICE, assumption 113.) -/
def State.coreCount (s : State) (c : Nat) (x : Core) : Core :=
  let y := if x.running && !x.halted then
      { x with cycle := x.cycle + BitVec.ofNat 64 clocksPerCount, phase := 0 } else x
  if !x.decodeWait then y
  else if s.fillsFor c then { y with dMiss := y.dMiss + BitVec.ofNat 64 clocksPerCount }
  else { y with dBusy := y.dBusy + BitVec.ofNat 64 clocksPerCount }

/-- The sleep sequencer's counters over one count. -/
def State.clkCount (s : State) : Clk :=
  let k := s.clk
  let quietFor := if s.active && s.quiet then k.quietFor + 1 else 0
  match k.mstate with
  | .active => { k with lcnt := k.lcnt + 1, quietFor := quietFor }
  | .idle => { k with lcnt := k.lcnt + 1, idleCounts := k.idleCounts + 1, idleFor := k.idleFor + 1 }
  | .doze => { k with lcnt := k.lcnt + 1, dozeCounts := k.dozeCounts + 1 }

/-- The events of the count enter the queue. -/
def State.enterEvents (s : State) : State := { s with evt := s.evt.enterAll }

/-- OP_SECONDS over one count (R451).
(DEDUCED, assumption 16.) -/
def State.evtCount (s : State) : Evt :=
  if (s.now + 1) % 25000000 = 0 then { s.evt with opSecs := s.evt.opSecs + 1 } else s.evt

/-- One count passes: nothing moves without standby power (R246).
(DESIGN CHOICE, assumption 2; DEDUCED, assumption 74.) -/
def tick (s : State) : State :=
  if !s.power.standby then s
  else
    let s1 := s.countEnd.winTurn.takeCommits.wipesGoOn.fabCount.takePackets.takeEngines.serveHeld.landHeld.landPuts.runSpills.reloadPods.pumpReqs.admitAll.mergeAll.injectFaults.voteAll.quoteDue.enterEvents
    { s1 with clk := s1.clkCount
              evt := s1.evtCount
              pods := { s1.pods with cores := s1.pods.cores.map (fun (e : Nat × Core) => (e.1, s1.coreCount e.1 e.2)) } }

end Sys2Proof.Machine
end

