-- ==== Sys2Proof/Machine/ReadReg.lean ====
section
/-! DEFINITION. What a read of a set-up register returns: the applied values, field by field as the register
tables give them (R53, R92, R119, R203, R244, R270, R271, R290, R313, R351, R378, R379, R402, R425, R447,
R471, R494, R496, R498, R508, R509). Reading changes nothing; progress values that the model does not hold are
free (assumption 71). -/

namespace Sys2Proof.Machine

/-! ## Fields -/

/-- Fields of a register as (lowest bit, width, value), joined into its word. -/
def fields (l : List (Nat × Nat × Nat)) : Word :=
  BitVec.ofNat 32 (l.foldl (fun a f => a + f.2.2 % 2 ^ f.2.1 * 2 ^ f.1) 0)

/-- A 32-bit number, and the halves of a wider one. -/
def word32 (n : Nat) : Word := BitVec.ofNat 32 n
def lo32 (n : Nat) : Word := BitVec.ofNat 32 n
def hi32 (n : Nat) : Word := BitVec.ofNat 32 (n / 2 ^ 32)

/-- PENDING of a block (R498). -/
def State.pendBit (s : State) (b : Blk) : Nat × Nat × Nat := (0, 1, natOf (s.hasPend b))

/-- PENDING where a unit shows it per selected instance. -/
def State.pendChan (s : State) : Nat × Nat × Nat :=
  (0, 1, natOf (s.regs.shadows.any (fun p => decide (p.block = Blk.chan.num) &&
    (decide (p.off = 0x04) || decide (p.inst = s.chan.sel.toNat)))))

/-- A progress figure that the model does not hold.
(DESIGN CHOICE, assumption 71.) -/
def State.freeField (s : State) : Nat := (Config.freeWord s.free).toNat

/-- Bytes in a host port's buffer: the data of the requests that wait (R255, R285).
(DESIGN CHOICE, assumption 27.) -/
def State.ingHost (s : State) (p : Nat) : Nat :=
  let line := fun (r : ZReq) => if r.port = p ∧ r.write.isSome then 64 else 0
  s.host.waits.foldl (fun a r => a + line r) 0 + s.host.asks.foldl (fun a r => a + match r with
    | .write q _ _ _ => if q = p then 4 else 0
    | .scratch q _ _ _ => if q = p then 4 else 0
    | .window z => line z
    | _ => 0) 0

/-! ## IDENT (R508, R509) -/

/-- The low `n` bits set. -/
def maskOf (n : Nat) : Nat := 2 ^ n - 1

def State.readIdent (s : State) (off : Nat) : Word :=
  let v := s.variant
  match off with
  | 0x00 => fields [(16, 16, 0x5A58), (0, 16, 0x0910 + v.code)]
  | 0x04 => fields [(24, 8, 1), (16, 8, s.regs.dieStep.toNat), (8, 8, s.regs.boardStep.toNat), (0, 8, s.regs.acornVer.toNat)]
  | 0x08 => fields [(2, 1, natOf (decide (s.power.boot = .recovery))), (1, 1, natOf s.isReady), s.pendBit .ident]
  | 0x0C => fields (allBlks.map (fun b => (b.num, 1, natOf (s.hasPend b))))
  | 0x10 => lo32 s.sec.uid.toNat
  | 0x14 => hi32 s.sec.uid.toNat
  | 0x18 => fields [(24, 8, v.zdStacks), (16, 8, v.znStacks), (8, 7, v.pods), (0, 2, v.code)]
  | 0x1C => fields [(16, 16, maskOf v.fabPorts), (8, 8, v.fabPorts), (4, 4, maskOf v.hostPorts), (0, 3, v.hostPorts)]
  | 0x20 => fields [(16, 8, 64), (8, 8, 16), (0, 8, 8)]
  | 0x24 => fields [(16, 11, 1024), (0, 9, 256)]
  | 0x28 => fields [(16, 11, 1024), (0, 9, 256)]
  | 0x2C => fields [(16, 16, 0xFFFE), (0, 9, 256)]
  | 0x30 => fields [(16, 12, 2048), (0, 7, if v.deep then 64 else 0)]
  | 0x34 => fields [(16, 16, 32768), (0, 12, 2048)]
  | 0x38 => fields [(0, 21, 0x100000)]
  | 0x3C => fields [(8, 5, 16), (0, 4, 8)]
  | 0x40 => fields [(0, 24, s.place.nearUsable)]
  | 0x44 => fields [(0, 24, s.place.deepUsable)]
  | 0x50 => fields [(0, 16, (Table.get 0 s.regs.scratch 0).toNat)]
  | 0x54 => fields [(0, 16, (Table.get 0 s.regs.scratch 1).toNat)]
  | 0x58 => fields [(0, 16, (Table.get 0 s.regs.scratch 2).toNat)]
  | 0x5C => fields [(0, 16, (Table.get 0 s.regs.scratch 3).toNat)]
  | _ => 0

/-! ## CLK (R270, R494) -/

def MState.code : MState → Nat | .active => 0 | .idle => 1 | .doze => 2

def State.readClk (s : State) (off : Nat) : Word :=
  let k := s.clk
  let p := s.power
  match off with
  | 0x00 => fields [(9, 1, natOf k.refSel), (8, 1, natOf k.refFault), (4, 2, k.mstate.code), s.pendBit .clk]
  | 0x04 => lo32 s.now
  | 0x08 => hi32 s.now
  | 0x0C => fields [(16, 16, k.idleDelay.toNat), (1, 1, natOf k.dozeEn), (0, 1, natOf k.idleEn)]
  | 0x10 => fields [(0, 24, k.dozeDelay.toNat)]
  | 0x14 => k.wakeAt
  | 0x18 => fields [(0, 7, k.wakeCause.toNat)]
  | 0x1C => k.wakes
  | 0x20 => word32 (k.idleCounts / 4096)
  | 0x24 => word32 (k.dozeCounts / 4096)
  | 0x100 => fields [(16, 3, p.cause.toNat), (0, 2, p.level.toNat)]
  | 0x104 => fields [(16, 16, p.volts.toNat), (0, 16, p.amps.toNat)]
  | 0x108 => fields [(0, 16, p.avg.toNat)]
  | 0x10C => fields [(0, 16, p.cap.toNat)]
  | 0x110 => fields [(0, 2, p.thrLevel.toNat)]
  | 0x114 => p.thrPeriods
  | 0x118 => fields [(16, 8, p.tVr.toNat), (8, 8, p.tStack.toNat), (0, 8, p.tDie.toNat)]
  | 0x11C => fields [(16, 16, p.flow.toNat), (8, 8, p.outlet.toNat), (0, 8, p.inlet.toNat)]
  | 0x120 => fields ((31, 1, natOf p.alert) ::
      (List.range 7).flatMap (fun n => [(16 + n, 1, natOf (s.side n).masked), (n, 1, natOf (s.side n).present)]))
  | 0x124 => fields [(0, 3, p.sbSel.toNat)]
  | 0x128 => (s.side p.sbSel.toNat).events
  | 0x12C => (s.side p.sbSel.toNat).ignored
  | 0x130 => fields [(31, 1, natOf p.alertEn), (28, 2, p.alertPort.toNat), (0, 11, p.alertVec.toNat)]
  | _ => 0

/-! ## HOST and WIN (R378, R379) -/

/-- HPORT_LINK of a present port. -/
def HostPort.linkWord (h : HostPort) : Word :=
  let st := if h.up then 3 else if h.training then 2 else 1
  fields ((28, 3, st) :: (24, 2, if h.d3hot then 3 else 0) ::
    (match h.link with
     | some l => if h.up then [(16, 3, l.cxl), (13, 1, natOf l.mem), (12, 1, natOf l.cache), (11, 1, natOf (decide (l.gen = 3))),
                               (8, 3, l.width), (0, 2, l.gen)] else []
     | none => []))

def State.readHost (s : State) (off : Nat) : Word :=
  let p := s.host.portSel.toNat
  let h := s.hport p
  let lock : Nat × Nat × Nat := (31, 1, natOf s.hostLock)
  if off = 0x00 then fields [s.pendBit .host]
  else if off = 0x04 then fields [(0, 2, p)]
  else if off = 0x18 then fields [(0, 11, (s.chan.chans.filter (fun e => e.2.watched)).length)]
  else if s.variant.hostPorts ≤ p then (if off = 0x08 then fields [lock] else 0)
  else match off with
    | 0x08 => fields [lock, (11, 1, natOf h.memEn), (10, 1, natOf h.cacheEn), (9, 1, natOf h.cxlMax), (8, 1, natOf h.cxlEn),
                      (4, 2, h.maxGen.toNat), (0, 1, natOf h.regsOff)]
    | 0x0C => h.linkWord
    | 0x10 => fields [(0, 24, h.cplTo.toNat)]
    | 0x14 => fields [(0, 14, h.atc.length)]
    | 0x1C => h.linkDowns
    | 0x20 => h.urSent
    | 0x24 => h.caSent
    | 0x28 => h.protoErr
    | 0x2C => h.cplTimeouts
    | 0x30 => h.atsInvs
    | _ => 0

def State.readWin (s : State) (off : Nat) : Word :=
  let w := Table.get {} s.host.wins s.host.winSel.toNat
  match off with
  | 0x00 => fields [(2, 1, natOf s.host.switching), (1, 1, natOf s.host.reject), s.pendBit .win]
  | 0x04 => s.host.epoch
  | 0x0C => fields [(0, 3, s.host.winSel.toNat)]
  | 0x10 => fields [(31, 1, natOf w.en), (28, 2, w.port.toNat), (16, 5, w.log2.toNat), (8, 8, w.party.toNat), (0, 6, w.cls.toNat)]
  | 0x14 => lo32 (w.base.toNat / 2 ^ 28 % 16 * 2 ^ 28)
  | 0x18 => hi32 w.base.toNat
  | 0x1C => w.handle
  | 0x20 => fields [(0, 16, w.off.toNat)]
  | 0x24 => fields [(0, 25, s.host.dir.length)]
  | 0x28 => fields [(0, 16, (s.host.waits.filter (fun r => decide (r.epoch ≠ s.host.epoch))).length)]
  | 0x2C => s.host.dirOvf
  | 0x30 => s.host.bisnps
  | 0x34 => s.host.winUr
  | 0x38 => s.host.formErr
  | _ => 0

/-! ## CHAN (R244) -/

def ChanState.code : ChanState → Nat | .disabled => 0 | .running => 1 | .draining => 2 | .stopped => 3

def State.readChan (s : State) (off : Nat) : Word :=
  let c := s.ch s.chan.sel.toNat
  match off with
  | 0x00 => fields [(1, 1, natOf s.chan.reject), s.pendChan]
  | 0x04 => fields [(0, 10, s.chan.sel.toNat)]
  | 0x08 => fields [(16, 5, c.sqLog2.toNat), (4, 2, c.port.toNat), (1, 1, natOf c.watch), (0, 1, natOf c.enable)]
  | 0x0C => fields [(24, 1, natOf c.party.isSome), (16, 8, (c.party.getD 0).toNat), (8, 1, natOf c.watched), (0, 2, c.state.code)]
  | 0x10 => lo32 c.sqBase.toNat
  | 0x14 => hi32 c.sqBase.toNat
  | 0x18 => lo32 c.cqBase.toNat
  | 0x1C => hi32 c.cqBase.toNat
  | 0x20 => lo32 c.dbAddr.toNat
  | 0x24 => hi32 c.dbAddr.toNat
  | 0x28 => fields [(0, 15, c.poll.toNat)]
  | 0x2C => fields [(20, 1, natOf c.pasidEn), (0, 20, c.pasid.toNat)]
  | 0x30 => fields [(16, 16, c.holdoff.toNat), (0, 11, c.vector.toNat)]
  | 0x34 => fields [(16, 12, c.xmax.toNat), (0, 12, c.xmin.toNat)]
  | 0x38 => fields [(0, 16, c.outMax.toNat)]
  | 0x3C => c.sqHead
  | 0x40 => c.cqTail
  | 0x44 => fields [(0, 12, c.held)]
  | 0x48 => c.accepted
  | 0x4C => c.xwaits
  | 0x50 => fields [(0, 12, s.freeBufs)]
  | 0x54 => fields [(0, 12, s.minSum)]
  | 0x58 => fields [(0, 16, 32768 - s.chan.descs.length)]
  | _ => 0

/-! ## QOS (R285, R290) -/

def State.readQos (s : State) (off : Nat) : Word :=
  let c := s.qclass s.qos.classSel.toNat
  let r := s.qos.resSel.toNat
  let here := hasRes s.variant r
  match off with
  | 0x00 => fields [(1, 1, natOf s.qos.reject), s.pendBit .qos]
  | 0x04 => fields [(0, 6, s.qos.classSel.toNat)]
  | 0x08 => fields [(16, 1, natOf c.owned), (0, 8, c.party.toNat)]
  | 0x0C => fields [(16, 16, c.zd.toNat), (0, 16, c.zn.toNat)]
  | 0x10 => fields [(16, 16, c.fabric.toNat), (0, 16, c.host.toNat)]
  | 0x14 => fields [(0, 16, c.movers.toNat)]
  | 0x18 => c.issued
  | 0x1C => c.demoted
  | 0x20 => c.late
  | 0x24 => fields [(1, 1, natOf c.demLast), (0, 1, natOf c.demNow)]
  | 0x28 => fields [(0, 8, r)]
  | 0x2C => if here then fields [(16, 16, s.derated r), (0, 16, nominal s.variant r)] else 0
  | 0x30 => if here then fields [(16, 16, (s.res r).bgOut), (0, 16, (s.res r).guarOut)] else 0
  | 0x34 => if here then fields [(16, 16, (s.res r).effSum), (0, 16, sumG s.qos.classes r)] else 0
  | 0x38 => fields [(16, 16, s.qos.t2.toNat), (0, 16, s.qos.t1.toNat)]
  | 0x3C => fields [(0, 16, s.qos.t3.toNat)]
  | 0x40 => fields [(0, 5, s.qos.latSel.toNat)]
  | 0x44 => fields [(0, 16, (Table.get 0 s.qos.latTarget s.qos.latSel.toNat).toNat)]
  | 0x48 => s.qos.scaleEvents
  | 0x4C => fields ((List.range s.variant.hostPorts).map (fun p => (2 * p, 2, ingLevel (s.ingHost p) 524288)))
  | 0x50 => fields ((List.range s.variant.fabPorts).map (fun p => (2 * p, 2, ingLevel (s.ingFab p) 1048576)))
  | _ => 0

/-! ## TIER, COMP, POD (R53, R92, R119, R203) -/

def State.readTier (s : State) (off : Nat) : Word :=
  let t := s.place
  let st := Table.get {} t.stallCount (t.stallWin.toNat * 8 + t.stallCause.toNat)
  match off with
  | 0x00 => fields [s.pendBit .tier]
  | 0x04 => fields [(0, 24, s.nearPool)]
  | 0x08 => fields [(0, 24, s.poolFree)]
  | 0x0C => fields [(0, 24, t.deepUsable)]
  | 0x10 => fields [(16, 10, t.highPm.toNat), (0, 10, t.lowPm.toNat)]
  | 0x14 => fields [(0, 16, t.hotThresh.toNat)]
  | 0x18 => fields [(0, 21, t.pins.length)]
  | 0x1C => fields [(0, 8, t.partySel.toNat)]
  | 0x20 => fields [(0, 21, s.pinLimitOf t.partySel)]
  | 0x24 => fields [(8, 3, t.stallCause.toNat), (0, 6, t.stallWin.toNat)]
  | 0x28 => st.events
  | 0x2C => lo32 st.counts.toNat
  | 0x30 => hi32 st.counts.toNat
  | 0x34 => t.tmapMisses
  | _ => 0

/-- The bank that BANK_SEL shows. -/
def Comp.shown (c : Comp) : Nat := if c.bankEgress then 1000 + c.bankSel.toNat else c.bankSel.toNat

def State.readComp (s : State) (off : Nat) : Word :=
  let c := s.comp
  let id := c.tableSel
  let x := s.hctxOf c.hctxSel.toNat
  let b := s.bank c.shown
  let k := s.core c.coreSel.toNat
  match off with
  | 0x00 => fields [s.pendBit .comp]
  | 0x04 => fields [(0, 17, c.tables.length)]
  | 0x08 => fields [(0, 16, id.toNat)]
  | 0x0C =>
    (match s.table id with
     | some e => fields [(8, 8, e.owner.toNat), (2, 1, natOf (c.pinned id)), (0, 2, if e.loadRef then 1 else 2)]
     | none => fields [(2, 1, natOf (c.pinned id))])
  | 0x10 => (match s.table id with | some e => word32 e.refs | none => 0)
  | 0x14 => (match s.table id with | some e => fields [(0, 16, e.queued)] | none => 0)
  | 0x18 => fields [(0, 8, c.hctxSel.toNat)]
  | 0x1C => fields [(8, 1, natOf x.owner.isSome), (0, 8, (x.owner.getD 0).toNat)]
  | 0x20 => c.crcFail
  | 0x24 => c.rereadOk
  | 0x28 => c.rebuildOk
  | 0x2C => c.poisonCnt
  | 0x30 => c.invalidCnt
  | 0x34 => c.rawEsc
  | 0x38 => c.huskWr
  | 0x3C => fields [(8, 1, natOf c.bankEgress), (0, 8, c.bankSel.toNat)]
  | 0x40 => fields [(16, 7, (b.slots.filter (fun y => !y.filling)).length), (8, 7, (b.slots.filter (fun y => b.pins y.id)).length),
                    (0, 5, b.queue.length)]
  | 0x44 => b.husks
  | 0x48 => b.raws
  | 0x4C => b.misses
  | 0x50 => fields [(0, 10, c.coreSel.toNat)]
  | 0x54 => lo32 k.dMiss.toNat
  | 0x58 => hi32 k.dMiss.toNat
  | 0x5C => lo32 k.dBusy.toNat
  | 0x60 => hi32 k.dBusy.toNat
  | 0x64 => fields ((List.range 16).map (fun n => (n, 1, natOf (!(Table.get [] c.engines n).isEmpty || (Table.find c.engBuild n).isSome))))
  | _ => 0

/-- (DEDUCED, assumption 68.) -/
def PodState.code : PodState → Nat
  | .free => 0 | .loading => 1 | .running => 2 | .saving => 3 | .resetting => 1 | .out => 0

/-- (DEDUCED, assumption 68.) -/
def State.readPod (s : State) (off : Nat) : Word :=
  let n := s.pods.podSel.toNat
  let p := s.pod n
  match off with
  | 0x00 => fields [s.pendBit .pod]
  | 0x04 => fields [(0, 22, s.pods.quantum.toNat)]
  | 0x08 => fields [(0, 7, ((List.range s.variant.pods).filter (fun i => decide ((s.pod i).state.code = 0) &&
      decide ((s.pod i).state ≠ .out))).length)]
  | 0x0C => fields [(0, 12, s.pods.queue.length)]
  | 0x10 => fields [(0, 7, n)]
  | 0x14 => fields [(24, 2, p.state.code), (8, 8, (p.party.getD 0).toNat), (0, 7, p.index.toNat)]
  | 0x18 => p.preempts
  | 0x1C => p.reexecs
  | 0x20 => p.switch
  | _ => 0

/-! ## TEN (R313) -/

def ExtKind.code : ExtKind → Nat | .pinnedNear => 0 | .pinnedDeep => 1 | .tiered => 2
def ExtState.code : ExtState → Nat | .owned => 1 | .revoking => 2 | .wiping => 3 | .unassigned => 4

/-- Requests of the in-flight set, in REVOKING (R313). -/
def State.extInflight (s : State) (h : Word) (e : Extent) : Nat :=
  match e.revokedAt with
  | some point => if e.state = .revoking then s.inflight h point none else 0
  | none => 0

def State.readTen (s : State) (off : Nat) : Word :=
  let t := s.ten
  let p := t.partySel
  let e := s.extent t.extSel
  match off with
  | 0x00 => fields [(1, 1, natOf t.isSealed), s.pendBit .ten]
  | 0x04 => fields [(0, 1, natOf t.force)]
  | 0x08 => fields [(0, 9, t.parties.length)]
  | 0x0C => word32 t.bootNonce.toNat
  | 0x10 => word32 (t.bootNonce.toNat / 2 ^ 32)
  | 0x14 => word32 (t.bootNonce.toNat / 2 ^ 64)
  | 0x18 => word32 (t.bootNonce.toNat / 2 ^ 96)
  | 0x1C => lo32 t.fmSeq.toNat
  | 0x20 => hi32 t.fmSeq.toNat
  | 0x24 => t.cmdAccepted
  | 0x28 => t.cmdRejected
  | 0x2C => fields [(0, 8, p.toNat)]
  | 0x30 => fields [(16, 11, (s.chan.chans.filter (fun c => decide (c.2.party = some p))).length), (8, 1, natOf (s.gpid p).isSome)]
  | 0x34 => (s.gpid p).getD 0
  | 0x38 => fields [(0, 16, t.extents.length)]
  | 0x3C => t.extSel
  | 0x40 => (match e with
    | some x => fields [(24, 8, (x.owner.getD 0).toNat), (16, 5, x.vslots), (8, 2, x.kind.code), (0, 3, x.state.code)]
    | none => 0)
  | 0x44 => (match e with | some x => fields [(0, 16, x.units)] | none => 0)
  | 0x48 => (match e with | some x => x.current | none => 0)
  | 0x4C => (match e with | some x => fields [(0, 7, x.grants.length)] | none => 0)
  | 0x50 => (match e with | some x => fields [(0, 16, s.extInflight t.extSel x)] | none => 0)
  | 0x54 => (match e with | some x => if x.state = .wiping then fields [(0, 22, s.wipeLeft x)] else 0 | none => 0)
  | 0x58 => t.vconflicts
  | 0x5C => t.revokedReqs
  | _ => 0

/-! ## FAB (R351) -/

def PortState.code : PortState → Nat | .down => 1 | .training => 2 | .auth => 3 | .up => 4 | .sleep => 5

/-- The partner's DID as its latest LSA shows it. -/
def State.peerDid (s : State) (x : FabPort) : Option (BitVec 12) :=
  if x.sealed then (s.lsaOf x.peerUid).bind (fun l => l.did) else none

def State.readFabPort (s : State) (p : Nat) (off : Nat) : Word :=
  let x := s.fport p
  match off with
  | 0x18 => fields [(3, 1, natOf x.sleepEn), (2, 1, natOf x.allowX2), (1, 1, natOf x.maxSpeed), (0, 1, natOf x.enable)]
  | 0x1C => fields [(16, 12, ((s.peerDid x).getD 0).toNat), (12, 1, natOf (s.peerDid x).isSome), (8, 1, natOf x.degraded),
                    (3, 2, x.rate), (0, 3, x.state.code)]
  | 0x20 => lo32 x.peerUid.toNat
  | 0x24 => hi32 x.peerUid.toNat
  | 0x28 => x.viol
  | 0x2C => x.replays
  | 0x30 => x.retrains
  | 0x34 => fields [(0, 16, x.rtt.toNat)]
  | _ => 0

def State.readFab (s : State) (off : Nat) : Word :=
  let f := s.fab
  let g := Table.get {} f.groups f.grpSel.toNat
  if 0x18 ≤ off ∧ off ≤ 0x34 then
    (if f.portSel.toNat < s.variant.fabPorts then s.readFabPort f.portSel.toNat off else 0)
  else match off with
    | 0x00 => fields [(4, 3, s.sec.uid.toNat % 8), (3, 1, natOf (s.isReady && decide (s.coordinator = s.sec.uid.toNat))),
                      (2, 1, natOf f.routesValid), (1, 1, natOf f.did.isSome), s.pendBit .fab]
    | 0x04 => fields [(0, 12, (f.did.getD 0).toNat)]
    | 0x08 => if s.isReady then lo32 s.coordinator else 0
    | 0x0C => if s.isReady then hi32 s.coordinator else 0
    | 0x10 => if s.isReady then fields [(0, 13, s.database.length)] else 0
    | 0x14 => fields [(0, 4, f.portSel.toNat)]
    | 0x38 => fields [(0, 13, f.life.toNat)]
    | 0x3C => fields [(0, 18, f.e2eWait.toNat)]
    | 0x40 => fields [(0, 3, f.tries.toNat)]
    | 0x44 => fields [(0, 8, f.escWait.toNat)]
    | 0x48 => f.reduceWait
    | 0x4C => fields [(0, 10, f.grpSel.toNat)]
    | 0x50 => fields [(31, 1, natOf g.valid), (16, 8, g.party.toNat), (0, 13, g.members.toNat)]
    | 0x54 => fields [(0, 12, g.rank.toNat)]
    | 0x58 => fields [(0, 12, f.memSel.toNat)]
    | 0x5C => fields [(0, 12, (g.did f.memSel.toNat).toNat)]
    | 0x60 => f.resends
    | 0x64 => f.expired
    | 0x68 => f.unreach
    | 0x6C => fields [(0, 17, f.dedup.length)]
    | _ => 0

/-! ## REL (R402, R425) -/

def StkState.code : StkState → Nat | .training => 1 | .ready => 2 | .selfRefresh => 3 | .reset => 4 | .failed => 5

/-- (DESIGN CHOICE, assumption 71.) -/
def State.readStack (s : State) (n : Nat) (off : Nat) : Word :=
  let x := s.stack n
  match off with
  | 0x104 => fields [(16, 8, x.temp.toNat), (8, 1, natOf x.hot), (0, 3, x.state.code)]
  | 0x108 => fields [(16, 1, natOf x.scrubEn), (0, 8, x.scrubHours.toNat)]
  | 0x10C => fields [(16, 16, x.passes.toNat), (0, 10, x.scrubPos * 1000 / passSectors n)]
  | 0x110 => fields [(16, 8, x.tempDelta.toNat), (0, 16, x.retrainInt.toNat)]
  | 0x114 => fields [(0, 10, x.mergeHold.toNat)]
  | 0x118 => fields [(0, 7, x.merge.length)]
  | 0x11C => x.ceSectors
  | 0x120 => x.ueSectors
  | 0x124 => x.scrubCe
  | 0x128 => x.scrubUe
  | 0x12C => x.retrains
  | 0x130 => x.refForced
  | 0x134 => x.mdcMisses
  | 0x138 => x.mergeFlush
  | 0x13C => x.mergeRmw
  | 0x140 => x.mergeWaits
  | 0x144 => fields [(0, 6, x.remaps.length)]
  | 0x148 => x.lostMask
  | 0x14C => x.resets
  | _ => 0

def State.readRel (s : State) (off : Nat) : Word :=
  let r := s.rel
  let sp := Table.get {} r.spills r.spillSel.toNat
  if 0x104 ≤ off then (if s.variant.hasStack r.stkSel.toNat then s.readStack r.stkSel.toNat off else 0)
  else match off with
    | 0x00 => fields [(2, 1, natOf r.changed), (1, 1, natOf (r.rebuilds.any (fun y => y.begun && !y.ended))), s.pendBit .rel]
    | 0x04 => fields [(0, 24, r.nearRes)]
    | 0x08 => fields [(0, 24, r.deepRes)]
    | 0x0C => fields [(4, 2, s.tierShown .deep), (0, 2, s.tierShown .near)]
    | 0x10 =>
      (match r.rebuilds.find? (fun y => y.begun && !y.ended) with
       | some y => fields [(16, 6, y.stack), (0, 10, s.freeField % 1000)]
       | none => 0)
    | 0x14 => fields [(0, 24, (s.retired .near).length)]
    | 0x18 => fields [(0, 24, (s.retired .deep).length)]
    | 0x1C => r.ctrlResets
    | 0x20 => r.podResets
    | 0x24 => r.unitResetCnt
    | 0x28 => r.excursions
    | 0x2C => fields [(0, 16, r.excursionMax.toNat)]
    | 0x30 => r.voteFix
    | 0x34 => r.voteFatal
    | 0x38 => fields [(0, 16, (s.ten.extents.filter (fun e => e.2.readOnly)).length)]
    | 0x3C => r.migrated
    | 0x40 => fields [(0, 4, r.spillSel.toNat)]
    | 0x44 => fields [(31, 1, natOf sp.valid), (16, 8, sp.party.toNat), (0, 12, sp.did.toNat)]
    | 0x48 => sp.handle
    | 0x4C => fields [(0, 22, sp.tracts.toNat)]
    | 0x50 => fields [(0, 22, sp.used.toNat)]
    | 0x100 => fields [(0, 6, r.stkSel.toNat)]
    | _ => 0

/-! ## SEC (R447) -/

/-- The object that OUT_SEL shows: the quote or a certificate. -/
def Sec.outBytes (c : Sec) : Bytes :=
  match c.outObj.toNat with
  | 0 => c.quote
  | 1 => c.certInt
  | 2 => c.certDev
  | _ => []

/-- One bit per firmware kind. -/
def State.kindBits (s : State) (lo : Nat) (f : FwKind → Bool) : List (Nat × Nat × Nat) :=
  (List.range 3).map (fun k => (lo + k, 1, natOf (f (s.fwKind k))))

def State.readSec (s : State) (off : Nat) : Word :=
  let c := s.sec
  match off with
  | 0x00 => fields [(3, 1, natOf c.dropped), (2, 1, natOf c.attReady), (1, 1, natOf c.cmdBusy), s.pendBit .sec]
  | 0x04 => fields [(16, 1, natOf c.debugOpen), (8, 1, natOf s.fmKey.isSome), (0, 3, lcCode s.lcState)]
  | 0x08 => fields [(2, 1, natOf (lockSet c.dbgLock)), (1, 1, natOf (lockSet c.fwLock)), (0, 1, natOf (lockSet c.lcLock))]
  | 0x0C => fields [(4, 2, c.cmdPort.toNat)]
  | 0x10 => lo32 c.cmdAddr.toNat
  | 0x14 => hi32 c.cmdAddr.toNat
  | 0x18 => fields [(0, 9, c.cmdBytes.toNat)]
  | 0x1C => lo32 c.dataAddr.toNat
  | 0x20 => hi32 c.dataAddr.toNat
  | 0x24 => fields [(0, 24, c.dataBytes.toNat)]
  | 0x28 => fields [(16, 8, c.lastOp.toNat), (0, 16, c.cmdStatus.toNat)]
  | 0x2C => lo32 s.fmKeyId
  | 0x30 => hi32 s.fmKeyId
  | 0x58 => fields [(16, 2, c.outObj.toNat), (0, 7, c.outWord.toNat)]
  | 0x5C => word32 (fieldAt c.outBytes (4 * c.outWord.toNat) 4)
  | 0x60 => fields (s.kindBits 16 (fun k => k.fallback) ++ s.kindBits 8 (fun k => k.a.staged || k.b.staged) ++ s.kindBits 0 (fun k => k.activeB))
  | 0x64 => fields [(16, 6, (s.fwKind 2).svnMin), (8, 6, (s.fwKind 1).svnMin), (0, 6, (s.fwKind 0).svnMin)]
  | 0x68 => fields [(8, 4, c.fwRevoked.toNat), (0, 4, c.rootRevoked.toNat)]
  | k => if 0x38 ≤ k ∧ k ≤ 0x54 then word32 (c.nonce.toNat / 2 ^ (32 * ((k - 0x38) / 4))) else 0

/-! ## EVT (R471) -/

def State.readEvt (s : State) (off : Nat) : Word :=
  let e := s.evt
  let j := s.journal e.jrnSel.toNat
  match off with
  | 0x00 => fields [(4, 1, natOf e.reject), (3, 1, natOf e.replay), (2, 1, natOf e.hold.isSome),
                    (1, 1, natOf (decide (genSize ≤ e.gen.length))), s.pendBit .evt]
  | 0x04 => fields [(16, 1, natOf e.hold.isSome), (0, 3, e.minSev.toNat)]
  | 0x08 => e.seqOld
  | 0x0C => e.seqNew
  | 0x10 => e.recSel
  | 0x14 => fields [(0, 2, e.recState.toNat)]
  | 0x38 => e.opSecs
  | 0x3C => fields [(0, 16, e.cycles.toNat)]
  | 0x40 => e.lost
  | 0x44 => e.filtered
  | 0x48 => fields [(0, 13, e.queued)]
  | 0x4C => fields [(0, 16, e.fatal.length)]
  | 0x50 => fields [(0, 21, e.gen.length)]
  | 0x54 => fields [(0, 10, e.jrnSel.toNat)]
  | 0x58 => fields [(31, 1, natOf j.en)]
  | 0x5C => j.handle
  | 0x60 => j.page
  | 0x64 => j.pages
  | 0x68 => fields [(1, 1, natOf j.stopped), (0, 1, natOf j.active)]
  | 0x6C => j.wraps
  | 0x70 => j.waits
  | 0x74 => fields [(0, 1, natOf e.replay)]
  | 0x78 => e.diverge
  | k => if 0x18 ≤ k ∧ k ≤ 0x34 then word32 (e.recData.toNat / 2 ^ (32 * ((k - 0x18) / 4))) else 0

/-! ## LCH (R271) -/

/-- Descriptors, window positions and cores that wait on a gate: those of MODE 2 until their start count is known,
GATE_WAITs once they have started. -/
def State.gateWaiters (s : State) (g : BitVec 8) : Nat :=
  (s.chan.descs.filter (fun e =>
    (decide (e.2.phase = .accepted) && decide (e.2.mode = 2) && decide (e.2.launchGate = g) && e.2.start.isNone) ||
     (decide (e.2.opcode = 0x31) && decide (e.2.phase = .started) && decide (e.2.openGate = g) &&
       !(s.gateMet g (BitVec.ofNat 32 (e.2.field 28 4)))))).length +
  (s.place.windows.map (fun w => ((List.range (w.2.requested - w.2.done)).filter (fun i =>
    (match w.2.entryOf (w.2.done + i) with | some y => decide (y.source = some g) | none => false) &&
      s.sourceClosed w.2 (w.2.done + i))).length)).foldl (· + ·) 0 +
  (s.pods.cores.filter (fun c => match c.2.wait with | .gwaitc k _ => decide (k = g) | _ => false)).length

def State.readLch (s : State) (off : Nat) : Word :=
  let g := s.clk.gateSel
  let x := s.gate g
  match off with
  | 0x00 => fields [s.pendBit .lch]
  | 0x04 => fields [(0, 8, g.toNat)]
  | 0x08 => fields [(16, 1, natOf (s.gateMet g x.t)), (8, 1, natOf x.owner.isSome), (0, 8, (x.owner.getD 0).toNat)]
  | 0x0C => x.c
  | 0x10 => x.t
  | 0x14 => lo32 x.openAt.toNat
  | 0x18 => hi32 x.openAt.toNat
  | 0x1C => fields [(0, 16, s.gateWaiters g)]
  | 0x20 => s.clk.launchLate
  | _ => 0

/-! ## The register file -/

/-- The word that a read of a block's register returns; 0 at an undefined offset (R496) and of an unreachable
block (R436).
(DESIGN CHOICE, assumption 116.) -/
def State.readReg (s : State) (b : Blk) (off : Nat) : Word :=
  if !(s.reachable b) then 0
  else match b with
    | .ident => s.readIdent off
    | .clk => s.readClk off
    | .host => s.readHost off
    | .chan => s.readChan off
    | .qos => s.readQos off
    | .tier => s.readTier off
    | .comp => s.readComp off
    | .fab => s.readFab off
    | .ten => s.readTen off
    | .rel => s.readRel off
    | .sec => s.readSec off
    | .evt => s.readEvt off
    | .win => s.readWin off
    | .pod => s.readPod off
    | .lch => s.readLch off

/-- The bytes of a word that byte enables address, the others 0 (R16). -/
def enabledBytes (be : BitVec 4) (w : Word) : Word :=
  (List.range 4).foldl (fun (a : Word) i => if be.getLsbD i then a ||| (w &&& (0xFF#32 <<< (8 * i))) else a) 0

/-- What a read of a BAR0 address returns: bits [23:16] name the block, [11:2] the register, so each page
repeats (R14, R495); above the last block 0 (R15); the addressed bytes of the register (R16). -/
def State.barValue (s : State) (addr : BitVec 24) (be : BitVec 4) : Word :=
  match regBlock addr with
  | none => 0
  | some b => enabledBytes be (s.readReg b (regOff addr))

end Sys2Proof.Machine
end

