-- ==== Sys2Proof/WellFormed.lean ====
section
/-! DEFINITION. Well-formed commands: the operands name units that the part has (R1, R94, R276, R381, R415,
R487). A command whose operands name none changes nothing (assumption 3). -/

namespace Sys2Proof

def Variant.okPod (v : Variant) (p : Nat) : Bool := decide (p < v.pods)
/-- Cores are numbered 8 × pod + core (R94). -/
def Variant.okCore (v : Variant) (c : Nat) : Bool := decide (c < 8 * v.pods)
def Variant.hasStackNo (v : Variant) (n : Nat) : Bool := v.hasStack n
def Variant.okHostPort (v : Variant) (p : Nat) : Bool := decide (p < v.hostPorts)
def Variant.okFabPort (v : Variant) (p : Nat) : Bool := decide (p < v.fabPorts)
def Variant.okBank (v : Variant) : BankRef → Bool
  | .pod n => decide (n < 2 * v.pods)
  | .egress n => decide (n < 8)
/-- WAKE_IN, THROTTLE_N, FM_ALERT_N and one PERST# for each host port (R487). -/
def Variant.okSide (v : Variant) (n : Nat) : Bool := decide (n < 3 + v.hostPorts)
/-- Pseudo-channels of a stack: 32 near, 8 deep (R381). -/
def okPc (stack pc : Nat) : Bool := decide (pc < if stack < 12 then 32 else 8)
/-- Banks of a pseudo-channel (R381). -/
def okDramBank (b : Nat) : Bool := decide (b < 64)
def okEngine (n : Nat) : Bool := decide (n < 16)
def okUnit : UnitKind → Nat → Bool
  | .mover, n => decide (n < 64)
  | .encoder, n => decide (n < 16)
  | .egress, n => decide (n < 8)
  | .placement, n => decide (n = 0)
  | .scanner, n => decide (n = 0)
  | .pip, n => decide (n = 0)
/-- The 64 sectors of a 4 KiB slot (R382). -/
def okSector (n : Nat) : Bool := decide (n < 64)
/-- Sources of memory requests (R283): host ports, fabric ports, pods, movers, and maintenance. -/
def okSource (n : Nat) : Bool := decide (n < 23)
def okReq (r : StackReq) : Bool := okSource r.source && decide (r.sectors ≤ 64)

/-- The operands of a command name units that part `v` has. -/
def Instr.wf (v : Variant) (i : Instr) : Bool :=
  match i with
  | .copyStored _ _ => true
  | .copyPlain _ _ => true
  | .encode _ _ => true
  | .decode _ => true
  | .promote _ => true
  | .evict _ => true
  | .pin _ => true
  | .unpin _ => true
  | .windowInstall _ _ => true
  | .windowRelease _ => true
  | .windowRemove _ => true
  | .publish _ _ => true
  | .fetchVersion _ => true
  | .launch _ _ => true
  | .reduceScatter _ => true
  | .allReduce _ => true
  | .load _ _ => true
  | .build _ => true
  | .buildRun _ => true
  | .drop _ => true
  | .fence _ => true
  | .gateWait _ => true
  | .gateOpenAdd _ => true
  | .gateOpenArm _ => true
  | .beginNative _ => true
  | .endNative _ => true
  | .caps _ => true
  | .extentCreate _ _ => true
  | .setOwner _ _ => true
  | .grant _ _ => true
  | .revokeOwner _ _ => true
  | .revokeGrant _ _ => true
  | .destroy _ _ => true
  | .extentWipe _ _ => true
  | .bindParty _ _ => true
  | .unparty _ _ => true
  | .bindChannel _ _ => true
  | .bindGate _ _ => true
  | .extentWatch _ _ => true
  | .doorbellPoll _ => true
  | .doorbellInvalidation _ => true
  | .doorbellReadReturn _ _ _ => true
  | .descriptorAccept _ _ => true
  | .descriptorStart _ => true
  | .descriptorComplete _ => true
  | .msixHoldoffEnd _ => true
  | .xbufGrant _ => true
  | .xbufRelease _ => true
  | .channelEnable _ => true
  | .channelDisable _ => true
  | .channelDrained _ => true
  | .gateCountEnd => true
  | .enterIdle => true
  | .enterDoze => true
  | .wakeStart _ => true
  | .wakeEnd => true
  | .launchWakeTimer => true
  | .wakeAtTimer => true
  | .refSwitch _ => true
  | .programStart => true
  | .quantumExpiry _ => true
  | .contextSaveEnd _ => true
  | .programRestore => true
  | .programEnd _ => true
  | .podReset pod => v.okPod pod
  | .podResetEnd pod _ => v.okPod pod
  | .add c _ _ _ => v.okCore c
  | .sub c _ _ _ => v.okCore c
  | .and c _ _ _ => v.okCore c
  | .or c _ _ _ => v.okCore c
  | .xor c _ _ _ => v.okCore c
  | .sll c _ _ _ => v.okCore c
  | .srl c _ _ _ => v.okCore c
  | .sra c _ _ _ => v.okCore c
  | .slt c _ _ _ => v.okCore c
  | .sltu c _ _ _ => v.okCore c
  | .min c _ _ _ => v.okCore c
  | .max c _ _ _ => v.okCore c
  | .minu c _ _ _ => v.okCore c
  | .maxu c _ _ _ => v.okCore c
  | .mul c _ _ _ => v.okCore c
  | .mulh c _ _ _ => v.okCore c
  | .mulhu c _ _ _ => v.okCore c
  | .divu c _ _ _ => v.okCore c
  | .remu c _ _ _ => v.okCore c
  | .clz c _ _ => v.okCore c
  | .popc c _ _ => v.okCore c
  | .ctz c _ _ => v.okCore c
  | .addi c _ _ _ => v.okCore c
  | .andi c _ _ _ => v.okCore c
  | .ori c _ _ _ => v.okCore c
  | .xori c _ _ _ => v.okCore c
  | .shi c _ _ _ => v.okCore c
  | .slti c _ _ _ => v.okCore c
  | .sltiu c _ _ _ => v.okCore c
  | .movz c _ _ _ => v.okCore c
  | .movk c _ _ _ => v.okCore c
  | .beq c _ _ _ => v.okCore c
  | .bne c _ _ _ => v.okCore c
  | .blt c _ _ _ => v.okCore c
  | .bge c _ _ _ => v.okCore c
  | .bltu c _ _ _ => v.okCore c
  | .bgeu c _ _ _ => v.okCore c
  | .jal c _ => v.okCore c
  | .jalr c _ _ _ => v.okCore c
  | .ld c _ _ _ _ => v.okCore c
  | .st c _ _ _ _ => v.okCore c
  | .vld c _ _ _ _ => v.okCore c
  | .vst c _ _ _ _ => v.okCore c
  | .tld c _ _ _ _ => v.okCore c
  | .tst c _ _ _ _ => v.okCore c
  | .amoadd c _ _ _ => v.okCore c
  | .amoswap c _ _ _ => v.okCore c
  | .amocas c _ _ _ => v.okCore c
  | .amoand c _ _ _ => v.okCore c
  | .amoor c _ _ _ => v.okCore c
  | .amomax c _ _ _ => v.okCore c
  | .vadd c _ _ _ => v.okCore c
  | .vsub c _ _ _ => v.okCore c
  | .vmul c _ _ _ => v.okCore c
  | .vmin c _ _ _ => v.okCore c
  | .vmax c _ _ _ => v.okCore c
  | .vabs c _ _ => v.okCore c
  | .vneg c _ _ => v.okCore c
  | .vdiv c _ _ _ => v.okCore c
  | .vsqrt c _ _ => v.okCore c
  | .vrcp c _ _ => v.okCore c
  | .vrsqrt c _ _ => v.okCore c
  | .vexp2 c _ _ => v.okCore c
  | .vlog2 c _ _ => v.okCore c
  | .vcmpeq c _ _ _ => v.okCore c
  | .vcmplt c _ _ _ => v.okCore c
  | .vcmple c _ _ _ => v.okCore c
  | .vfma c _ _ _ _ _ => v.okCore c
  | .iadd c _ _ _ => v.okCore c
  | .isub c _ _ _ => v.okCore c
  | .imul c _ _ _ => v.okCore c
  | .iand c _ _ _ => v.okCore c
  | .ior c _ _ _ => v.okCore c
  | .ixor c _ _ _ => v.okCore c
  | .isll c _ _ _ => v.okCore c
  | .isrl c _ _ _ => v.okCore c
  | .isra c _ _ _ => v.okCore c
  | .imin c _ _ _ => v.okCore c
  | .imax c _ _ _ => v.okCore c
  | .icmpeq c _ _ _ => v.okCore c
  | .icmplt c _ _ _ => v.okCore c
  | .cvtif c _ _ => v.okCore c
  | .cvtfi c _ _ => v.okCore c
  | .vcvt c _ _ _ _ _ => v.okCore c
  | .fsum c _ _ => v.okCore c
  | .fmax c _ _ => v.okCore c
  | .fmin c _ _ => v.okCore c
  | .isum c _ _ => v.okCore c
  | .vmov c _ _ => v.okCore c
  | .vbcast c _ _ => v.okCore c
  | .vext c _ _ _ => v.okCore c
  | .vins c _ _ _ => v.okCore c
  | .vsel c _ _ _ _ => v.okCore c
  | .vshuf c _ _ _ => v.okCore c
  | .vzero c _ => v.okCore c
  | .mma c _ _ _ _ _ _ _ _ _ _ => v.okCore c
  | .matrixOpStart c => v.okCore c
  | .matrixOpEnd c => v.okCore c
  | .tzero c _ => v.okCore c
  | .trdr c _ _ _ => v.okCore c
  | .twrr c _ _ _ => v.okCore c
  | .trsc c _ _ => v.okCore c
  | .sopen c _ _ => v.okCore c
  | .sclose c => v.okCore c
  | .spop c _ => v.okCore c
  | .sstat c _ => v.okCore c
  | .bget c _ _ _ => v.okCore c
  | .bput c _ _ _ => v.okCore c
  | .bpute c _ _ _ => v.okCore c
  | .bwait c _ => v.okCore c
  | .blockRequestComplete c => v.okCore c
  | .syncFence c => v.okCore c
  | .pbar c _ => v.okCore c
  | .pbarEnd pod _ => v.okPod pod
  | .gcomp c _ => v.okCore c
  | .gwaitc c _ _ => v.okCore c
  | .gwaitcResume c => v.okCore c
  | .gcnt c _ _ => v.okCore c
  | .waitl c _ => v.okCore c
  | .waitlResume c => v.okCore c
  | .rdlcnt c _ => v.okCore c
  | .nop c => v.okCore c
  | .halt c => v.okCore c
  | .trap c _ => v.okCore c
  | .rngnext c _ => v.okCore c
  | .csrr c _ _ => v.okCore c
  | .csrw c _ _ => v.okCore c
  | .instructionFetchMiss c => v.okCore c
  | .slotFillEnd bank _ => v.okBank bank
  | .bankIngestEnd bank _ => v.okBank bank
  | .blockDecoded bank => v.okBank bank
  | .encoderBlockEnd engine => okEngine engine
  | .mempathCrcFailure _ _ => true
  | .rereadResult _ _ _ => true
  | .parityRebuildResult _ _ _ => true
  | .pressureEvictionStart => true
  | .hotPromotion _ _ => true
  | .promotionCopyEnd _ _ => true
  | .writeBackEnd _ _ => true
  | .tmapFetchEnd _ _ => true
  | .windowPromotionStart _ => true
  | .windowPinRetry _ => true
  | .regulationBoundary => true
  | .stackRequestArrival stack req => v.hasStackNo stack && okReq req
  | .activationStart stack source _ => v.hasStackNo stack && okSource source
  | .stackRequestComplete stack source => v.hasStackNo stack && okSource source
  | .refresh stack pc bank => v.hasStackNo stack && okPc stack pc && okDramBank bank
  | .pcRetrain stack pc => v.hasStackNo stack && okPc stack pc
  | .pcRetrainEnd stack pc _ => v.hasStackNo stack && okPc stack pc
  | .mergeWrite stack _ sector source _ _ => v.hasStackNo stack && okSector sector && okSource source
  | .mergeHoldExpiry stack _ sector => v.hasStackNo stack && okSector sector
  | .mergeFlushEnd stack _ sector => v.hasStackNo stack && okSector sector
  | .scrubStep stack _ => v.hasStackNo stack
  | .rowRemapEnd stack _ => v.hasStackNo stack
  | .stripeRetirementEnd _ _ => true
  | .rebuildEnd stack => v.hasStackNo stack
  | .controllerReset stack _ => v.hasStackNo stack
  | .controllerResetEnd stack => v.hasStackNo stack
  | .unitReset unit inst _ => okUnit unit inst
  | .unitResetEnd unit inst => okUnit unit inst
  | .reclaimMoveEnd _ _ => true
  | .revocationDrained _ => true
  | .wipeEnd _ => true
  | .publishCommit _ => true
  | .readerTimeout _ _ _ => true
  | .trainingDone port _ _ _ => v.okFabPort port
  | .trainingTimeout port => v.okFabPort port
  | .hello port _ => v.okFabPort port
  | .cert port _ => v.okFabPort port
  | .helloSig port _ => v.okFabPort port
  | .authBackoffEnd port => v.okFabPort port
  | .sleepReq port => v.okFabPort port
  | .sleepAck port => v.okFabPort port
  | .linkWake port => v.okFabPort port
  | .linkRetrain port => v.okFabPort port
  | .dataFlit port _ => v.okFabPort port
  | .idleFlit port _ => v.okFabPort port
  | .degradedBackoffEnd port => v.okFabPort port
  | .lsaOriginate => true
  | .pktLsa port _ => v.okFabPort port
  | .lsaExpiry _ => true
  | .didAssignment => true
  | .pktDidAssign port _ => v.okFabPort port
  | .routeRecompute => true
  | .packetForward port _ _ _ => v.okFabPort port
  | .escapeTimeout _ => true
  | .pktRead pkt => v.okFabPort pkt.port
  | .pktWrite pkt => v.okFabPort pkt.port
  | .pktGate pkt => v.okFabPort pkt.port
  | .pktPublish pkt => v.okFabPort pkt.port
  | .pktVersion pkt => v.okFabPort pkt.port
  | .pktRedReady pkt => v.okFabPort pkt.port
  | .pktRedCounts pkt => v.okFabPort pkt.port
  | .pktRedAbort pkt => v.okFabPort pkt.port
  | .pktHold pkt => v.okFabPort pkt.port
  | .pktResponse pkt => v.okFabPort pkt.port
  | .holdTimer _ _ => true
  | .e2eResend _ => true
  | .dedupExpiry _ _ => true
  | .reduceWaitExpiry _ => true
  | .hotReset port => v.okHostPort port
  | .functionLevelReset port => v.okHostPort port
  | .hostLinkUp port _ => v.okHostPort port
  | .hostLinkDown port _ => v.okHostPort port
  | .powerstateWrite port _ => v.okHostPort port
  | .atsInvalidation port _ _ => v.okHostPort port
  | .hostReadCompletion port _ _ _ => v.okHostPort port
  | .cplTimeout port _ _ => v.okHostPort port
  | .msixUnmask port _ => v.okHostPort port
  | .unsupportedRequest port => v.okHostPort port
  | .malformedTlp port => v.okHostPort port
  | .poisonedTlp port => v.okHostPort port
  | .unexpectedCompletion port => v.okHostPort port
  | .memrd port _ _ _ => v.okHostPort port
  | .memwr port _ _ _ => v.okHostPort port
  | .memwrptl port _ _ _ _ => v.okHostPort port
  | .bisnpAck port _ _ _ => v.okHostPort port
  | .dirtyWriteback port _ _ _ => v.okHostPort port
  | .winSwitchGo => true
  | .epochDrainEnd => true
  | .hportRetrain port => v.okHostPort port
  | .attGo => true
  | .quoteReady => true
  | .provision _ => true
  | .enterField _ => true
  | .leaveField _ => true
  | .release _ => true
  | .returnCmd _ => true
  | .stage _ _ => true
  | .svnCommit _ => true
  | .revokeKey _ => true
  | .reset _ _ => true
  | .activate _ => true
  | .moduleReset _ _ => true
  | .locallyReady => true
  | .debugOpen => true
  | .recordCloseTimer => true
  | .recordCommit => true
  | .opSecondsCheckpoint => true
  | .evtHold => true
  | .holdExpiry => true
  | .recSel _ => true
  | .journalEnable _ => true
  | .journalPageWrite _ => true
  | .replayMode => true
  | .replayAccept _ => true
  | .standbyPowerApplied _ _ => true
  | .inputGood => true
  | .staggerSlotStart => true
  | .railStep => true
  | .railTimeout => true
  | .inputLoss => true
  | .overvoltage => true
  | .overTemperature => true
  | .coolantLoss => true
  | .stopReturn _ => true
  | .selfTestEnd _ => true
  | .powerSample _ _ _ _ _ _ _ _ => true
  | .sidebandChange sig _ => v.okSide sig
  | .coalesceEnd sig => v.okSide sig
  | .inputStuck sig => v.okSide sig
  | .stuckExamine sig => v.okSide sig
  | .scratchWrite port _ _ => v.okHostPort port
  | .groupConfigure => true
  | .registerWrite port _ _ _ => v.okHostPort port
  | .controllerResetTimeout stack => v.hasStackNo stack
  | .stackTrainingEnd => true
  | .memoryWipeEnd => true
  | .standbyPowerLoss => true
  | .programLoadEnd _ => true
  | .registerApply _ => true
  | .atsEnableClear port => v.okHostPort port
  | .undefinedOpcode c _ => v.okCore c
  | .completerAbort port _ => v.okHostPort port

/-- As a proposition. -/
abbrev Instr.WellFormed (v : Variant) (i : Instr) : Prop := i.wf v = true

end Sys2Proof
end

