-- ==== Sys2Proof/Safety.lean ====
section
/-! DEFINITION. What a safe run is, in the terms the statements use: a step that answers a next state. No
command of this hardware ends in a fault (assumption 4). -/

namespace Sys2Proof.Machine

/-- The command answers a next state. -/
def completes (i : Instr) (s : State) : Prop := ∃ t, exec i s = .next t

/-- A step answers a next state. -/
def safe (s : State) : Prop := ∃ t, step s = .next t

end Sys2Proof.Machine
end

