-- ==== Sys2Proof/Certificates/Slice0/Obligations.lean ====
section
/-! DEFINITION. The statements for the provers. Each `Obligations.<Name>` formalises rules of spec/ or follows from
them; OBLIGATIONS.json gives its tier, its rules and its words. Helpers that several statements share stand first,
in the namespace `Sys2Proof.Claims`; they use the model's own reads and writes of the state. -/

namespace Sys2Proof.Claims

open Sys2Proof.Machine

/-! ## Reading a clause -/

/-- The command answers this state. -/
def Goes (i : Instr) (s t : State) : Prop := exec i s = .next t

/-- The command answers a state of which `P` holds. -/
def Reaches (i : Instr) (s : State) (P : State → Prop) : Prop := ∃ t, exec i s = .next t ∧ P t

/-! ## Cores (chapter 4) -/

/-- Core `c` can issue the instruction at its PC: it runs, has not halted, waits for nothing, the word at PC lies
in segment 0 and its line is in the instruction buffer (R130, R135, R163); and no MMA in its unit waits for stream bytes
that are not readable yet, so that none may still fault (R152). -/
def Issues (s : State) (c : Nat) : Prop :=
  (s.core c).running = true ∧ (s.core c).halted = false ∧ (s.core c).wait = .none ∧
    (s.core c).pc.toNat + 4 ≤ (s.segOf c 0).limit.toNat ∧ (s.core c).ibuf.contains ((s.core c).pc.toNat / 1024) = true ∧
    (s.core c).unsure = false


end Sys2Proof.Claims
namespace Sys2Proof.Claims

open Sys2Proof.Machine

/-- Scalar operand: s0 reads 0 (R123). -/
def sr (s : State) (c : Nat) (r : BitVec 5) : DWord := (s.core c).sreg r
/-- Vector operand. -/
def vr (s : State) (c : Nat) (r : BitVec 5) : BitVec 512 := (s.core c).vreg r

/-- `s` after core `c` wrote scalar `rd` and retired; everything else as before. -/
def scalarDone (s : State) (c : Nat) (rd : BitVec 5) (v : DWord) : State :=
  s.setCore c (((s.core c).setS rd v).retire)

/-- `s` after core `c` wrote vector `vd`, added flags and retired; everything else as before. -/
def vectorDone (s : State) (c : Nat) (vd : BitVec 5) (v : BitVec 512) (flags : BitVec 5) : State :=
  s.setCore c ((((s.core c).setV vd v).flag flags).retire)

/-- Number of positions from the first listed on that hold a 0 before the first 1. -/
def zerosBefore (a : DWord) (ix : List Nat) : Nat := (ix.takeWhile (fun i => !a.getLsbD i)).length

/-- The register-register operations of R133 over numbers. -/
def aluOps : List ((Nat → BitVec 5 → BitVec 5 → BitVec 5 → Instr) × (DWord → DWord → DWord)) :=
  [(.add, fun a b => BitVec.ofNat 64 (a.toNat + b.toNat)),
   (.sub, fun a b => BitVec.ofInt 64 (a.toInt - b.toInt)),
   (.and, fun a b => a &&& b),
   (.or, fun a b => a ||| b),
   (.xor, fun a b => a ^^^ b),
   (.sll, fun a b => BitVec.ofNat 64 (a.toNat * 2 ^ (b.toNat % 64))),
   (.srl, fun a b => BitVec.ofNat 64 (a.toNat / 2 ^ (b.toNat % 64))),
   (.sra, fun a b => BitVec.ofInt 64 (a.toInt / 2 ^ (b.toNat % 64))),
   (.slt, fun a b => if a.toInt < b.toInt then 1 else 0),
   (.sltu, fun a b => if a.toNat < b.toNat then 1 else 0),
   (.min, fun a b => BitVec.ofInt 64 (min a.toInt b.toInt)),
   (.max, fun a b => BitVec.ofInt 64 (max a.toInt b.toInt)),
   (.minu, fun a b => BitVec.ofNat 64 (min a.toNat b.toNat)),
   (.maxu, fun a b => BitVec.ofNat 64 (max a.toNat b.toNat)),
   (.mul, fun a b => BitVec.ofNat 64 (a.toNat * b.toNat)),
   (.mulh, fun a b => BitVec.ofInt 64 (a.toInt * b.toInt / 2 ^ 64)),
   (.mulhu, fun a b => BitVec.ofNat 64 (a.toNat * b.toNat / 2 ^ 64)),
   (.divu, fun a b => if b.toNat = 0 then BitVec.ofNat 64 (2 ^ 64 - 1) else BitVec.ofNat 64 (a.toNat / b.toNat)),
   (.remu, fun a b => if b.toNat = 0 then a else BitVec.ofNat 64 (a.toNat % b.toNat))]

/-- The one-operand operations of R133. -/
def aluOps1 : List ((Nat → BitVec 5 → BitVec 5 → Instr) × (DWord → DWord)) :=
  [(.clz, fun a => BitVec.ofNat 64 (zerosBefore a ((List.range 64).map (fun i => 63 - i)))),
   (.ctz, fun a => BitVec.ofNat 64 (zerosBefore a (List.range 64))),
   (.popc, fun a => BitVec.ofNat 64 ((List.range 64).countP (fun i => a.getLsbD i)))]

/-- The immediate operations of R134, but for SHI and the moves. -/
def immOps : List ((Nat → BitVec 5 → BitVec 5 → BitVec 16 → Instr) × (DWord → BitVec 16 → DWord)) :=
  [(.addi, fun a k => BitVec.ofInt 64 (a.toInt + k.toInt)),
   (.andi, fun a k => a &&& BitVec.ofNat 64 k.toNat),
   (.ori, fun a k => a ||| BitVec.ofNat 64 k.toNat),
   (.xori, fun a k => a ^^^ BitVec.ofNat 64 k.toNat),
   (.slti, fun a k => if a.toInt < k.toInt then 1 else 0),
   (.sltiu, fun a k => if a.toNat < (BitVec.ofInt 64 k.toInt).toNat then 1 else 0)]

/-- The conditional branches of R135. -/
def branchOps : List ((Nat → BitVec 5 → BitVec 5 → BitVec 16 → Instr) × (DWord → DWord → Bool)) :=
  [(.beq, fun a b => decide (a.toNat = b.toNat)),
   (.bne, fun a b => decide (a.toNat ≠ b.toNat)),
   (.blt, fun a b => decide (a.toInt < b.toInt)),
   (.bge, fun a b => decide (b.toInt ≤ a.toInt)),
   (.bltu, fun a b => decide (a.toNat < b.toNat)),
   (.bgeu, fun a b => decide (b.toNat ≤ a.toNat))]

/-- `s` after core `c` retired with its PC at `pc`. -/
def jumpDone (s : State) (c : Nat) (x : Core) (pc : Word) : State := s.setCore c (x.goto pc)

end Sys2Proof.Claims

open Sys2Proof Sys2Proof.Machine Sys2Proof.Claims

/-- R123: s0 reads as 0 and discards writes; every other scalar register reads what was last written to it; writing
one scalar register changes no other, and no vector or tile register, PC or flag. -/
def Obligations.ScalarRegisterZero : Prop :=
  ∀ (x : Core) (r q : BitVec 5) (v : DWord),
    x.sreg 0 = 0 ∧ (x.setS 0 v) = x ∧ (r ≠ 0 → (x.setS r v).sreg r = v) ∧ (q ≠ r → (x.setS r v).sreg q = x.sreg q) ∧
    (∀ k : BitVec 5, (x.setS r v).vreg k = x.vreg k) ∧ (∀ k : BitVec 3, (x.setS r v).tile k = x.tile k) ∧
    (x.setS r v).pc = x.pc ∧ (x.setS r v).fflags = x.fflags

/-- R133, R134: a scalar operation of two registers, of one register, or of a register and an immediate writes its result to rd
and retires; imm16 is sign-extended for ADDI, SLTI and SLTIU and zero-extended for the logic ones; SHI shifts by imm[5:0]
with the type imm[7:6], ILLEGAL for an undefined one; MOVZ writes imm16 shifted by 16 hw, MOVK replaces that halfword.
Nothing else changes. -/
def Obligations.ScalarAluResults : Prop :=
  ((∀ p ∈ aluOps, ∀ (c : Nat) (rd ra rb : BitVec 5) (s : State), Issues s c →
     exec (p.1 c rd ra rb) s = .next (scalarDone s c rd (p.2 (sr s c ra) (sr s c rb)))) ∧
   (∀ p ∈ aluOps1, ∀ (c : Nat) (rd ra : BitVec 5) (s : State), Issues s c →
     exec (p.1 c rd ra) s = .next (scalarDone s c rd (p.2 (sr s c ra))))) ∧
  ((∀ p ∈ immOps, ∀ (c : Nat) (rd ra : BitVec 5) (imm : BitVec 16) (s : State), Issues s c →
     exec (p.1 c rd ra imm) s = .next (scalarDone s c rd (p.2 (sr s c ra) imm))) ∧
   (∀ (c : Nat) (rd ra : BitVec 5) (imm : BitVec 16) (s : State), Issues s c → imm.toNat < 192 →
     exec (.shi c rd ra imm) s = .next (scalarDone s c rd
       (if imm.toNat / 64 = 0 then BitVec.ofNat 64 ((sr s c ra).toNat * 2 ^ (imm.toNat % 64))
        else if imm.toNat / 64 = 1 then BitVec.ofNat 64 ((sr s c ra).toNat / 2 ^ (imm.toNat % 64))
        else BitVec.ofInt 64 ((sr s c ra).toInt / 2 ^ (imm.toNat % 64))))) ∧
   (∀ (c : Nat) (rd ra : BitVec 5) (imm : BitVec 16) (s : State), Issues s c → 192 ≤ imm.toNat →
     exec (.shi c rd ra imm) s = .next (s.fault c 0x01 0)) ∧
   (∀ (c : Nat) (rd : BitVec 5) (hw : BitVec 2) (imm : BitVec 16) (s : State), Issues s c →
     exec (.movz c rd hw imm) s = .next (scalarDone s c rd (BitVec.ofNat 64 (imm.toNat * 65536 ^ hw.toNat)))) ∧
   (∀ (c : Nat) (rd : BitVec 5) (hw : BitVec 2) (imm : BitVec 16) (s : State), Issues s c →
     ∃ v : DWord, exec (.movk c rd hw imm) s = .next (scalarDone s c rd v) ∧
       ∀ i : Nat, i < 64 → v.getLsbD i =
         (if i / 16 = hw.toNat then imm.getLsbD (i % 16) else (sr s c rd).getLsbD i)))

/-- R135: a branch whose condition holds goes to PC + 4 × its offset, else to PC + 4; JAL writes PC + 4 to s31 and
JALR to rd, and go to their targets. Nothing else changes. -/
def Obligations.BranchesAndJumps : Prop :=
  (∀ p ∈ branchOps, ∀ (c : Nat) (ra rb : BitVec 5) (off : BitVec 16) (s : State), Issues s c →
    exec (p.1 c ra rb off) s = .next (jumpDone s c (s.core c)
      (if p.2 (sr s c ra) (sr s c rb) then BitVec.ofInt 32 ((s.core c).pc.toInt + 4 * off.toInt)
       else (s.core c).pc + 4))) ∧
  (∀ (c : Nat) (off : BitVec 26) (s : State), Issues s c →
    exec (.jal c off) s = .next (jumpDone s c ((s.core c).setS 31 (((s.core c).pc + 4).setWidth 64))
      (BitVec.ofInt 32 ((s.core c).pc.toInt + 4 * off.toInt)))) ∧
  (∀ (c : Nat) (rd ra : BitVec 5) (imm : BitVec 16) (s : State), Issues s c →
    (sr s c ra + BitVec.ofInt 64 imm.toInt).toNat < 2 ^ 32 →
    exec (.jalr c rd ra imm) s = .next (jumpDone s c ((s.core c).setS rd (((s.core c).pc + 4).setWidth 64))
      (BitVec.ofNat 32 ((sr s c ra + BitVec.ofInt 64 imm.toInt).toNat / 4 * 4))))
namespace Sys2Proof.Claims

open Sys2Proof.Machine

/-- Address of a load or store: base plus displacement × access size, modulo 2^64 (R136). -/
def ea (s : State) (c : Nat) (ra : BitVec 5) (disp : BitVec 13) (size : Nat) : DWord :=
  BitVec.ofInt 64 ((sr s c ra).toInt + disp.toInt * size)

/-- The access passes R126's checks in a SCRATCH or POD segment and lands at pod-store byte `k`. -/
def LandsAt (s : State) (c : Nat) (a : DWord) (size align k : Nat) : Prop :=
  s.localAt c a size align [1, 2] = .ok k

/-- No position touched is poisoned, and no incomplete block request of the pod touches the bytes (R129, R137). -/
def Calm (s : State) (c k n : Nat) : Prop := s.poisonAt k n = false ∧ s.racy (podOf c) k n = false

/-- No open stream of the pod reads the bytes (R129). -/
def Still (s : State) (c k n : Nat) : Prop := s.liveSource (podOf c) k n = false

/-- Every byte has a meaning: none lies beyond the sectors of a husk (R137). -/
def Meant (s : State) (k n : Nat) : Prop := ∀ i, i < n → s.beyond (k + i) = false

/-- What LD writes for the `n` bytes it read, by sz (R136). -/
def loaded (sz : BitVec 3) (bs : Bytes) : DWord :=
  if sz.toNat < 4 then BitVec.ofNat 64 (leNat bs) else BitVec.ofInt 64 ((BitVec.ofNat (8 * bs.length) (leNat bs)).toInt)

/-- Bytes of an LD or ST by its sz: 1, 2, 4 or 8. -/
def size (sz : BitVec 3) : Nat := 2 ^ (sz.toNat % 4)

/-- Core `c` retired a store of `bs` at pod-store byte `k`: the bytes stored, the positions touched raw, every other
position and its bytes as before (of a touched position that held a husk, the bytes not stored have no meaning),
and no other core, register or part of the state changed, table references apart. -/
def StoredAt (s t : State) (c k : Nat) (bs : Bytes) (x : Core) : Prop :=
  (∀ i, i < bs.length → Store.byte t.pods.mem (k + i) = bs.getD i 0) ∧
  (∀ a, a < k ∨ k + bs.length ≤ a → (k / 4096 ≤ a / 4096 ∧ a / 4096 ≤ (k + bs.length - 1) / 4096 → mwTag (s.posWord a) = 0x3F) →
    Store.byte t.pods.mem a = Store.byte s.pods.mem a) ∧
  (∀ a, k / 4096 ≤ a / 4096 → a / 4096 ≤ (k + bs.length - 1) / 4096 → t.posWord a = 0x3F) ∧
  (∀ a, a / 4096 < k / 4096 ∨ (k + bs.length - 1) / 4096 < a / 4096 → t.posWord a = s.posWord a) ∧
  t.core c = x ∧ (∀ j, j ≠ c → t.core j = s.core j) ∧
  t = { s with pods := t.pods, comp := t.comp, free := t.free } ∧
  t.pods = { s.pods with mem := t.pods.mem, words := t.pods.words, cores := t.pods.cores }

/-- The atomics of R139: memory's new value from its old one, rd's value before, and rb; none where nothing is
written. -/
def amoOps : List ((Nat → BitVec 5 → BitVec 5 → BitVec 5 → Instr) × (DWord → DWord → DWord → Option DWord)) :=
  [(.amoadd, fun o _ b => some (BitVec.ofNat 64 (o.toNat + b.toNat))),
   (.amoswap, fun _ _ b => some b),
   (.amocas, fun o d b => if o = d then some b else none),
   (.amoand, fun o _ b => some (o &&& b)),
   (.amoor, fun o _ b => some (o ||| b)),
   (.amomax, fun o _ b => some (BitVec.ofInt 64 (max o.toInt b.toInt)))]

/-- The eight bytes of a doubleword, lowest first. -/
def bytes8 (v : DWord) : Bytes := leBytes 8 v.toNat

end Sys2Proof.Claims

/-- R136, R137, R138: LD, VLD and TLD return the stored bytes, zero- or sign-extended as sz says, a tile row by row;
they retire and change nothing else. -/
def Obligations.LoadResults : Prop :=
  (∀ (c : Nat) (rt ra : BitVec 5) (sz : BitVec 3) (disp : BitVec 13) (s : State) (k : Nat), Issues s c → sz.toNat < 7 →
    LandsAt s c (ea s c ra disp (size sz)) (size sz) (size sz) k → Calm s c k (size sz) → Meant s k (size sz) →
    exec (.ld c rt ra sz disp) s = .next (scalarDone s c rt (loaded sz (Store.read s.pods.mem k (size sz))))) ∧
  (∀ (c : Nat) (rt ra : BitVec 5) (disp : BitVec 13) (s : State) (k : Nat), Issues s c →
    LandsAt s c (ea s c ra disp 64) 64 64 k → Calm s c k 64 → Meant s k 64 →
    exec (.vld c rt ra 0 disp) s = .next (vectorDone s c rt (BitVec.ofNat 512 (leNat (Store.read s.pods.mem k 64))) 0)) ∧
  (∀ (c : Nat) (td : BitVec 3) (ra : BitVec 5) (disp : BitVec 13) (s : State) (k : Nat), Issues s c →
    LandsAt s c (ea s c ra disp 64) 1024 64 k → Calm s c k 1024 → Meant s k 1024 → (∀ o ∈ (s.core c).mu, o.td ≠ td) →
    ∃ v : BitVec 8192, exec (.tld c td ra 0 disp) s = .next (s.setCore c (((s.core c).setT td v).retire)) ∧
      ∀ r j : Nat, r < 16 → j < 16 →
        (v.extractLsb' (512 * r + 32 * j) 32).toNat = leNat (Store.read s.pods.mem (k + 64 * r + 4 * j) 4))

/-- R104, R136, R137, R138: ST, VST and TST store the low bytes of rt, the register or the tile at the address their
base and displacement give, and set the tag of every position they write to 0x3F; no other byte, position, core,
register or part of the state changes. -/
def Obligations.StoreResults : Prop :=
  (∀ (c : Nat) (rt ra : BitVec 5) (sz : BitVec 3) (disp : BitVec 13) (s : State) (k : Nat), Issues s c → sz.toNat < 4 →
    LandsAt s c (ea s c ra disp (size sz)) (size sz) (size sz) k → Calm s c k (size sz) → Still s c k (size sz) →
    (s.core c).amPending k (size sz) = false →
    Reaches (.st c rt ra sz disp) s (fun t => StoredAt s t c k (leBytes (size sz) (sr s c rt).toNat) (s.core c).retire)) ∧
  (∀ (c : Nat) (rt ra : BitVec 5) (disp : BitVec 13) (s : State) (k : Nat), Issues s c →
    LandsAt s c (ea s c ra disp 64) 64 64 k → Calm s c k 64 → Still s c k 64 → (s.core c).amPending k 64 = false →
    Reaches (.vst c rt ra 0 disp) s (fun t => StoredAt s t c k (leBytes 64 (vr s c rt).toNat) (s.core c).retire)) ∧
  (∀ (c : Nat) (td : BitVec 3) (ra : BitVec 5) (disp : BitVec 13) (s : State) (k : Nat), Issues s c →
    LandsAt s c (ea s c ra disp 64) 1024 64 k → Calm s c k 1024 → Still s c k 1024 → (s.core c).amPending k 1024 = false →
    (∀ o ∈ (s.core c).mu, o.td ≠ td) →
    Reaches (.tst c td ra 0 disp) s (fun t => StoredAt s t c k (leBytes 1024 ((s.core c).tile td).toNat) (s.core c).retire))

/-- R139: an atomic returns the old 8 bytes in rd and writes its result to the same 8 bytes, AMOCAS only where the old
value equals the one rd held; it retires, and nothing else changes. -/
def Obligations.AtomicResults : Prop :=
  ∀ p ∈ amoOps, ∀ (c : Nat) (rd ra rb : BitVec 5) (s : State) (k : Nat), Issues s c →
    s.localAt c (sr s c ra) 8 8 [2] = .ok k → Calm s c k 8 → Meant s k 8 →
    (let old := BitVec.ofNat 64 (leNat (Store.read s.pods.mem k 8))
     let x := ((s.core c).setS rd old).retire
     match p.2 old (sr s c rd) (sr s c rb) with
     | some v => Still s c k 8 → Reaches (p.1 c rd ra rb) s (fun t => StoredAt s t c k (bytes8 v) x)
     | none => exec (p.1 c rd ra rb) s = .next (s.setCore c x))

/-- R126, R130, R136, R137, R139, R159, R160 with R121 and R125: a local access is checked for its segment's kind, its
alignment, then its range; the first check that fails names the fault, and one that passes lands at base + offset of the
core's scratch or the pod's shared area. A load, store or atomic that fails a check, and a store that then meets poison,
raises the fault and does nothing else; an undefined sz is ILLEGAL. While an MMA of the core waits for stream bytes and may
yet fault, a load or store has no effect outside the core's own registers (R152). A program's first fault stands with its code, core,
FAULT_PC and address, and every core of its pods stops as it was.
Where the spec leaves it open, the model's choices are those of assumption 66. -/
def Obligations.AccessFaults : Prop :=
  (∀ (s : State) (c : Nat) (a : DWord) (size align : Nat) (kinds : List (BitVec 2)), 0 < align →
     (∀ k ∈ kinds, k = 1 ∨ k = 2) →
     (let g := s.segOf c (a.toNat / 2 ^ 60)
      let o := a.toNat % 2 ^ 48
      s.localAt c a size align kinds =
        if ¬ (g.kind ∈ kinds) then .error 0x04
        else if o % align ≠ 0 then .error 0x02
        else if a.toNat / 2 ^ 48 % 2 ^ 12 ≠ 0 ∨ g.limit.toNat < o + size then .error 0x03
        else .ok (c / 8 * 2 ^ 22 + (if g.kind = 1 then c % 8 * 2 ^ 18 else 2 ^ 21) + g.base.toNat + o))) ∧
  ((∀ (c : Nat) (rt ra : BitVec 5) (sz : BitVec 3) (disp : BitVec 13) (s : State) (f : BitVec 8), Issues s c → sz.toNat < 7 →
     s.localAt c (ea s c ra disp (size sz)) (size sz) (size sz) [1, 2] = .error f →
     exec (.ld c rt ra sz disp) s = .next (s.fault c f (ea s c ra disp (size sz)))) ∧
   (∀ (c : Nat) (rt ra : BitVec 5) (sz : BitVec 3) (disp : BitVec 13) (s : State) (k : Nat), Issues s c → sz.toNat < 4 →
     LandsAt s c (ea s c ra disp (size sz)) (size sz) (size sz) k → s.poisonAt k (size sz) = true →
     exec (.st c rt ra sz disp) s = .next (s.fault c 0x10 (ea s c ra disp (size sz)))) ∧
   (∀ (c : Nat) (rt ra : BitVec 5) (disp : BitVec 13) (s : State), Issues s c →
     exec (.ld c rt ra 7 disp) s = .next (s.fault c 0x01 0)) ∧
   (∀ (c : Nat) (rt ra : BitVec 5) (sz : BitVec 3) (disp : BitVec 13) (s : State), Issues s c → 4 ≤ sz.toNat →
     exec (.st c rt ra sz disp) s = .next (s.fault c 0x01 0)) ∧
   (∀ p ∈ amoOps, ∀ (c : Nat) (rd ra rb : BitVec 5) (s : State) (f : BitVec 8), Issues s c →
     s.localAt c (sr s c ra) 8 8 [2] = .error f →
     exec (p.1 c rd ra rb) s = .next (s.fault c f (sr s c ra))) ∧
   (∀ (c : Nat) (rt ra : BitVec 5) (sz : BitVec 3) (disp : BitVec 13) (s : State), (s.core c).unsure = true →
     Reaches (.st c rt ra sz disp) s (fun t => t.outer c = s.outer c) ∧
     Reaches (.ld c rt ra sz disp) s (fun t => t.outer c = s.outer c))) ∧
  (∀ (s : State) (c : Nat) (code : BitVec 8) (a : DWord) (k : Nat) (p : Program), s.progOf (podOf c) = some (k, p) →
     (let t := s.fault c code a
      Table.find t.pods.programs k = some { p with state := .ending, fault := some (p.fault.getD ⟨code, c, (s.core c).pc, a⟩) } ∧
      (∀ q, q ≠ k → Table.find t.pods.programs q = Table.find s.pods.programs q) ∧
      (∀ j, t.core j = if podOf j ∈ p.on then { s.core j with running := false } else s.core j) ∧
      t = { s with pods := { s.pods with programs := t.pods.programs, cores := t.pods.cores } }))
namespace Sys2Proof.Claims

open Sys2Proof.Machine

/-- Lane `i` of a vector register: bits 32 i to 32 i + 31 (R123). -/
def ln (v : BitVec 512) (i : Nat) : BitVec 32 := v.extractLsb' (32 * i) 32

/-- The instruction writes vd lane by lane with the results of `f`, adds every lane's flags to FFLAGS and retires;
nothing else changes. -/
def Lanewise (i : Instr) (s : State) (c : Nat) (vd : BitVec 5) (f : Nat → Fr 32) : Prop :=
  ∃ (v : BitVec 512) (fl : BitVec 5), exec i s = .next (vectorDone s c vd v fl) ∧
    (∀ k, k < 16 → ln v k = (f k).bits) ∧ (∀ b, fl.getLsbD b = (List.range 16).any (fun k => (f k).flags.getLsbD b))

/-- VFP operations of two operands (R140), on FP32 lanes. -/
def fpOps2 : List ((Nat → BitVec 5 → BitVec 5 → BitVec 5 → Instr) × (F32 → F32 → Fr 32)) :=
  [(.vadd, fadd), (.vsub, fun a b => fadd a (fneg b)), (.vmul, fmul), (.vdiv, fdiv),
   (.vmin, fun a b => ⟨fmin a b, 0⟩), (.vmax, fun a b => ⟨fmax a b, 0⟩),
   (.vcmpeq, fcmpeq), (.vcmplt, fcmplt), (.vcmple, fcmple)]

/-- VFP operations of one operand whose result is not approximate. -/
def fpOps1 : List ((Nat → BitVec 5 → BitVec 5 → Instr) × (F32 → Fr 32)) :=
  [(.vabs, fun a => ⟨fabs a, 0⟩), (.vneg, fun a => ⟨fneg a, 0⟩), (.vsqrt, fsqrt), (.cvtif, cvtIF), (.cvtfi, cvtFI)]

/-- The integer lane operations of R142 over numbers. -/
def intOps : List ((Nat → BitVec 5 → BitVec 5 → BitVec 5 → Instr) × (BitVec 32 → BitVec 32 → BitVec 32)) :=
  [(.iadd, fun a b => BitVec.ofNat 32 (a.toNat + b.toNat)),
   (.isub, fun a b => BitVec.ofInt 32 (a.toInt - b.toInt)),
   (.imul, fun a b => BitVec.ofNat 32 (a.toNat * b.toNat)),
   (.iand, fun a b => a &&& b), (.ior, fun a b => a ||| b), (.ixor, fun a b => a ^^^ b),
   (.isll, fun a b => BitVec.ofNat 32 (a.toNat * 2 ^ (b.toNat % 32))),
   (.isrl, fun a b => BitVec.ofNat 32 (a.toNat / 2 ^ (b.toNat % 32))),
   (.isra, fun a b => BitVec.ofInt 32 (a.toInt / 2 ^ (b.toNat % 32))),
   (.imin, fun a b => BitVec.ofInt 32 (min a.toInt b.toInt)),
   (.imax, fun a b => BitVec.ofInt 32 (max a.toInt b.toInt)),
   (.icmpeq, fun a b => if a.toNat = b.toNat then 0xFFFFFFFF else 0),
   (.icmplt, fun a b => if a.toInt < b.toInt then 0xFFFFFFFF else 0)]

/-- R172 fixes these results of a function of one number, as input, result and flags; a NaN gives the canonical NaN and no
flag. -/
def Fixed (f : F32 → Fr 32) (l : List (F32 × F32 × BitVec 5)) : Prop :=
  (∀ e ∈ l, f e.1 = ⟨e.2.1, e.2.2⟩) ∧ ∀ a : F32, (f32 a).isNan = true → f a = ⟨0x7FC00000, 0⟩

/-- The rounding of lane `k` of a narrowing conversion of mode `mode`, on a core whose generator holds `g` (R173, R175). -/
def roundOf (mode : Nat) (g : DWord) (k : Nat) : Round :=
  if mode = 1 then Round.stoch (rngDraw ((List.range (k + 1)).foldl (fun x _ => rngNext x) g))
  else if mode = 2 then Round.zero else Round.near

/-- The value of a finite FP32 number is `n × 2^e`. -/
def Is32 (a : F32) (n : Int) (e : Int) : Prop :=
  ∃ (neg : Bool) (m : Nat), f32 a = .fin neg m e ∧ n = if neg then -(m : Int) else m

end Sys2Proof.Claims

/-- R140, R141, R142, R170, R171: the vector instructions on FP32 lanes act on each of the 16 lanes, write vd, add every lane's flags to
FFLAGS and retire; those on integer lanes act modulo 2^32 and set no flag. Nothing else changes. -/
def Obligations.LaneResults : Prop :=
  ((∀ p ∈ fpOps2, ∀ (c : Nat) (vd va vb : BitVec 5) (s : State), Issues s c →
     Lanewise (p.1 c vd va vb) s c vd (fun k => p.2 (ln (vr s c va) k) (ln (vr s c vb) k))) ∧
   (∀ p ∈ fpOps1, ∀ (c : Nat) (vd va : BitVec 5) (s : State), Issues s c →
     Lanewise (p.1 c vd va) s c vd (fun k => p.2 (ln (vr s c va) k))) ∧
   (∀ (c : Nat) (vd va vb vc : BitVec 5) (form : BitVec 2) (s : State), Issues s c →
     Lanewise (.vfma c vd va vb vc form) s c vd (fun k =>
       ffma (decide (form = 1 ∨ form = 3)) (decide (form = 2 ∨ form = 3)) (ln (vr s c va) k) (ln (vr s c vb) k) (ln (vr s c vc) k)))) ∧
  (∀ p ∈ intOps, ∀ (c : Nat) (vd va vb : BitVec 5) (s : State), Issues s c →
     ∃ v : BitVec 512, exec (p.1 c vd va vb) s = .next (vectorDone s c vd v 0) ∧
       ∀ k, k < 16 → ln v k = p.2 (ln (vr s c va) k) (ln (vr s c vb) k))

/-- R168, R172: the approximate functions write a result for every lane that is the same for the same input on every core, with
R172's special values and flags; a NaN gives the canonical NaN and no flag. VRCP's finite result of a finite input other than 0
lies within one ulp, of the correctly rounded quotient, of the exact reciprocal, whatever the implementation computes. -/
def Obligations.ApproxLaneResults : Prop :=
  (∀ (c : Nat) (vd va : BitVec 5) (s : State), Issues s c →
     Lanewise (.vrcp c vd va) s c vd (fun k => frcp (Config.approx 0 (ln (vr s c va) k)) (ln (vr s c va) k)) ∧
     Lanewise (.vrsqrt c vd va) s c vd (fun k => frsqrt (Config.approx 1 (ln (vr s c va) k)) (ln (vr s c va) k)) ∧
     Lanewise (.vexp2 c vd va) s c vd (fun k => fexp2 (Config.approx 2 (ln (vr s c va) k)) (ln (vr s c va) k)) ∧
     Lanewise (.vlog2 c vd va) s c vd (fun k => flog2 (Config.approx 3 (ln (vr s c va) k)) (ln (vr s c va) k))) ∧
  (∀ cand : F32,
     Fixed (frcp cand) [(0x00000000, 0x7F800000, 0x08), (0x80000000, 0xFF800000, 0x08), (0x7F800000, 0x00000000, 0), (0xFF800000, 0x80000000, 0)] ∧
     Fixed (frsqrt cand) [(0x00000000, 0x7F800000, 0x08), (0x80000000, 0xFF800000, 0x08), (0xBF800000, 0x7FC00000, 0x10),
       (0xFF800000, 0x7FC00000, 0x10), (0x7F800000, 0x00000000, 0)] ∧
     Fixed (fexp2 cand) [(0xFF800000, 0x00000000, 0), (0x43000000, 0x7F800000, 0x05), (0x7F800000, 0x7F800000, 0)] ∧
     Fixed (flog2 cand) [(0x00000000, 0xFF800000, 0x08), (0x80000000, 0xFF800000, 0x08), (0xBF800000, 0x7FC00000, 0x10),
       (0x7F800000, 0x7F800000, 0), (0x3F800000, 0x00000000, 0)]) ∧
  (∀ (cand a : F32) (n e : Int), Is32 a n e → n ≠ 0 → (f32 (fdiv 0x3F800000 a).bits).isInf = false →
     (let r := (frcp cand a).bits
      (f32 r).isNan = false ∧ (f32 r).isInf = false ∧
      Dy.le (Dy.abs (Dy.add (Dy.mul (f32 r).dy ⟨n, e⟩) ⟨-1, 0⟩)) (Dy.mul (ulp32 (fdiv 0x3F800000 a).bits) (Dy.abs ⟨n, e⟩)) = true))

/-- R170: VADD's lane operation is the IEEE sum: on finite operands no FP32 number is nearer to the exact sum than a
finite result, NX is set exactly where the result differs from it, and NaN inputs give the canonical NaN. -/
def Obligations.AddNearest : Prop :=
  (∀ (a b : F32) (na ea nb eb nr er : Int), Is32 a na ea → Is32 b nb eb → Is32 (fadd a b).bits nr er →
    (let x := Dy.add ⟨na, ea⟩ ⟨nb, eb⟩
     (∀ (z : F32) (nz ez : Int), Is32 z nz ez →
       Dy.le (Dy.abs (Dy.add x (Dy.neg ⟨nr, er⟩))) (Dy.abs (Dy.add x (Dy.neg ⟨nz, ez⟩))) = true) ∧
     ((fadd a b).flags.getLsbD 0 = true ↔ (Dy.add x (Dy.neg ⟨nr, er⟩)).n ≠ 0))) ∧
  (∀ a b : F32, (f32 a).isNan = true ∨ (f32 b).isNan = true → fadd a b = ⟨0x7FC00000, 0⟩)

/-- R143, R173 to R176: a narrowing VCVT writes its 16 results, each rounded by the mode, into part p of vd and leaves vd's
other bits, and only a stochastic one advances the generator, once per lane; a widening VCVT writes 16 FP32 lanes;
every VCVT of defined fields retires; a malformed one is ILLEGAL. -/
def Obligations.ConversionResults : Prop :=
  (∀ (c : Nat) (vd va vb vc : BitVec 5) (dst : BitVec 3) (s : State), Issues s c → dst ≠ 0 →
    vcvtOk vb vc (BitVec.ofNat 6 dst.toNat) = true →
    ∃ (v : BitVec 512) (fl : BitVec 5),
      exec (.vcvt c vd va vb vc (BitVec.ofNat 6 dst.toNat)) s = .next (s.setCore c
        (let x := (((s.core c).setV vd v).flag fl).retire
         if vc.toNat / 8 = 1 then { x with rng := (List.range 16).foldl (fun g _ => rngNext g) (s.core c).rng } else x)) ∧
      (let r := fun k => narrow dst.toNat ((vr s c vb).toNat % 256) (roundOf (vc.toNat / 8) (s.core c).rng k) (ln (vr s c va) k)
       (∀ k, k < 16 → (v.extractLsb' (codeBits dst.toNat * (16 * (vc.toNat % 8) + k)) (codeBits dst.toNat)).toNat =
         (r k).1 % 2 ^ codeBits dst.toNat) ∧
       (∀ b, fl.getLsbD b = (List.range 16).any (fun k => (r k).2.getLsbD b))) ∧
      (∀ b, b < 512 → ¬ (16 * codeBits dst.toNat * (vc.toNat % 8) ≤ b ∧ b < 16 * codeBits dst.toNat * (vc.toNat % 8 + 1)) →
        v.getLsbD b = (vr s c vd).getLsbD b)) ∧
  (∀ (c : Nat) (vd va vb vc : BitVec 5) (src : BitVec 3) (s : State), Issues s c → src ≠ 0 →
    vcvtOk vb vc (BitVec.ofNat 6 (8 * src.toNat)) = true →
    Lanewise (.vcvt c vd va vb vc (BitVec.ofNat 6 (8 * src.toNat))) s c vd (fun k =>
      widen src.toNat ((vr s c vb).toNat % 256)
        ((vr s c va).extractLsb' (codeBits src.toNat * (16 * (vc.toNat % 8) + k)) (codeBits src.toNat)).toNat)) ∧
  (∀ (c : Nat) (vd va vb vc : BitVec 5) (func : BitVec 6) (s : State), Issues s c → vcvtOk vb vc func = true →
    Reaches (.vcvt c vd va vb vc func) s (fun t => ∃ y : Core, t = s.setCore c y ∧ y.pc = (s.core c).pc + 4 ∧
      y.s = (s.core c).s ∧ y.mu = (s.core c).mu ∧ y.stream = (s.core c).stream)) ∧
  (∀ (c : Nat) (vd va vb vc : BitVec 5) (func : BitVec 6) (s : State), Issues s c → vcvtOk vb vc func = false →
    exec (.vcvt c vd va vb vc func) s = .next (s.fault c 0x01 0))

/-- R144 with R185: the moves between registers, VEXT and VINS for lanes 0 to 15 (VEXT else ILLEGAL), and the reductions into lane 0 with the
other lanes 0. FSUM's order is left open: lanes that are all +0 but one sum to that lane's value, whatever it is, and the
instruction takes one free value. Nothing else changes.
Where the spec leaves it open, the model's choices are those of assumption 10. -/
def Obligations.MovesAndReductions : Prop :=
  ((∀ (c : Nat) (vd va vb vc : BitVec 5) (s : State), Issues s c →
     exec (.vmov c vd va) s = .next (vectorDone s c vd (vr s c va) 0) ∧
     exec (.vzero c vd) s = .next (vectorDone s c vd 0 0) ∧
     (∃ v, exec (.vbcast c vd va) s = .next (vectorDone s c vd v 0) ∧
       ∀ k, k < 16 → ln v k = BitVec.ofNat 32 (sr s c va).toNat) ∧
     (∃ v, exec (.vsel c vd va vb vc) s = .next (vectorDone s c vd v 0) ∧
       ∀ k, k < 16 → ln v k = if ln (vr s c vc) k ≠ 0 then ln (vr s c va) k else ln (vr s c vb) k) ∧
     (∃ v, exec (.vshuf c vd va vb) s = .next (vectorDone s c vd v 0) ∧
       ∀ k, k < 16 → ln v k = ln (vr s c va) ((ln (vr s c vb) k).toNat % 16))) ∧
   (∀ (c : Nat) (vd va vb : BitVec 5) (s : State), Issues s c →
     exec (.vext c vd va vb) s = .next (if vb.toNat < 16 then
       scalarDone s c vd (BitVec.ofNat 64 (ln (vr s c va) vb.toNat).toNat) else s.fault c 0x01 0)) ∧
   (∀ (c : Nat) (vd va vb : BitVec 5) (s : State), Issues s c → vb.toNat < 16 →
     ∃ v, exec (.vins c vd va vb) s = .next (vectorDone s c vd v 0) ∧
       ∀ k, k < 16 → ln v k = if k = vb.toNat then BitVec.ofNat 32 (sr s c va).toNat else ln (vr s c vd) k) ∧
   (∀ (c : Nat) (vd va : BitVec 5) (s : State), Issues s c →
     exec (.fmax c vd va) s = .next (vectorDone s c vd
       (((List.range 15).foldl (fun a k => fmax a (ln (vr s c va) (k + 1))) (ln (vr s c va) 0)).setWidth 512) 0) ∧
     exec (.fmin c vd va) s = .next (vectorDone s c vd
       (((List.range 15).foldl (fun a k => fmin a (ln (vr s c va) (k + 1))) (ln (vr s c va) 0)).setWidth 512) 0) ∧
     exec (.isum c vd va) s = .next (vectorDone s c vd (BitVec.ofNat 512
       (((List.range 16).map (fun k => (ln (vr s c va) k).toNat)).sum % 2 ^ 32)) 0))) ∧
  ((∀ (c : Nat) (vd va : BitVec 5) (s : State), Issues s c →
     ∃ (x : F32) (fl : BitVec 5), exec (.fsum c vd va) s =
       .next { vectorDone s c vd (x.setWidth 512) fl with free := s.free + 1 }) ∧
   (∀ (c : Nat) (vd va : BitVec 5) (s : State) (i : Nat) (n e : Int), Issues s c → i < 16 → n ≠ 0 →
     Is32 (ln (vr s c va) i) n e → (∀ k, k < 16 → k ≠ i → ln (vr s c va) k = 0) →
     exec (.fsum c vd va) s = .next { vectorDone s c vd ((ln (vr s c va) i).setWidth 512) 0 with free := s.free + 1 }))
namespace Sys2Proof.Claims

open Sys2Proof.Machine

/-- The operands of an MMA are available: defined fields, a place in the unit, a scratch operand that passes its
checks, enough bytes in the stream (R145 to R147, R151). -/
def MmaReady (s : State) (c : Nat) (a b vs : BitVec 5) (fmt : BitVec 3) (m sb am : Bool) (k : Nat) : Prop :=
  mmaOk a b vs fmt m sb am = true ∧ (s.core c).mu.length < 2 ∧
    (am = true → s.localAt c (sr s c a) (fmtBytes fmt) 64 [1] = .ok k ∧ s.poisonAt k (fmtBytes fmt) = false) ∧
    (sb = true → ∃ t, (s.core c).stream = some t ∧ fmtBytes fmt ≤ t.left ∧ t.pos % fmtBytes fmt = 0)

/-- Core `c` with the operation `o` behind those in its matrix unit, its stream position moved by `n`, and the
instruction retired. -/
def placed (x : Core) (o : MatrixOp) (n : Nat) : Core :=
  ({ x with mu := x.mu ++ [o]
            stream := x.stream.map (fun t => { t with left := t.left - n, pos := t.pos + n }) } : Core).retire

/-- A group of registers reads as one operand in memory order: register i of it holds bytes 64 i to 64 i + 63. -/
def GroupIs (s : State) (c : Nat) (base n : Nat) (v : BitVec 4096) : Prop :=
  ∀ i, i < n → v.extractLsb' (512 * i) 512 = (s.core c).vregN (base + i)

/-- Element (i, j) of a tile: lane j of row i. -/
def cell (t : BitVec 8192) (i j : Nat) : BitVec 32 := ln (t.extractLsb' (512 * i) 512) j

/-- Only core `c` may differ between two states. -/
def OnlyCore (s t : State) (c : Nat) : Prop :=
  (∀ j, j ≠ c → t.core j = s.core j) ∧ t = { s with pods := { s.pods with cores := t.pods.cores } }

/-- The core once the operation at the head of its unit has started, with its operand `a`: a streamed operand's bytes are
taken. -/
def unitStarted (x : Core) (o : MatrixOp) (rest : List MatrixOp) (a : BitVec 4096) : Core :=
  let n := fmtBytes o.fmt
  match o.sb, x.obuf with
  | true, b :: l =>
    { x with
      mu := { o with started := true, before := {}, a := a, b := BitVec.ofNat 4096 (leNat ((b.drop x.taken).take n)) } :: rest
      obuf := if b.length = x.taken + n then l else b :: l
      taken := if b.length = x.taken + n then 0 else x.taken + n }
  | _, _ => { x with mu := { o with started := true, before := {}, a := a } :: rest }

/-- The end of the operation at the head of the matrix unit: its tile gets the elements `e`, its place is given up,
flags `fl` are added (to what a waiting streamed MMA behind it would put back, too); the rest of the core and of the state is
as before, but for one free value. -/
def UnitEnds (s t : State) (c : Nat) (o : MatrixOp) (rest : List MatrixOp) (e : Nat → Nat → BitVec 32) (fl : BitVec 5) : Prop :=
  ∃ v : BitVec 8192, (∀ i j, i < 16 → j < 16 → cell v i j = e i j) ∧
    t = { s.setCore c ((({ s.core c with mu := rest.map (MatrixOp.follow o.td (v, fl)) } : Core).setT o.td v).flag fl) with free := s.free + 1 }

/-- Flags that hold exactly where some element's do. -/
def AnyFlag (f : Nat → Nat → BitVec 5) (fl : BitVec 5) : Prop :=
  ∀ b, fl.getLsbD b = (List.range 16).any (fun i => (List.range 16).any (fun j => (f i j).getLsbD b))

/-- The terms of element (i, j) of a floating-point MMA: c and the sixteen scaled products. -/
def terms (o : MatrixOp) (t : BitVec 8192) (i j : Nat) : List Fv :=
  f32 (if o.z then 0 else cell t i j) :: (List.range 16).map (o.product i j)

/-- The integer sum of element (i, j) of an INT8 or INT4 MMA. -/
def intSum (o : MatrixOp) (i j : Nat) : Int :=
  ((List.range 16).map (fun k => intElem o.fmt (opElem o.fmt o.a i k) * intElem o.fmt (o.belem k j))).sum

end Sys2Proof.Claims

/-- R147, R148, R151, R178 to R183: the operation at the head of the unit starts once its streamed bytes are readable,
taking them and reading its scratch operand; it waits for a stream without readable bytes, and takes the fault of one whose next
block is stopped, the core's registers being put back to what they were when the MMA issued; when it ends its tile holds zeros (TZERO), its rows multiplied by the
lanes of vs (TRSC), the exact integer sum added once (INT8, INT4), or in each element a sum of the terms, NaN where a
term is NaN or both infinities meet; its flags are added and its place is free.
Where the spec leaves it open, the model's choices are those of assumptions 10 and 67. -/
def Obligations.MatrixOperationsRun : Prop :=
  (∀ (c : Nat) (s : State) (o : MatrixOp) (rest : List MatrixOp), (s.core c).mu = o :: rest → o.started = false →
    (o.sb = true → ∃ b l, (s.core c).obuf = b :: l ∧ (s.core c).taken + fmtBytes o.fmt ≤ b.length) →
    ∃ (a : BitVec 4096) (fr : Nat),
      exec (.matrixOpStart c) s = .next (State.setCore { s with free := s.free + fr } c (unitStarted (s.core c) o rest a)) ∧
      (o.aAddr = none → a = o.a ∧ fr = 0) ∧
      (∀ k, o.aAddr = some k → s.racy (podOf c) k (fmtBytes o.fmt) = false → Meant s k (fmtBytes o.fmt) →
        a = BitVec.ofNat 4096 (leNat (Store.read s.pods.mem k (fmtBytes o.fmt))) ∧ fr = 0)) ∧
  (∀ (c : Nat) (s : State) (o : MatrixOp) (rest : List MatrixOp), (s.core c).mu = o :: rest → o.started = false →
    o.sb = true → (s.core c).obuf = [] →
    (s.streamStop c = none → exec (.matrixOpStart c) s = .next s) ∧
    (∀ code, s.streamStop c = some code → exec (.matrixOpStart c) s =
      .next ((s.setCore c { (s.core c).restore o.before with mu := [], wait := .none }).fault c code 0))) ∧
  (∀ (c : Nat) (s : State) (o : MatrixOp) (rest : List MatrixOp), (s.core c).mu = o :: rest → o.started = true →
    (o.kind = .tzero → Reaches (.matrixOpEnd c) s (fun t => UnitEnds s t c o rest (fun _ _ => 0) 0)) ∧
    (o.kind = .trsc → Reaches (.matrixOpEnd c) s (fun t => ∃ fl,
      UnitEnds s t c o rest (fun i j => (fmul (cell ((s.core c).tile o.td) i j) (ln o.vs i)).bits) fl ∧
      AnyFlag (fun i j => (fmul (cell ((s.core c).tile o.td) i j) (ln o.vs i)).flags) fl)) ∧
    (o.kind = .mma → (o.fmt = 4 ∨ o.fmt = 6) → Reaches (.matrixOpEnd c) s (fun t => ∃ fl,
      UnitEnds s t c o rest (fun i j =>
        (fadd (if o.z then 0 else cell ((s.core c).tile o.td) i j)
          (cvtIF (BitVec.ofInt 32 (intSum o i j))).bits).bits) fl)) ∧
    (o.kind = .mma → o.fmt ≠ 4 → o.fmt ≠ 6 → o.fmt ≠ 7 → Reaches (.matrixOpEnd c) s (fun t => ∃ e fl,
      UnitEnds s t c o rest e fl ∧ fl.getLsbD 0 = false ∧ fl.getLsbD 1 = false ∧
      ∀ i j, i < 16 → j < 16 → ((terms o ((s.core c).tile o.td) i j).any Fv.isNan = true → e i j = 0x7FC00000))))

/-- R179: whatever the order and grouping of a floating-point MMA's sum, where every term is finite a finite
result lies within 2^−20 times the sum of the magnitudes of the terms, plus 2^−146, of the exact sum. -/
def Obligations.MatrixAccuracy : Prop :=
  ∀ (o : MatrixOp) (t : BitVec 8192) (free i j : Nat) (n e : Int), o.kind = .mma → o.fmt ≠ 4 → o.fmt ≠ 6 → o.fmt ≠ 7 →
    i < 16 → j < 16 → (∀ x ∈ terms o t i j, x.isNan = false ∧ x.isInf = false) →
    Is32 (cell (o.result t free).1 i j) n e →
    (let l := (terms o t i j).map Fv.dy
     Dy.le (Dy.abs (Dy.add ⟨n, e⟩ (Dy.neg (Dy.sum l))))
       (Dy.add (Dy.mul (Dy.sum (l.map Dy.abs)) ⟨1, -20⟩) ⟨1, -146⟩) = true)

/-- R130, R145 to R148, R151: an MMA whose operands are available takes a place in the matrix unit with the registers it names
as they are, advances the stream by what it consumes, and retires; TZERO and TRSC do so too; an MMA with undefined fields is
ILLEGAL, one that the stream cannot serve raises STREAM_STATE. Nothing else changes. R148: TRDR copies row `row` of a tile
to a vector register and TWRR the other way, when no operation in the unit writes the tile; they retire, and nothing else
changes; while one does, they wait.
Where the spec leaves it open, the model's choices are those of assumption 67. -/
def Obligations.MatrixOperationsIssue : Prop :=
  ((∀ (c : Nat) (td : BitVec 3) (a b vs : BitVec 5) (fmt : BitVec 3) (m sb tb z am : Bool) (s : State) (k : Nat),
     Issues s c → MmaReady s c a b vs fmt m sb am k →
     ∃ o : MatrixOp, exec (.mma c td a b vs fmt m sb tb z am) s =
         .next (s.setCore c (placed (s.core c) o (if sb then fmtBytes fmt else 0))) ∧
       o.kind = .mma ∧ o.td = td ∧ o.fmt = fmt ∧ o.m = m ∧ o.sb = sb ∧ o.tb = tb ∧ o.z = z ∧ o.started = false ∧
       o.pc = (s.core c).pc ∧ o.aAddr = (if am then some k else none) ∧
       (sb = true → o.before = (s.core c).regs) ∧ (m = true → o.vs = vr s c vs) ∧
       (am = false → GroupIs s c a.toNat (fmtBytes fmt / 64) o.a) ∧
       (sb = false → GroupIs s c b.toNat (fmtBytes fmt / 64) o.b)) ∧
   (∀ (c : Nat) (td : BitVec 3) (v : BitVec 5) (s : State), Issues s c → (s.core c).mu.length < 2 →
     (∃ o : MatrixOp, exec (.tzero c td) s = .next (s.setCore c (placed (s.core c) o 0)) ∧
       o.kind = .tzero ∧ o.td = td ∧ o.started = false) ∧
     (∃ o : MatrixOp, exec (.trsc c td v) s = .next (s.setCore c (placed (s.core c) o 0)) ∧
       o.kind = .trsc ∧ o.td = td ∧ o.vs = vr s c v ∧ o.started = false)) ∧
   (∀ (c : Nat) (td : BitVec 3) (a b vs : BitVec 5) (fmt : BitVec 3) (m sb tb z am : Bool) (s : State),
     Issues s c → mmaOk a b vs fmt m sb am = false →
     exec (.mma c td a b vs fmt m sb tb z am) s = .next (s.fault c 0x01 0)) ∧
   (∀ (c : Nat) (td : BitVec 3) (a b vs : BitVec 5) (fmt : BitVec 3) (m tb z : Bool) (s : State),
     Issues s c → mmaOk a b vs fmt m true false = true → (s.core c).mu.length < 2 →
     (∀ t, (s.core c).stream = some t → t.left < fmtBytes fmt ∨ t.pos % fmtBytes fmt ≠ 0) →
     exec (.mma c td a b vs fmt m true tb z false) s = .next (s.fault c 0x05 0))) ∧
  ((∀ (c : Nat) (td : BitVec 3) (v : BitVec 5) (row : BitVec 4) (s : State), Issues s c → (∀ o ∈ (s.core c).mu, o.td ≠ td) →
     exec (.trdr c td v row) s =
       .next (vectorDone s c v (((s.core c).tile td).extractLsb' (512 * row.toNat) 512) 0)) ∧
   (∀ (c : Nat) (td : BitVec 3) (v : BitVec 5) (row : BitVec 4) (s : State), Issues s c → (∀ o ∈ (s.core c).mu, o.td ≠ td) →
     ∃ w : BitVec 8192, exec (.twrr c td v row) s = .next (s.setCore c (((s.core c).setT td w).retire)) ∧
       ∀ i, i < 16 → w.extractLsb' (512 * i) 512 =
         if i = row.toNat then vr s c v else ((s.core c).tile td).extractLsb' (512 * i) 512) ∧
   (∀ (c : Nat) (td : BitVec 3) (v : BitVec 5) (row : BitVec 4) (s : State), (∃ o ∈ (s.core c).mu, o.td = td) → Issues s c →
     exec (.trdr c td v row) s = .next s ∧ exec (.twrr c td v row) s = .next s))
namespace Sys2Proof.Claims

open Sys2Proof.Machine

/-- Segment number and offset of an address (R124). -/
def segOfAddr (a : DWord) : Nat := a.toNat / 2 ^ 60
def offOf (a : DWord) : Nat := a.toNat % 2 ^ 48

/-- A run of `n` whole blocks passes R126's and R150's checks in segment `g`. -/
def RunIn (s : State) (c : Nat) (a : DWord) (n : Nat) (kinds : List (BitVec 2)) (g : Segment) : Prop :=
  g = s.segOf c (segOfAddr a) ∧ g.kind ∈ kinds ∧ offOf a % 4096 = 0 ∧ g.base.toNat % 4096 = 0 ∧
    a.toNat / 2 ^ 48 % 2 ^ 12 = 0 ∧ offOf a + n * 4096 ≤ g.limit.toNat

/-- Pod-store byte of an offset in a local segment (R121, R125). -/
def localByte (c : Nat) (g : Segment) (o : Nat) : Nat :=
  c / 8 * 2 ^ 22 + (if g.kind = 1 then c % 8 * 2 ^ 18 else 2 ^ 21) + g.base.toNat + o

/-- A core's blocks at its pod bank: address and word, in order. -/
def queued (s : State) (c : Nat) : List (Nat × Word) := (s.coreQueue c).map (fun q => (q.addr, q.word))

/-- Core `c` and the queue of its bank changed, nothing else. -/
def OnlyStream (s t : State) (c : Nat) : Prop :=
  (∀ j, j ≠ c → t.core j = s.core j ∧ t.coreQueue j = s.coreQueue j) ∧
    t = { s with pods := { s.pods with cores := t.pods.cores }, comp := { s.comp with banks := t.comp.banks, tables := t.comp.tables, engSlots := t.comp.engSlots } }

/-- No MMA in the unit reads the stream. -/
def StreamIdle (s : State) (c : Nat) : Prop := ∀ o ∈ (s.core c).mu, o.sb = false

/-- A block request passes R154's checks: COUNT and reserved bits, both runs, reach at this count. -/
def BlkReady (s : State) (c : Nat) (p : BitVec 8) (la ra v mask : DWord) (g r : Segment) : Prop :=
  (s.core c).blks.length < 16 ∧ s.coreParty c = some p ∧ 1 ≤ v.toNat % 65536 ∧ v.toNat % 65536 ≤ 1024 ∧ v &&& ~~~mask = 0 ∧
    RunIn s c la (v.toNat % 65536) [1, 2] g ∧ RunIn s c ra (v.toNat % 65536) [3] r ∧
    s.reach (s.gpid p) r.handle (r.base.toNat + offOf ra) (4096 * (v.toNat % 65536)) .data false s.now = none

/-- The request a BLK instruction adds. -/
def request (kind : BlkKind) (x : Core) (g r : Segment) (c : Nat) (la ra v : DWord) (left now : Nat) : BlkReq :=
  { kind := kind, addr := localByte c g (offOf la), handle := r.handle, blk := (r.base.toNat + offOf ra) / 4096
    count := v.toNat % 65536, tableId := BitVec.ofNat 16 (v.toNat / 65536), left := left, done := false, pc := x.pc, order := x.ord
    issued := now }

/-- The instruction added request `r` behind the core's others and retired. -/
def requested (x : Core) (r : BlkReq) : Core := ({ x with blks := x.blks ++ [r], ord := x.ord + 1 } : Core).retire

/-- The core after its oldest request completed: gone from its list; a BWAIT or HALT that this lets go on retires. -/
def afterRequest (x : Core) (rest : List BlkReq) : Core :=
  let y : Core := { x with blks := rest }
  match x.wait with
  | .bwait n => if rest.length ≤ n then ({ y with wait := .none } : Core).retire else y
  | .halt => if rest.length = 0 then ({ y with wait := .none, halted := true } : Core).retire else y
  | _ => y

/-- The program of core `c` runs for the party that holds gate `g` (R156). -/
def MayName (s : State) (c : Nat) (g : BitVec 8) : Prop := ∃ p, (s.gate g).owner = some p ∧ s.coreParty c = some p

/-- C ≥ v as R262 compares counts, with no ADD of 2^31 or more performed. -/
def Reached (s : State) (g : BitVec 8) (v : Word) : Prop :=
  (s.gate g).wild = false ∧ ((s.gate g).c.toNat + 2 ^ 32 - v.toNat) % 2 ^ 32 < 2 ^ 31

/-- Control and status registers that an instruction can read (R158), but for CYCLE. -/
def csrs : List (Nat × (State → Nat → DWord)) :=
  [(0x000, fun _ c => BitVec.ofNat 64 c), (0x001, fun _ c => BitVec.ofNat 64 (c / 8)),
   (0x003, fun s _ => match s.variant with | .t => 0 | .s => 1 | .e => 2),
   (0x011, fun s c => (s.core c).instret), (0x012, fun s c => s.lcntOf (c / 8)),
   (0x021, fun s c => (s.core c).rng),
   (0x030, fun s c => match (s.core c).stream with | some t => BitVec.ofNat 64 t.left | none => 0),
   (0x031, fun s c => BitVec.ofNat 64 (s.core c).blks.length),
   (0x080, fun s c => (s.core c).dMiss), (0x081, fun s c => (s.core c).dBusy)]

end Sys2Proof.Claims

/-- R149, R150, R151, R102: SOPEN of a run that passes its checks replaces the stream by one over the whole run, with
at most its first two blocks queued at the bank with their words; SCLOSE ends it and discards what is queued and
unread; SPOP moves the next 64 readable bytes to vd; SSTAT reads the bytes left. Each retires; nothing else changes. A
count of 0 or above 32 bits, and an SPOP with no stream, raise STREAM_STATE.
Where the spec leaves it open, the model's choices are those of assumption 66. -/
def Obligations.StreamInstructions : Prop :=
  (∀ (c : Nat) (ra rb : BitVec 5) (s : State) (g : Segment) (n : Nat), Issues s c → (sr s c rb).toNat = n →
    0 < n → n < 2 ^ 32 → RunIn s c (sr s c ra) n [1, 2] g → StreamIdle s c →
    (let k := localByte c g (offOf (sr s c ra))
     Reaches (.sopen c ra rb) s (fun t =>
      t.core c = { (s.core c).retire with
        stream := some { next := k + 4096 * min 2 n, blocks := n - min 2 n, left := 4096 * n, pos := 0 }, obuf := [], taken := 0 } ∧
      queued t c = (List.range (min 2 n)).map (fun i => (k + 4096 * i, s.posWord (k + 4096 * i))) ∧ OnlyStream s t c))) ∧
  (∀ (c : Nat) (s : State), Issues s c → StreamIdle s c →
    Reaches (.sclose c) s (fun t => t.core c = { (s.core c).retire with stream := none, obuf := [], taken := 0 } ∧
      queued t c = [] ∧ OnlyStream s t c)) ∧
  (∀ (c : Nat) (vd : BitVec 5) (s : State) (st : Stream) (b : Bytes) (l : List Bytes), Issues s c →
    (s.core c).stream = some st → 64 ≤ st.left → st.pos % 64 = 0 → (∀ o ∈ (s.core c).mu, o.sb = true → o.started = true) →
    (s.core c).obuf = b :: l → (s.core c).taken + 64 ≤ b.length →
    Reaches (.spop c vd) s (fun t => ∃ next blocks,
      t.core c = { ((s.core c).setV vd (BitVec.ofNat 512 (leNat ((b.drop (s.core c).taken).take 64)))).retire with
        stream := some { next := next, blocks := blocks, left := st.left - 64, pos := st.pos + 64 }
        obuf := if b.length = (s.core c).taken + 64 then l else b :: l
        taken := if b.length = (s.core c).taken + 64 then 0 else (s.core c).taken + 64 } ∧ OnlyStream s t c)) ∧
  (∀ (c : Nat) (rd : BitVec 5) (s : State), Issues s c →
    exec (.sstat c rd) s = .next (scalarDone s c rd
      (match (s.core c).stream with | some t => BitVec.ofNat 64 t.left | none => 0))) ∧
  (∀ (c : Nat) (ra rb : BitVec 5) (s : State), Issues s c → (sr s c rb = 0 ∨ 2 ^ 32 ≤ (sr s c rb).toNat) →
    exec (.sopen c ra rb) s = .next (s.fault c 0x05 0)) ∧
  (∀ (c : Nat) (vd : BitVec 5) (s : State), Issues s c → (s.core c).stream = none →
    exec (.spop c vd) s = .next (s.fault c 0x05 0))

/-- R153 to R155: a BGET, BPUT or BPUTE that passes its checks joins the core's requests and retires; BPUTE hands its raw blocks
to the encoder engines in order and names its table and context; BWAIT goes on once few enough requests are left, else
waits. R153, R155, R156: when the oldest request of a core completes, a BGET has copied the words and stored bytes of its
extent blocks to its pod positions and a BPUT the other way, unchanged; the request leaves the core's list and a waiting
BWAIT or HALT goes on.
Where the spec leaves it open, the model's choices are those of assumption 65. -/
def Obligations.BlockRequests : Prop :=
  ((∀ (c : Nat) (ra rb rc : BitVec 5) (s : State) (p : BitVec 8) (g r : Segment), Issues s c →
     BlkReady s c p (sr s c ra) (sr s c rb) (sr s c rc) 0xFFFF g r →
     exec (.bget c ra rb rc) s = .next (s.setCore c (requested (s.core c)
       (request .get (s.core c) g r c (sr s c ra) (sr s c rb) (sr s c rc) 0 s.now))) ∧
     exec (.bput c ra rb rc) s = .next (s.setCore c (requested (s.core c)
       (request .put (s.core c) g r c (sr s c ra) (sr s c rb) (sr s c rc) 0 s.now)))) ∧
   (∀ (c : Nat) (ra rb rc : BitVec 5) (s : State) (p : BitVec 8) (g r : Segment) (e : TableEnt), Issues s c →
     BlkReady s c p (sr s c ra) (sr s c rb) (sr s c rc) 0xFF1FFFFFFFFF g r →
     (let v := (sr s c rc).toNat
      let id := BitVec.ofNat 16 (v / 65536)
      let k := localByte c g (offOf (sr s c ra))
      let q := request .pute (s.core c) g r c (sr s c ra) (sr s c rb) (sr s c rc) (v % 65536) s.now
      let ctx : Option (BitVec 8) := if v / 2 ^ 36 % 2 = 1 then some (BitVec.ofNat 8 (v / 2 ^ 40)) else none
      (∀ n, ctx = some n → (s.hctxOf n.toNat).owner = none ∨ (s.hctxOf n.toNat).owner = some p) →
      s.table id = some e → e.loadRef = true → e.owner = p → (elemShape (v / 2 ^ 32 % 16)).isSome = true →
      (∀ i, i < v % 65536 → mwTag (s.posWord (k + 4096 * i)) = 0x3F ∧ mwPoison (s.posWord (k + 4096 * i)) = false) →
      exec (.bpute c ra rb rc) s = .next (((((match ctx with | some n => s.claimHctx n.toNat p | none => s).addQueued id).enqueue ((List.range (v % 65536)).map (fun i =>
        { desc := none, core := some c, index := q.order, bytes := s.posBytes (k + 4096 * i), toPod := false
          dst := r.handle.toNat * 2 ^ 36 + q.blk + i, tableId := id, elem := BitVec.ofNat 4 (v / 2 ^ 32), hctx := ctx
          order := s.chan.go }))).setCore c (requested (s.core c) q))))) ∧
   (∀ (c : Nat) (imm : BitVec 8) (s : State), Issues s c →
     exec (.bwait c imm) s = .next (s.setCore c (if (s.core c).blks.length ≤ imm.toNat then (s.core c).retire
       else { s.core c with wait := .bwait imm.toNat })))) ∧
  ((∀ (c : Nat) (s : State) (r : BlkReq) (rest : List BlkReq), (s.core c).blks = r :: rest → r.kind = .get →
     r.addr % 4096 = 0 → (s.core c).gwait = [] → s.granting srcPods (.block c r.order) r.accs = true →
     Reaches (.blockRequestComplete c) s (fun t =>
       (∀ i, i < r.count → t.posWord (r.addr + 4096 * i) = s.blkMeta r.handle (r.blk + i) ∧
         (mwPoison (s.blkMeta r.handle (r.blk + i)) = false → t.posBytes (r.addr + 4096 * i) = s.blkBytes r.handle (r.blk + i))) ∧
       (∀ a, a < r.addr ∨ r.addr + 4096 * r.count ≤ a → t.posWord a = s.posWord a ∧ Store.byte t.pods.mem a = Store.byte s.pods.mem a) ∧
       t.core c = afterRequest (s.core c) rest ∧ t.ten = s.ten ∧ (∀ j, j ≠ c → t.core j = s.core j))) ∧
   (∀ (c : Nat) (s : State) (r : BlkReq) (rest : List BlkReq), (s.core c).blks = r :: rest → r.kind = .put →
     r.addr % 4096 = 0 → (s.core c).gwait = [] → s.granting srcPods (.block c r.order) r.accs = true →
     s.readOnly r.handle = false →
     Reaches (.blockRequestComplete c) s (fun t =>
       (∀ i, i < r.count → t.blkMeta r.handle (r.blk + i) = s.posWord (r.addr + 4096 * i) ∧
         (mwPoison (s.posWord (r.addr + 4096 * i)) = false →
           t.blkBytes r.handle (r.blk + i) = s.posBytes (r.addr + 4096 * i))) ∧
       (∀ a, a < extByteKey r.handle (4096 * r.blk) ∨ extByteKey r.handle (4096 * (r.blk + r.count)) ≤ a →
         Store.byte t.ten.mem a = Store.byte s.ten.mem a) ∧
       t.core c = afterRequest (s.core c) rest ∧ t.pods = { s.pods with cores := t.pods.cores } ∧
       (∀ j, j ≠ c → t.core j = s.core j))) ∧
   (∀ (c : Nat) (s : State) (r : BlkReq) (rest : List BlkReq), (s.core c).blks = r :: rest → r.kind = .pute →
     r.left = 0 → (s.core c).gwait = [] →
     Reaches (.blockRequestComplete c) s (fun t => t.core c = afterRequest (s.core c) rest ∧ (∀ j, j ≠ c → t.core j = s.core j) ∧
       t = { s.dropQueued r.tableId with pods := { s.pods with cores := t.pods.cores } })))

/-- R156, R157, R196: FENCE retires; PBAR waits at its k-th barrier of the mask, which ends for every core that waits in
it once every core of the mask has issued its k-th; GCOMP with no request outstanding adds one completion, unless an
earlier execution of the share added it; GWAITC and WAITL go on once the count or LCNT is reached, else wait until
their resume; GCNT and RDLCNT read, RDLCNT the pod's own
copy of LCNT, at most one count off; a gate of another party raises GATE_ACCESS. Nothing else changes.
Where the spec leaves it open, the model's choices are those of assumption 8. -/
def Obligations.Synchronization : Prop :=
  (∀ (c : Nat) (s : State), Issues s c → exec (.syncFence c) s = .next (s.setCore c (s.core c).retire)) ∧
  (∀ (c : Nat) (mask : BitVec 8) (s : State), Issues s c → exec (.pbar c mask) s = .next (
    if mask.getLsbD (c % 8) then
      (let k := Table.get 0 (s.core c).pbars mask.toNat + 1
       s.setCore c { s.core c with pbars := Table.put 0 (s.core c).pbars mask.toNat k, wait := .pbar mask k })
    else s.fault c 0x01 0)) ∧
  (∀ (pod : Nat) (mask : BitVec 8) (s : State), Reaches (.pbarEnd pod mask) s (fun t =>
    (∀ c k, c / 8 = pod → mask.getLsbD (c % 8) = true → (s.core c).wait = .pbar mask k →
      (∀ i, i < 8 → mask.getLsbD i = true → k ≤ Table.get 0 (s.core (8 * pod + i)).pbars mask.toNat) →
      t.core c = ({ s.core c with wait := .none } : Core).retire) ∧
    (∀ c, (c / 8 ≠ pod ∨ mask.getLsbD (c % 8) = false ∨ ∀ k, (s.core c).wait = .pbar mask k →
      ∃ i, i < 8 ∧ mask.getLsbD i = true ∧ Table.get 0 (s.core (8 * pod + i)).pbars mask.toNat < k) → t.core c = s.core c) ∧
    t = { s with pods := { s.pods with cores := t.pods.cores } })) ∧
  (∀ (c : Nat) (g : BitVec 8) (s : State), Issues s c → MayName s c g → (s.core c).blks = [] → (s.core c).gwait = [] →
    (let k := Table.get 0 (s.core c).gcomps g.toNat + 1
     let t := s.setCore c { (s.core c).retire with gcomps := Table.put 0 (s.core c).gcomps g.toNat k }
     exec (.gcomp c g) s = .next (if Table.get 0 (s.core c).gadded g.toNat < k then t.addGate g 1 else t))) ∧
  (∀ (c : Nat) (ra : BitVec 5) (g : BitVec 8) (s : State), Issues s c → MayName s c g → (s.gate g).wild = false →
    (Reached s g ((sr s c ra).setWidth 32) → exec (.gwaitc c ra g) s = .next (s.setCore c (s.core c).retire)) ∧
    (¬ Reached s g ((sr s c ra).setWidth 32) →
      exec (.gwaitc c ra g) s = .next (s.setCore c { s.core c with wait := .gwaitc g ((sr s c ra).setWidth 32) }))) ∧
  (∀ (c : Nat) (g : BitVec 8) (v : Word) (s : State), (s.core c).wait = .gwaitc g v → Reached s g v →
    exec (.gwaitcResume c) s = .next (s.setCore c ({ s.core c with wait := .none } : Core).retire)) ∧
  (∀ (c : Nat) (rd : BitVec 5) (g : BitVec 8) (s : State), Issues s c → MayName s c g →
    exec (.gcnt c rd g) s = .next (scalarDone s c rd (BitVec.ofNat 64 (s.gate g).c.toNat))) ∧
  (∀ (c : Nat) (ra : BitVec 5) (s : State), Issues s c → exec (.waitl c ra) s = .next (s.setCore c
    (if (sr s c ra).toNat ≤ (s.lcntOf (c / 8)).toNat then (s.core c).retire else { s.core c with wait := .waitl (sr s c ra) }))) ∧
  (∀ (c : Nat) (v : DWord) (s : State), (s.core c).wait = .waitl v → v.toNat ≤ (s.lcntOf (c / 8)).toNat →
    exec (.waitlResume c) s = .next (s.setCore c ({ s.core c with wait := .none } : Core).retire)) ∧
  (∀ (c : Nat) (rd : BitVec 5) (s : State), Issues s c → exec (.rdlcnt c rd) s = .next (scalarDone s c rd (s.lcntOf (c / 8)))) ∧
  (∀ (s : State) (u : Nat), s.clk.lcnt ≠ 0 → s.clk.lcnt ≠ BitVec.allOnes 64 →
    (s.lcntOf u).toNat ≤ s.clk.lcnt.toNat + 1 ∧ s.clk.lcnt.toNat ≤ (s.lcntOf u).toNat + 1) ∧
  (∀ (c : Nat) (rd ra : BitVec 5) (g : BitVec 8) (s : State), Issues s c → ¬ MayName s c g →
    exec (.gcomp c g) s = .next (s.fault c 0x08 0) ∧ exec (.gwaitc c ra g) s = .next (s.fault c 0x08 0) ∧
    exec (.gcnt c rd g) s = .next (s.fault c 0x08 0))

/-- R130, R156, R158, R163, R175: NOP retires; HALT stops the core once no request is outstanding, else waits; TRAP faults
with its code; RNGNEXT advances the generator and returns its new state; CSRR reads and CSRW writes by the table, an
undefined or read-only number being ILLEGAL; a fetch miss brings the line of PC to the front of the 64; a word that no
instruction has is ILLEGAL. CYCLE reads as the clocks of the counts gone by and one of the present count's 120 clocks, which
one the spec leaves open, but none before one it showed (assumption 113). Nothing else changes. -/
def Obligations.SystemInstructions : Prop :=
  (∀ (c : Nat) (s : State), Issues s c → exec (.nop c) s = .next (s.setCore c (s.core c).retire)) ∧
  (∀ (c : Nat) (s : State), Issues s c → exec (.halt c) s = .next (s.setCore c
    (if (s.core c).blks = [] then { (s.core c).retire with halted := true } else { s.core c with wait := .halt }))) ∧
  (∀ (c : Nat) (code : BitVec 8) (s : State), Issues s c →
    exec (.trap c code) s = .next (s.fault c 0x09 (BitVec.ofNat 64 code.toNat))) ∧
  (∀ (c : Nat) (rd : BitVec 5) (s : State), Issues s c →
    (let g := BitVec.ofNat 64 ((s.core c).rng.toNat * 0x5851F42D4C957F2D + 0x14057B7EF767814F)
     exec (.rngnext c rd) s = .next (s.setCore c (({ s.core c with rng := g } : Core).setS rd g).retire))) ∧
  (∀ p ∈ csrs, ∀ (c : Nat) (rd : BitVec 5) (s : State), Issues s c →
    exec (.csrr c rd (BitVec.ofNat 16 p.1)) s = .next (scalarDone s c rd (p.2 s c))) ∧
  (∀ (c : Nat) (rd : BitVec 5) (s : State), Issues s c → (∀ o ∈ (s.core c).mu, o.kind = .tzero) →
    exec (.csrr c rd 0x020) s = .next (scalarDone s c rd (BitVec.ofNat 64 (s.core c).fflags.toNat))) ∧
  (∀ (c : Nat) (rd : BitVec 5) (p : BitVec 8) (s : State), Issues s c → s.coreParty c = some p →
    exec (.csrr c rd 0x002) s = .next (scalarDone s c rd (BitVec.ofNat 64 p.toNat))) ∧
  (∀ (c : Nat) (rd : BitVec 5) (n : Nat) (p : BitVec 8) (s : State), Issues s c → s.coreParty c = some p → n < 16 →
    (let g := s.segOf c n
     exec (.csrr c rd (BitVec.ofNat 16 (0x40 + 3 * n))) s = .next (scalarDone s c rd
       (BitVec.ofNat 64 (g.kind.toNat + 256 * p.toNat + (if g.kind = 3 then 2 ^ 32 * g.handle.toNat else 0)))) ∧
     exec (.csrr c rd (BitVec.ofNat 16 (0x41 + 3 * n))) s = .next (scalarDone s c rd (BitVec.ofNat 64 g.base.toNat)) ∧
     exec (.csrr c rd (BitVec.ofNat 16 (0x42 + 3 * n))) s = .next (scalarDone s c rd (BitVec.ofNat 64 g.limit.toNat)))) ∧
  (∀ (c : Nat) (rd : BitVec 5) (s : State), Issues s c →
    (s.core c).phase < 120 →
    ∃ ph, (s.core c).phase ≤ ph ∧ ph < 120 ∧ exec (.csrr c rd 0x010) s = .next (State.setCore { s with free := s.free + 1 } c
      (({ s.core c with phase := ph } : Core).setS rd ((s.core c).cycle + BitVec.ofNat 64 ph)).retire)) ∧
  (∀ (c : Nat) (ra : BitVec 5) (s : State), Issues s c → (∀ o ∈ (s.core c).mu, o.kind = .tzero) →
    exec (.csrw c ra 0x020) s = .next (s.setCore c { (s.core c).retire with fflags := BitVec.ofNat 5 (sr s c ra).toNat })) ∧
  (∀ (c : Nat) (ra : BitVec 5) (s : State), Issues s c →
    exec (.csrw c ra 0x021) s = .next (s.setCore c { (s.core c).retire with rng := sr s c ra })) ∧
  (∀ (c : Nat) (r : BitVec 5) (n : BitVec 16) (s : State), Issues s c →
    (n ∉ [0x020, 0x021] → exec (.csrw c r n) s = .next (s.fault c 0x01 0)) ∧
    (n ∉ [0x010, 0x020, 0x002] → (∀ p ∈ csrs, n.toNat ≠ p.1) → (n.toNat < 0x40 ∨ 0x70 ≤ n.toNat) →
      exec (.csrr c r n) s = .next (s.fault c 0x01 0))) ∧
  (∀ (c : Nat) (s : State), (s.core c).running = true → (s.core c).halted = false → (s.core c).wait = .none →
    (s.core c).pc.toNat + 4 ≤ (s.segOf c 0).limit.toNat → (s.core c).ibuf.contains ((s.core c).pc.toNat / 1024) = false →
    exec (.instructionFetchMiss c) s = .next (s.setCore c { s.core c with
      ibuf := (s.core c).pc.toNat / 1024 :: (s.core c).ibuf.take 63 })) ∧
  (∀ (c : Nat) (w : Word) (s : State), Issues s c → decodeCore c w = none →
    exec (.undefinedOpcode c w) s = .next (s.fault c 0x01 0))
namespace Sys2Proof.Claims

open Sys2Proof.Machine

/-- Every byte and metadata table is in canonical form: addresses strictly rising, nothing listed that reads as an
unlisted address does. -/
def MemoryCanonical (s : State) : Prop :=
  Table.wf 0 s.pods.mem = true ∧ Table.wf rawMeta s.pods.words = true ∧ Table.wf 0 s.ten.mem = true ∧
    Table.wf rawMeta s.ten.metas = true

/-- A module of each part number right after a module reset. -/
def fresh : Variant → State := State.resetOf

/-- IDENT registers that read the same on every part number (R508, R509, R514). -/
def identWords : List (Nat × Word) :=
  [(0x04, 0x01100201), (0x20, 0x00401008), (0x24, 0x04000100), (0x28, 0x04000100), (0x2C, 0xFFFE0100), (0x34, 0x80000800),
   (0x38, 0x00100000), (0x3C, 0x00001008)]

/-- IDENT registers that differ between part numbers, by R509's table, and CAP_NEAR and CAP_DEEP after reset. -/
def partWords : Variant → List (Nat × Word)
  | .t => [(0x00, 0x5A580910), (0x18, 0x200C6400), (0x1C, 0xFFFF10F4), (0x30, 0x08000040)]
  | .s => [(0x00, 0x5A580911), (0x18, 0x000C3201), (0x1C, 0x00FF08F4), (0x30, 0x08000000)]
  | .e => [(0x00, 0x5A580912), (0x18, 0x00061902), (0x1C, 0x000F0432), (0x30, 0x08000000)]

/-- Usable tracts by part number (R509). -/
def capWords : Variant → Word × Word
  | .t => (0x00078000, 0x002A0000) | .s => (0x00078000, 0) | .e => (0x00030000, 0)

/-- Registers of the other blocks with the reset values their tables state. -/
def resetWords : List (Blk × Nat × Word) := 
  [(.clk, 0x0C, 0x00FA0003), (.clk, 0x10, 0x000061A8), (.clk, 0x10C, 0x000005DC), (.clk, 0x110, 2), (.host, 0x10, 0x001312D0),
   (.chan, 0x08, 0x00040000), (.chan, 0x28, 0x19), (.chan, 0x34, 0x08000000), (.chan, 0x38, 0x100), (.chan, 0x50, 0x800), (.chan, 0x58, 0x8000),
   (.qos, 0x38, 0x02800A00), (.qos, 0x3C, 0xA0), (.tier, 0x04, 0x00078000), (.tier, 0x0C, 0x002A0000), (.tier, 0x10, 0x0014000A),
   (.tier, 0x20, 0x00100000), (.fab, 0x18, 0x0000000D), (.fab, 0x38, 0x09C4), (.fab, 0x3C, 0x30D4), (.fab, 0x40, 4), (.fab, 0x44, 1),
   (.fab, 0x48, 0x017D7840), (.fab, 0x5C, 0xFFF), (.rel, 0x04, 0x00200000), (.rel, 0x08, 0x00300000), (.rel, 0x108, 0x00010018),
   (.rel, 0x110, 0x000503E8), (.rel, 0x114, 0x100), (.pod, 0x04, 0x000061A8), (.pod, 0x08, 0x64), (.lch, 0x10, 1), (.evt, 0x04, 0),
   (.sec, 0x0C, 0), (.ten, 0x04, 0), (.comp, 0x00, 0), (.win, 0x04, 0)]

end Sys2Proof.Claims

/-- A step takes the command at the front of the queue and runs it on the queue's rest. -/
def Obligations.StepRunsCommand : Prop :=
  ∀ (i : Instr) (rest : List Instr) (s : State),
    step { s with pending := i :: rest } = exec i { s with pending := rest }

/-- R248: standby power sets LCNT to 0 when it is first applied; no other command sets it. -/
def Obligations.LcntSetOnce : Prop :=
  (∀ (f : Bool) (n : BitVec 128) (s : State), Reaches (.standbyPowerApplied f n) s (fun t =>
     t.clk.lcnt = if s.power.standby then s.clk.lcnt else 0)) ∧
  (∀ (i : Instr) (s t : State), exec i s = .next t → (∀ f n, i ≠ .standbyPowerApplied f n) → t.clk.lcnt = s.clk.lcnt)

/-- The model's choice of assumption 2 (the table has no row for a tick): with nothing waiting a step is one LCNT count, and
without standby power nothing moves. No command touches the queue or the part number, and none leaves a request marked as
taking up what an egress bank expanded for it. -/
def Obligations.TimeAndFrame : Prop :=
  (∀ s : State, s.pending = [] →
     (s.power.standby = false → step s = .next s) ∧
     (s.power.standby = true → ∃ t, step s = .next t ∧ t.clk.lcnt = s.clk.lcnt + 1 ∧ t.pending = [] ∧ t.variant = s.variant)) ∧
  (∀ (i : Instr) (s t : State), exec i s = .next t → t.pending = s.pending ∧ t.variant = s.variant ∧
    (s.comp.taker = none → t.comp.taker = none))

/-- Memory keeps its canonical form: whatever the state, a step from canonical memory leaves canonical memory. -/
def Obligations.MemoryStaysCanonical : Prop :=
  ∀ s t : State, MemoryCanonical s → step s = .next t → MemoryCanonical t

/-- Memory is canonical after a module reset of each part number, with nothing listed.
Where the spec leaves it open, the model's choices are those of assumptions 1 and 5. -/
def Obligations.ResetMemoryCanonical : Prop :=
  ∀ v : Variant, MemoryCanonical (fresh v) ∧ (fresh v).pods.mem = [] ∧ (fresh v).ten.mem = [] ∧ (fresh v).pending = [] ∧
    State.reset = fresh .t

/-- R497, R508 to R510, R514: the IDENT registers read the values of the part number in every state, CAP_NEAR and CAP_DEEP the usable
tracts, which are R509's right after reset; right after a module reset the set-up registers read their stated reset values.
Where the spec leaves it open, the model's choices are those of assumption 1. -/
def Obligations.ResetRegisterValues : Prop :=
  ((∀ (s : State), (∀ e ∈ partWords s.variant, s.readReg .ident e.1 = e.2) ∧
     (s.regs.dieStep = 0x10 → s.regs.boardStep = 0x02 → s.regs.acornVer = 0x01 → ∀ e ∈ identWords, s.readReg .ident e.1 = e.2)) ∧
   (∀ v : Variant, (fresh v).readReg .ident 0x40 = (capWords v).1 ∧ (fresh v).readReg .ident 0x44 = (capWords v).2 ∧
     (∀ e ∈ identWords, (fresh v).readReg .ident e.1 = e.2))) ∧
  (∀ e ∈ resetWords, State.reset.readReg e.1 e.2.1 = e.2.2)

/-- R131, R132: decoding the word of any core instruction, with any operands, gives that instruction back. -/
def Obligations.DecodeOfEncode : Prop :=
  ∀ (i : Instr) (w : Word), encodeCore i = some w → decodeCore (coreOf i) w = some i

/-- R130 to R132: a word that is an instruction is that instruction's encoding, so no two words spell one instruction and
no reserved bit is free. -/
def Obligations.EncodeOfDecode : Prop :=
  ∀ (c : Nat) (w : Word) (i : Instr), decodeCore c w = some i → encodeCore i = some w ∧ coreOf i = c
namespace Sys2Proof.Claims

open Sys2Proof.Machine

/-- Everything but the channels, the descriptor table, the port output and the journals is as before. -/
def OnlyChannels (s t : State) : Prop :=
  t = { s with chan := { s.chan with chans := t.chan.chans, descs := t.chan.descs, hostTx := t.chan.hostTx }
               evt := { s.evt with journals := t.evt.journals } }

/-- The doorbell line of channel `n` is read: a read goes out, and the channel waits for its return. -/
def lineRead (s : State) (n : Nat) : State :=
  (s.setCh n { s.ch n with reading := true, lastRead := s.clk.lcnt.toNat }).send (.dbRead n)

/-- The scanner is in service. -/
def ScannerUp (s : State) : Prop := s.unitDown .scanner 0 = false

/-- What R220, R222 and R465 ask before the channel's next descriptor is taken, besides the launch table's room. -/
def MayTake (s : State) (n : Nat) : Prop :=
  ScannerUp s ∧ s.evt.replay = false ∧ s.clk.mstate = .active ∧ s.canAccept n = true ∧ s.turnOk n = true ∧ s.accepts < 64 ∧
    s.jrnRoom n = true

end Sys2Proof.Claims

/-- R220, R222, R226, R228, R241, R464: the channel's next descriptor, where it may be taken, gets a descriptor-table
entry with its 64 bytes, ring index, acceptance count and module-wide acceptance number, and SQ_HEAD and the counters
advance; a malformed one ends MALFORMED at once and adds no gate completion, and so does one of an unbound channel
with ACCESS_DENIED.
Where the spec leaves it open, the model's choices are those of assumptions 14 and 61. -/
def Obligations.DescriptorAcceptance : Prop :=
  ∀ (ch : BitVec 10) (desc : BitVec 512) (s : State), MayTake s ch.toNat →
    (BitVec.ofNat 8 desc.toNat ≠ 0x20 ∨ s.launches < 2048) →
    Reaches (.descriptorAccept ch desc) s (fun t =>
      (t.ch ch.toNat).sqHead = (s.ch ch.toNat).sqHead + 1 ∧ (t.ch ch.toNat).accepted = (s.ch ch.toNat).accepted + 1 ∧
      (∀ j, j ≠ ch.toNat → (t.ch j).sqHead = (s.ch j).sqHead ∧ (t.ch j).accepted = (s.ch j).accepted) ∧
      t.chan.go = s.chan.go + 1 ∧ t.chan.next = s.chan.next + 1 ∧
      ∃ x, t.desc s.chan.next = some x ∧ x.chan = ch.toNat ∧ x.index = (s.ch ch.toNat).sqHead ∧ x.bits = desc ∧
        x.party = (s.ch ch.toNat).party ∧ x.accept = s.clk.lcnt.toNat ∧ x.go = s.chan.go ∧
        (x.wellFormed = false → x.phase = .ended ∧ x.status = 0x0010 ∧ x.noGate = true) ∧
        (x.wellFormed = true → s.variant = .t → x.field 58 1 ≤ 100 → x.redPods ≤ 100 → x.party = none → x.opcode < 0x38 →
          x.phase = .ended ∧ x.status = 0x0012 ∧ x.noGate = true))

/-- R227, R228, R235 to R239, R241, R259, R260: a descriptor whose start count has come starts, counted late where MODE
is not 0 and the count is past, or ends with the status decided at its acceptance; one that has ended writes its
32-byte entry at the tail of its completion ring, adds its gate completion unless it ended malformed or denied, sends
a message only with IRQ, and leaves the table.
Where the spec leaves it open, the model's choices are those of assumptions 17 and 62. -/
def Obligations.DescriptorsStartAndComplete : Prop :=
  (∀ (d : Nat) (s : State) (x : Desc) (t0 : Nat), s.desc d = some x → x.phase = .accepted → x.due = some t0 →
    t0 ≤ s.clk.lcnt.toNat → x.decided = false → s.clk.mstate = .active → s.evt.replay = false → x.opcode ≠ 0x20 →
    Reaches (.descriptorStart d) s (fun t =>
      (∃ y, t.desc d = some y ∧ y = { x with phase := .started, bufs := y.bufs } ∧ x.bufs ≤ y.bufs) ∧
      (∀ j, j ≠ d → t.desc j = s.desc j) ∧
      t.clk.launchLate = s.clk.launchLate +
        (if x.mode ≠ 0 ∧ x.start.getD 0 < s.clk.lcnt.toNat then 1 else 0))) ∧
  (∀ (d : Nat) (s : State) (x : Desc) (t0 : Nat), s.desc d = some x → x.phase = .accepted → x.due = some t0 →
    t0 ≤ s.clk.lcnt.toNat → x.decided = true → Reaches (.descriptorStart d) s (fun t =>
      t.desc d = some { x with phase := .ended } ∧ (∀ j, j ≠ d → t.desc j = s.desc j) ∧
      t = { s with chan := { s.chan with descs := t.chan.descs } })) ∧
  (∀ (d : Nat) (s : State) (x : Desc), s.desc d = some x → x.phase = .ended → (s.ch x.chan).state ≠ .stopped →
    s.evt.replay = false → Reaches (.descriptorComplete d) s (fun t =>
      (let c := s.ch x.chan
       let n := 2 ^ c.sqLog2.toNat
       t.desc d = none ∧ (t.ch x.chan).cqTail = c.cqTail + 1 ∧
       (∃ rest, t.chan.hostTx = s.chan.hostTx ++
          .write c.port.toNat (c.cqBase + BitVec.ofNat 64 (32 * (c.cqTail.toNat % n))) x.pasid false
            (entryBytes x c.sqHead (1 - c.cqTail.toNat / n % 2) (x.late s.clk.lcnt.toNat)) :: rest ∧
          (x.irq = false → rest = []) ∧ (∀ e ∈ rest, e = .msix c.port.toNat c.vector)) ∧
       (∀ g, t.gate g = if x.noGate = false ∧ x.doneGate = some g
          then { s.gate g with adds := (s.gate g).adds + 1 } else s.gate g)))) ∧
  (∀ (x : Desc) (head : Word) (ph : Nat) (late : Bool), ph < 2 →
    (let b := entryBytes x head ph late
     b.length = 32 ∧ fieldAt b 0 4 = x.field 16 4 ∧ fieldAt b 4 4 = x.index.toNat ∧ fieldAt b 8 4 = head.toNat ∧
     fieldAt b 12 2 = x.status.toNat ∧ fieldAt b 14 1 = x.opcode ∧ fieldAt b 15 1 = ph + (if late then 2 else 0) ∧
     fieldAt b 16 8 = x.d0.toNat ∧ fieldAt b 24 8 = x.d1.toNat))

/-- R216 to R219, R252: a poll that is due, and a doorbell message of a watched line, read the line; the read's return stores
both indexes, and reads the line again where it was written meanwhile; a new SQ_TAIL starts a wake of a module that sleeps. Other channels are not touched. R213, R214, R216,
R223 to R225, R238: ENABLE 1 takes a DISABLED channel to RUNNING with its indexes at 0 and reads its doorbell; ENABLE 0
takes a RUNNING one to DRAINING and cancels what has not started; once nothing is open the channel is DISABLED; the end of a
holdoff sends the message owed; a waiting buffer request that the rules let through is granted, and a descriptor that holds
more than the blocks still on their way need gives a buffer back.
Where the spec leaves it open, the model's choices are those of assumptions 13 and 101. -/
def Obligations.ChannelStates : Prop :=
  ((∀ (ch : BitVec 10) (s : State), ScannerUp s → (s.ch ch.toNat).state = .running → (s.ch ch.toNat).watched = false →
     (s.ch ch.toNat).reading = false → (s.ch ch.toNat).lastRead + (s.ch ch.toNat).poll.toNat ≤ s.clk.lcnt.toNat →
     exec (.doorbellPoll ch) s = .next (lineRead s ch.toNat)) ∧
   (∀ (ch : BitVec 10) (s : State), ScannerUp s → (s.ch ch.toNat).state = .running → (s.ch ch.toNat).watched = true →
     exec (.doorbellInvalidation ch) s = .next (if (s.ch ch.toNat).reading then s.setCh ch.toNat { s.ch ch.toNat with stale := true }
       else lineRead s ch.toNat)) ∧
   (∀ (ch : BitVec 10) (sq cq : Word) (s : State), ScannerUp s → (s.ch ch.toNat).state = .running →
     (s.ch ch.toNat).reading = true → Reaches (.doorbellReadReturn ch sq cq) s (fun t =>
       (t.ch ch.toNat).sqTail = sq ∧ (t.ch ch.toNat).cqHead = cq ∧ (t.ch ch.toNat).reading = (s.ch ch.toNat).stale ∧
       t.chan.hostTx = s.chan.hostTx ++ (if (s.ch ch.toNat).stale then [.dbRead ch.toNat] else []) ∧
       (t.ch ch.toNat).sqHead = (s.ch ch.toNat).sqHead ∧ (∀ j, j ≠ ch.toNat → t.ch j = s.ch j) ∧
       (sq ≠ (s.ch ch.toNat).sqTail → s.clk.mstate = .idle → s.clk.waking = none →
         t.clk.waking = some (s.clk.lcnt.toNat + 50) ∧ t.clk.wakeCause = s.clk.wakeCause ||| 1) ∧
       (sq ≠ (s.ch ch.toNat).sqTail → s.clk.mstate = .doze → s.clk.waking = none →
         t.clk.waking = some (s.clk.lcnt.toNat + 1000) ∧ t.clk.wakes = s.clk.wakes + 1) ∧
       (sq = (s.ch ch.toNat).sqTail → t.clk = s.clk)))) ∧
  ((∀ (ch : BitVec 10) (s : State), (s.ch ch.toNat).state = .disabled → (s.ch ch.toNat).port.toNat < s.variant.hostPorts →
     Reaches (.channelEnable ch) s (fun t =>
       (t.ch ch.toNat).state = .running ∧ (t.ch ch.toNat).enable = true ∧ (t.ch ch.toNat).sqHead = 0 ∧ (t.ch ch.toNat).cqTail = 0 ∧
       (t.ch ch.toNat).sqTail = 0 ∧ (t.ch ch.toNat).cqHead = 0 ∧ (t.ch ch.toNat).reading = true ∧
       t.chan.hostTx = s.chan.hostTx ++ [.dbRead ch.toNat] ∧ (∀ j, j ≠ ch.toNat → t.ch j = s.ch j) ∧ OnlyChannels s t)) ∧
   (∀ (ch : BitVec 10) (s : State), (s.ch ch.toNat).state = .running →
     Reaches (.channelDisable ch) s (fun t =>
       (t.ch ch.toNat).state = .draining ∧ (t.ch ch.toNat).enable = false ∧ (∀ j, j ≠ ch.toNat → t.ch j = s.ch j) ∧
       (∀ d x, s.desc d = some x → x.chan = ch.toNat → x.phase = .accepted →
         t.desc d = some { x with
           phase := .ended, status := 0x0019, d0 := 0
           d1 := if x.opcode ∈ [0x01, 0x02, 0x03, 0x18, 0x19] then 0xFFFFFFFFFFFFFFFF else 0 }) ∧
       (∀ d, d ∉ s.unstarted ch.toNat → t.desc d = s.desc d))) ∧
   (∀ (ch : BitVec 10) (s : State), (s.ch ch.toNat).state ≠ .running →
     exec (.channelDisable ch) s = .next (s.setCh ch.toNat { s.ch ch.toNat with
       enable := false, leaving := decide ((s.ch ch.toNat).state = .stopped) || (s.ch ch.toNat).leaving })) ∧
   (∀ (ch : BitVec 10) (s : State), (∀ e ∈ s.chan.descs, e.2.chan ≠ ch.toNat) →
     ((s.ch ch.toNat).state = .draining ∨ ((s.ch ch.toNat).state = .stopped ∧ (s.ch ch.toNat).leaving = true)) →
     exec (.channelDrained ch) s = .next (s.setCh ch.toNat { s.ch ch.toNat with state := .disabled })) ∧
   (∀ (ch : BitVec 10) (s : State) (t0 : Nat), (s.ch ch.toNat).holdEnd = some t0 → t0 ≤ s.clk.lcnt.toNat →
     exec (.msixHoldoffEnd ch) s = .next
       (if (s.ch ch.toNat).owed then
         (s.setCh ch.toNat { s.ch ch.toNat with owed := false, holdEnd := some (s.clk.lcnt.toNat + (s.ch ch.toNat).holdoff.toNat) }).msix
           (s.ch ch.toNat).port.toNat (s.ch ch.toNat).vector ch.toNat
        else s.setCh ch.toNat { s.ch ch.toNat with holdEnd := none })) ∧
   (∀ (ch : BitVec 10) (s : State) (at_ d : Nat) (x : Desc) (r : List (Nat × Option Nat)), s.grantable ch.toNat = true →
     (s.ch ch.toNat).asks = (at_, some d) :: r → s.desc d = some x → Reaches (.xbufGrant ch) s (fun t =>
       t.ch ch.toNat = { s.ch ch.toNat with asks := r, held := (s.ch ch.toNat).held + 1 } ∧
       (∀ j, j ≠ ch.toNat → t.ch j = s.ch j) ∧ t.desc d = some { x with bufs := x.bufs + 1 } ∧
       (∀ j, j ≠ d → t.desc j = s.desc j) ∧ OnlyChannels s t)) ∧
   (∀ (ch : BitVec 10) (s : State) (d : Nat) (x : Desc), s.desc d = some x → x.chan = ch.toNat → 0 < x.bufs → x.phase = .ended →
     Reaches (.xbufRelease ch) s (fun t =>
       t.ch ch.toNat = { s.ch ch.toNat with held := (s.ch ch.toNat).held - 1 } ∧ (∀ j, j ≠ ch.toNat → t.ch j = s.ch j) ∧
       (∃ e y, s.bufsNeeded e y < y.bufs ∧ (e, y) ∈ s.chan.descs ∧ y.chan = ch.toNat ∧ 0 < y.bufs ∧
         t.desc e = some { y with bufs := y.bufs - 1 } ∧ (∀ j, j ≠ e → t.desc j = s.desc j)) ∧ OnlyChannels s t)))
namespace Sys2Proof.Claims

open Sys2Proof.Machine

/-- Descriptor `d` has been handed to its unit, is of this opcode and sub-operation, and holds the buffer it needs. -/
def AtUnit (s : State) (d op sub : Nat) (x : Desc) : Prop :=
  s.desc d = some x ∧ x.phase = .started ∧ x.opcode = op ∧ x.subop = sub ∧ s.hasBuf x = true

/-- The module memory or host address that the slot at byte `lo` names. -/
def Names (s : State) (x : Desc) (lo : Nat) (sl : Slot) : Prop := ∃ raw, x.slot lo = some raw ∧ s.resolve raw = sl

/-- Descriptor `d` ended with a status and details, and no other descriptor was touched. -/
def Ended (s t : State) (d : Nat) (st : BitVec 16) (d0 d1 : DWord) : Prop :=
  (∃ y, t.desc d = some y ∧ y.phase = .ended ∧ y.status = st ∧ y.d0 = d0 ∧ y.d1 = d1) ∧ ∀ j, j ≠ d → t.desc j = s.desc j

/-- Ended OK with every one of `n` units written. -/
def EndedOk (s t : State) (d n : Nat) : Prop := Ended s t d 0 (BitVec.ofNat 64 n) (BitVec.allOnes 64)

/-- Both operands pass what a data phase checks, no access waits, and no other request is taking up what a bank expanded
for it. -/
def Clear (s : State) (x : Desc) (src dst : Slot) (len : Nat) : Prop :=
  s.phaseStatus x src dst = none ∧ s.granting srcMovers (.desc x.go) (src.accs len false ++ dst.accs len true) = true ∧
    s.comp.taker = none

/-- The blocks whose plain bytes a COPY needs: the source's, and those of a module destination that it merges into. -/
def plainBlocks (s : State) (x : Desc) (src dst : Slot) (len : Nat) : List Slot :=
  src.blocks len ++ (if src.isPeer then [] else s.mergesOf (.desc x.go) src dst len)

/-- The state in which a request reads the plain bytes of blocks: a bank's expansions taken up where one is a husk (R112). -/
def given (s : State) (w : Who) (l : List Slot) : State := if (s.husksOf l).isEmpty then s else s.taking w

/-- A request's accesses need not wait, and a bank has delivered every husk among the blocks it reads plain. -/
def Readable (s : State) (src : Nat) (w : Who) (accs : List Acc) (l : List Slot) : Prop :=
  s.granting src w accs = true ∧ s.plainReady w l = true ∧ s.comp.taker = none

end Sys2Proof.Claims

/-- R73 to R75, R230, R233, R239 and the model's order of imported blocks (assumption 11): a STORED COPY between extents
leaves each destination block with the metadata word and stored bytes of its source; one of raw blocks from the host
stores the bytes read, one to the host writes each block's sectors and tag; a PLAIN COPY from the host writes each byte
and no other. All end OK with the units written. A PLAIN COPY of husks first queues them at an egress bank (R112), and a COPY
whose tracts make it wait leaves what its accesses leave (R36, R41, R49). -/
def Obligations.CopyDescriptors : Prop :=
  (∀ (d : Nat) (h : HostData) (s : State) (x : Desc) (hs hd : Word) (os od n : Nat), AtUnit s d 1 0 x →
    Names s x 24 (.ext hs os) → Names s x 40 (.ext hd od) → hs ≠ hd → os % 4096 = 0 → od % 4096 = 0 → x.field 56 8 = 4096 * n →
    os / 4096 + n ≤ 2 ^ 36 → od / 4096 + n ≤ 2 ^ 36 → Clear s x (.ext hs os) (.ext hd od) (4096 * n) →
    (∀ i, i < n → mwPoison (s.blkMeta hs (os / 4096 + i)) = false) →
    Reaches (.copyStored d h) s (fun t => EndedOk s t d n ∧
      (∀ i, i < n → t.blkMeta hd (od / 4096 + i) = s.blkMeta hs (os / 4096 + i) ∧
        t.blkBytes hd (od / 4096 + i) = s.blkBytes hs (os / 4096 + i)) ∧
      (∀ g b, (g ≠ hd ∨ b < od / 4096 ∨ od / 4096 + n ≤ b) → b < 2 ^ 36 → t.blkMeta g b = s.blkMeta g b) ∧ t.pods = s.pods)) ∧
  (∀ (d : Nat) (h : HostData) (s : State) (x : Desc) (a : DWord) (at_ : Bool) (hd : Word) (od n : Nat), AtUnit s d 1 0 x →
    Names s x 24 (.host a at_) → Names s x 40 (.ext hd od) → od % 4096 = 0 → x.field 56 8 = 4096 * n → 4097 * n ≤ h.bytes.length →
    x.cut = false → Clear s x (.host a at_) (.ext hd od) (4096 * n) → (∀ i, i < n → h.bytes.getD (4097 * i) 0 = 0x3F) →
    Reaches (.copyStored d h) s (fun t => EndedOk s t d n ∧
      ∀ i, i < n → t.blkMeta hd (od / 4096 + i) = 0x3F ∧
        t.blkBytes hd (od / 4096 + i) = (h.bytes.drop (4097 * i + 1)).take 4096)) ∧
  (∀ (d : Nat) (h : HostData) (s : State) (x : Desc) (hs : Word) (os : Nat) (a : DWord) (at_ : Bool) (n : Nat), AtUnit s d 1 0 x →
    Names s x 24 (.ext hs os) → Names s x 40 (.host a at_) → os % 4096 = 0 → x.field 56 8 = 4096 * n → h.refused = none →
    x.cut = false → Clear s x (.ext hs os) (.host a at_) (4096 * n) →
    (∀ i, i < n → mwPoison (s.blkMeta hs (os / 4096 + i)) = false) →
    Reaches (.copyStored d h) s (fun t => EndedOk s t d n ∧ t.ten = s.ten ∧
      t.chan.hostTx = s.chan.hostTx ++ (List.range n).flatMap (fun i =>
        [.write (s.ch x.chan).port.toNat (a + BitVec.ofNat 64 (4096 * i)) x.pasid (at_ && (s.hport (s.ch x.chan).port.toNat).atsEn)
           (s.blkBytes hs (os / 4096 + i)),
         .write (s.ch x.chan).port.toNat (a + BitVec.ofNat 64 (4096 * n + i)) x.pasid (at_ && (s.hport (s.ch x.chan).port.toNat).atsEn)
           [(s.blkMeta hs (os / 4096 + i)).extractLsb' 0 8]]))) ∧
  (∀ (d : Nat) (h : HostData) (s : State) (x : Desc) (a : DWord) (at_ : Bool) (hd : Word) (od len : Nat), AtUnit s d 1 1 x →
    Names s x 24 (.host a at_) → Names s x 40 (.ext hd od) → x.field 56 8 = len → len ≤ h.bytes.length →
    x.cut = false → Clear s x (.host a at_) (.ext hd od) len → (∀ b, b < 2 ^ 36 → s.blkMeta hd b = 0x3F) → od + len ≤ 2 ^ 48 →
    Reaches (.copyPlain d h) s (fun t => EndedOk s t d len ∧ t.pods = s.pods ∧ (∀ b, b < 2 ^ 36 → t.blkMeta hd b = 0x3F) ∧
      ∀ a, Store.byte t.ten.mem a =
        if extByteKey hd od ≤ a ∧ a < extByteKey hd od + len then h.bytes.getD (a - extByteKey hd od) 0
        else Store.byte s.ten.mem a)) ∧
  (∀ (d : Nat) (h : HostData) (s : State) (x : Desc) (src dst : Slot) (sub : Nat), AtUnit s d 1 sub x → sub < 2 → Names s x 24 src →
    Names s x 40 dst → Clear s x src dst (x.field 56 8) →
    (sub = 1 → s.plainReady (.desc x.go) (plainBlocks s x src dst (x.field 56 8)) = true) →
    Reaches (if sub = 0 then .copyStored d h else .copyPlain d h) s (fun t => ∃ y, t.desc d = some y ∧ (y.phase = .ended ∨ y.phase = .working))) ∧
  (∀ (d : Nat) (h : HostData) (s : State) (x : Desc) (src dst : Slot), AtUnit s d 1 1 x → Names s x 24 src → Names s x 40 dst →
    src.isPeer = false → Clear s x src dst (x.field 56 8) →
    s.plainReady (.desc x.go) (plainBlocks s x src dst (x.field 56 8)) = false →
    exec (.copyPlain d h) s = .next (s.askPlains (.desc x.go) (plainBlocks s x src dst (x.field 56 8)))) ∧
  (∀ (d : Nat) (h : HostData) (s : State) (x : Desc) (src dst : Slot), AtUnit s d 1 0 x → Names s x 24 src → Names s x 40 dst →
    s.phaseStatus x src dst = none →
    s.granting srcMovers (.desc x.go) (src.accs (x.field 56 8) false ++ dst.accs (x.field 56 8) true) = false →
    exec (.copyStored d h) s = .next (s.waiting srcMovers (.desc x.go) (src.accs (x.field 56 8) false ++ dst.accs (x.field 56 8) true)))

/-- R72, R82, R112, R115, R116, R230: an ENCODE of raw blocks hands one job for each, in order, to the encoder engines
and works until they are stored; a DECODE from the module is under way at its egress bank; a data descriptor that a pod
or a read-only extent refuses ends with that status.
Where the spec leaves it open, the model's choices are those of assumption 59. -/
def Obligations.CodingDescriptors : Prop :=
  (∀ (d sub : Nat) (h : HostData) (s : State) (x : Desc) (hs hd : Word) (os od n : Nat), sub < 2 → AtUnit s d 2 sub x →
    Names s x 24 (.ext hs os) → Names s x 40 (.ext hd od) → os % 4096 = 0 → x.field 56 4 = n → 0 < n →
    s.phaseStatus x (.ext hs os) (.ext hd od) = none →
    s.granting srcMovers (.desc x.go) (accsOf hs os (4096 * n) false) = true → s.comp.taker = none →
    (∀ i, i < n → s.blkMeta hs (os / 4096 + i) = 0x3F) →
    Reaches (.encode d h) s (fun t =>
      (∃ y, t.desc d = some y ∧ y.phase = .working ∧ y.jobs = n ∧ y.done = n) ∧ (∀ j, j ≠ d → t.desc j = s.desc j) ∧
      (∃ u : State, u.comp.encQueue = s.comp.encQueue ∧ u.comp.engines = s.comp.engines ∧
        t = u.enqueue ((List.range n).map (fun i => x.job d (.ext hd od) i (s.blkBytes hs (os / 4096 + i))))) ∧
      t.ten = s.ten ∧ t.pods = s.pods)) ∧
  (∀ (d : Nat) (s : State) (x : Desc) (hs : Word) (os : Nat) (dst : Slot), AtUnit s d 3 0 x → Names s x 24 (.ext hs os) →
    Names s x 40 dst → s.phaseStatus x (.ext hs os) dst = none → x.aux = 0 → 0 < x.field 56 4 →
    (s.bank (1000 + d % 8)).queue = [] → os % 4096 = 0 →
    Reaches (.decode d) s (fun t =>
      (∃ y, t.desc d = some y ∧ y.phase = .working ∧ y.aux = min 16 (x.field 56 4)) ∧ (∀ j, j ≠ d → t.desc j = s.desc j) ∧
      (t.bank (1000 + d % 8)).queue.map (fun q => (q.owner, q.addr, q.word)) =
        (List.range (min 16 (x.field 56 4))).map (fun i => (d, i, s.blkMeta hs (os / 4096 + i))) ∧
      t.ten = s.ten ∧ t.pods = s.pods)) ∧
  (∀ (d op sub : Nat) (h : HostData) (s : State) (x : Desc) (src dst : Slot) (st : BitVec 16), AtUnit s d op sub x →
    Names s x 24 src → Names s x 40 dst → s.phaseStatus x src dst = some st →
    (op = 1 → sub = 0 → Reaches (.copyStored d h) s (fun t => Ended s t d st 0 (BitVec.allOnes 64))) ∧
    (op = 1 → sub = 1 → Reaches (.copyPlain d h) s (fun t => Ended s t d st 0 (BitVec.allOnes 64))) ∧
    (op = 2 → Reaches (.encode d h) s (fun t => Ended s t d st 0 (BitVec.allOnes 64))) ∧
    (op = 3 → sub = 0 → Reaches (.decode d) s (fun t => Ended s t d st 0 (BitVec.allOnes 64))))

/-- R68, R76, R81, R83, R87, R234: LOAD of a list that passes its checks makes the id LOADED by the issuer, an id in use is
TABLE_BUSY and a bad list MALFORMED_TABLE; a BUILD waits, and run once nothing accepted before it counts any longer it
installs the list its context's counts give; DROP gives up the load reference, and an id nothing else uses is FREE;
CAPS writes the record of the part number and state. -/
def Obligations.TableDescriptors : Prop :=
  (∀ (d : Nat) (h : HostData) (s : State) (x : Desc) (p : BitVec 8) (a : DWord) (at_ : Bool), AtUnit s d 0x28 0 x →
    x.party = some p → Names s x 40 (.host a at_) → h.refused = none → 128 ≤ h.bytes.length → x.cut = false →
    (let id := BitVec.ofNat 16 (x.field 24 2)
     let list := h.bytes.take 128
     (s.comp.inUse id = true → Reaches (.load d h) s (fun t => Ended s t d 0x0027 0 0 ∧ t.comp = s.comp)) ∧
     (s.comp.inUse id = false → listOk list = false → Reaches (.load d h) s (fun t => Ended s t d 0x0026 0 0 ∧ t.comp = s.comp)) ∧
     (s.comp.inUse id = false → listOk list = true → Reaches (.load d h) s (fun t => Ended s t d 0 0 0 ∧
       t.table id = some { owner := p, list := list, loadRef := true } ∧ (∀ j, j ≠ id → t.table j = s.table j))))) ∧
  (∀ (d : Nat) (s : State) (x : Desc), AtUnit s d 0x28 1 x →
    exec (.build d) s = .next (s.setDesc d { x with phase := .working })) ∧
  (∀ (d : Nat) (s : State) (x : Desc) (p : BitVec 8), s.desc d = some x → x.opcode = 0x28 → x.subop = 1 → x.phase = .working →
    x.party = some p → s.counting (x.field 26 1) (fun o => decide (o ≤ x.go)) = [] → s.evt.replay = false →
    ((s.engineOf d).isSome = true ∨ s.freeEngine.1 < 16) →
    (let id := BitVec.ofNat 16 (x.field 24 2)
     let c := s.hctxOf (x.field 26 1)
     s.comp.inUse id = false → (c.owner = none ∨ c.owner = some p) → c.aside = [] →
     Reaches (.buildRun d) s (fun t => Ended s t d 0 0 0 ∧
       t.table id = some { owner := p, list := packLens (buildLens (fun i => Table.get 0 c.counts i)), loadRef := true } ∧
       (∀ j, j ≠ id → t.table j = s.table j) ∧ (t.hctxOf (x.field 26 1)).counts = [] ∧
       (∀ n, n ≠ x.field 26 1 → t.hctxOf n = s.hctxOf n)))) ∧
  (∀ (d : Nat) (s : State) (x : Desc) (e : TableEnt), AtUnit s d 0x28 2 x → x.aux = 1 →
    (let id := BitVec.ofNat 16 (x.field 24 2)
     s.table id = some e → e.loadRef = true →
     Reaches (.drop d) s (fun t => Ended s t d 0 0 0 ∧
       t.table id = (if e.refs = 0 ∧ e.queued = 0 ∧ s.comp.pinned id = false then none else some { e with loadRef := false }) ∧
       (∀ j, j ≠ id → t.table j = s.table j)))) ∧
  (∀ (d : Nat) (s : State) (x : Desc) (a : DWord) (at_ : Bool), AtUnit s d 0x38 0 x → Names s x 40 (.host a at_) →
    a.toNat % 4096 ≤ 4032 → x.cut = false → Reaches (.caps d) s (fun t => Ended s t d 0 0 0 ∧
      ∃ b : Bytes, t.chan.hostTx = s.chan.hostTx ++ [.write (s.ch x.chan).port.toNat a x.pasid (at_ && (s.hport (s.ch x.chan).port.toNat).atsEn) b] ∧ b.length = 64 ∧
        fieldAt b 0 1 = s.variant.code ∧ fieldAt b 1 1 = s.variant.pods ∧ fieldAt b 2 1 = s.variant.znStacks ∧
        fieldAt b 3 1 = s.variant.zdStacks ∧ fieldAt b 4 1 = s.variant.fabPorts ∧ fieldAt b 5 1 = s.variant.hostPorts ∧
        fieldAt b 6 1 = 8 ∧ fieldAt b 7 1 = 16 ∧ fieldAt b 8 1 = 64 ∧ fieldAt b 10 2 = 1024 ∧ fieldAt b 12 2 = 256 ∧
        fieldAt b 14 2 = 256 ∧ fieldAt b 16 4 = s.place.nearUsable % 2 ^ 32 ∧ fieldAt b 20 4 = s.place.deepUsable % 2 ^ 32 ∧
        fieldAt b 32 8 = (s.lcntOf moverUnit).toNat))

/-- R235, R261, R262, R265, R268: FENCE ends once no earlier descriptor of its channel is left, GATE_WAIT once the count is
reached; GATE_OPEN of a gate of this module adds its completions, to be applied at the end of the count, or sets the
target: of MODE 0 at once, else at the end of the count, with the other ARMs that started in it.
Where the spec leaves it open, the model's choices are those of assumptions 60 and 63. -/
def Obligations.OrderDescriptors : Prop :=
  (∀ (d : Nat) (s : State) (x : Desc), AtUnit s d 0x30 0 x → (∀ e ∈ s.chan.descs, e.2.chan = x.chan → x.go ≤ e.2.go) →
    exec (.fence d) s = .next (s.endDesc d 0 0 0)) ∧
  (∀ (d : Nat) (s : State) (x : Desc), AtUnit s d 0x30 0 x → (∃ e ∈ s.chan.descs, e.2.chan = x.chan ∧ e.2.go < x.go) →
    exec (.fence d) s = .next s) ∧
  (∀ (d : Nat) (s : State) (x : Desc), AtUnit s d 0x31 0 x → (s.gate (BitVec.ofNat 8 (x.field 24 1))).wild = false →
    (Reached s (BitVec.ofNat 8 (x.field 24 1)) (BitVec.ofNat 32 (x.field 28 4)) → exec (.gateWait d) s = .next (s.endDesc d 0 0 0)) ∧
    (¬ Reached s (BitVec.ofNat 8 (x.field 24 1)) (BitVec.ofNat 32 (x.field 28 4)) → exec (.gateWait d) s = .next s)) ∧
  (∀ (d : Nat) (s : State) (x : Desc), (x.field 26 2 < 32768 ∨ s.fab.did = some (BitVec.ofNat 12 (x.field 26 2))) →
    (let g := BitVec.ofNat 8 (x.field 24 1)
     let v := BitVec.ofNat 32 (x.field 28 4)
     (AtUnit s d 0x32 0 x → Reaches (.gateOpenAdd d) s (fun t => Ended s t d 0 0 0 ∧
       t.gate g = { s.gate g with adds := (s.gate g).adds + v, wild := (s.gate g).wild || decide (2 ^ 31 ≤ v.toNat) } ∧
       ∀ j, j ≠ g → t.gate j = s.gate j)) ∧
     (AtUnit s d 0x32 1 x → Reaches (.gateOpenArm d) s (fun t => Ended s t d 0 0 0 ∧
       t.gate g = (if x.mode = 0 then { s.gate g with t := v }
         else { s.gate g with starts := (s.gate g).starts ++ [(x.chan, x.go, v)] }) ∧ ∀ j, j ≠ g → t.gate j = s.gate j))))
namespace Sys2Proof.Claims

open Sys2Proof.Machine

/-- A range request of party `p` on the tracts `ts` of extent `h` is at the placement engine, every tract-map entry on
die and no outcome recorded (R34, R41). -/
def RangeAt (s : State) (d op : Nat) (x : Desc) (h : Word) (ts : List Nat) (p : BitVec 8) : Prop :=
  AtUnit s d op 0 x ∧ (∃ off, x.slot 24 = some (.ext h off) ∧ ts = rangeTracts off (x.field 56 8) ∧ off + x.field 56 8 ≤ 2 ^ 41) ∧
    x.party = some p ∧ s.unitDown .placement 0 = false ∧ (∀ u ∈ ts, s.mapped h u = true) ∧
    x.tracts = [] ∧ x.retained = false ∧ x.poisoned = false

/-- The counts of party `p` on the tracts `ts` became `f` of what they were; no other count changed. -/
def CountsBecome (s t : State) (h : Word) (ts : List Nat) (p : BitVec 8) (f : Nat → Nat) : Prop :=
  ∀ (g : Word) (u : Nat) (q : BitVec 8), u < 2 ^ 20 →
    t.pin g u q = if g = h ∧ u ∈ ts ∧ q = p then f (s.pin g u q) else s.pin g u q

/-- A tract but for where its near copy lies and when its copy began. -/
def bare (x : Tract) : Tract := { x with near := none, began := 0 }

/-- The tracts `ts` of extent `h` became `f` of what they were, but for where their near copies lie and when copies began;
no other tract changed. -/
def TractsBecome (s t : State) (h : Word) (ts : List Nat) (f : Nat → Tract → Tract) : Prop :=
  ∀ (g : Word) (u : Nat), u < 2 ^ 20 →
    if g = h ∧ u ∈ ts then bare (t.tract g u) = bare (f u (s.tract g u)) else t.tract g u = s.tract g u

/-- The tract's map entry is on its way where it is not on die. -/
def fetched (x : Tract) : Tract := { x with fetching := x.fetching || !x.cached }

/-- A range request ended, or works while it waits for the tracts `wait`. -/
def RangeLeft (s t : State) (d : Nat) (wait : List Nat) (st : BitVec 16) : Prop :=
  (wait = [] → Ended s t d st 0 0) ∧
    (wait ≠ [] → (∃ y, t.desc d = some y ∧ y.phase = .working ∧ y.tracts = wait) ∧ ∀ j, j ≠ d → t.desc j = s.desc j)

/-- What PROMOTE and EVICT do to a tract (R37). -/
def promoted (d : Nat) (x : Tract) : Tract :=
  match x.state with
  | .deep => { x with state := .promoting, promoters := [d], evicters := [], window := none }
  | .promoting => { x with promoters := x.promoters ++ [d] }
  | .evicting => { x with pending := true, promoters := x.promoters ++ [d] }
  | .near => x
  | .nearHomed => x
def evicted (d : Nat) (unpinned : Bool) (x : Tract) : Tract :=
  match x.state with
  | .deep => x
  | .promoting => { x with evicters := x.evicters ++ [d] }
  | .evicting => { x with evicters := x.evicters ++ [d] }
  | .near => if unpinned then { x with state := .evicting, pending := false, evicters := [d], promoters := [] } else x
  | .nearHomed => x

/-- Only placement state, descriptors, gates and class accounts changed. -/
def OnlyPlacement (s t : State) : Prop :=
  t = { s with place := t.place, chan := { s.chan with descs := t.chan.descs }
               clk := { s.clk with gates := t.clk.gates }, qos := t.qos }

/-- The window that an installed program makes (R42, R43). -/
def programOf (b : Bytes) (p : BitVec 8) (cls : BitVec 6) : LayerWindow :=
  { noWindow with
    party := p, cls := cls, depth := fieldAt b 2 1, entries := (List.range (fieldAt b 0 2)).map (parseEntry b)
    mode := if fieldAt b 3 1 = 0 then .once else if fieldAt b 3 1 = 1 then .cycle else .bounce
    arrival := gateField (fieldAt b 4 2) }

/-- Tracts in the largest entry. -/
def largest (x : LayerWindow) : Nat := x.entries.foldl (fun m e => max m e.count) 0

/-- Every entry lies below the last tract number an extent can have. -/
def InExtent (x : LayerWindow) : Prop := ∀ e ∈ x.entries, e.first + e.count ≤ 2 ^ 20

/-- What the start of a position's promotion leaves (R33, R37, R45, R47). -/
def Begun (s t : State) (w : Nat) (x : LayerWindow) (h : Word) (ts : List Nat) : Prop :=
  CountsBecome s t h ts x.party (fun n => if x.released ≤ x.done then n + 1 else n) ∧
    TractsBecome s t h ts (fun _ y => match y.state with
      | .deep => fetched { y with state := .promoting, promoters := [], evicters := [], window := some w }
      | .evicting => { y with pending := true }
      | _ => y) ∧
    ((∃ u ∈ ts, (s.tract h u).isNear = false) → t.window w = some { x with promoting := true, pinWait := false } ∧ t.clk = s.clk) ∧
    ((∀ u ∈ ts, (s.tract h u).isNear = true) →
      t.window w = some { x with promoting := false, done := x.done + 1, pinWait := false } ∧
      ∀ g, t.gate g = if x.arrival = some g then { s.gate g with adds := (s.gate g).adds + 1 } else s.gate g) ∧
    (∀ j, j ≠ w → t.window j = s.window j) ∧ OnlyPlacement s t ∧ t.chan = s.chan

end Sys2Proof.Claims

/-- R31, R33 to R37: a range request that a check of R34 refuses ends with that status. Else PIN and UNPIN count the party
up and down on each tract and end OK; PROMOTE counts up and starts the promotion of each DEEP tract, EVICT counts down
and starts the write-back of each NEAR tract nobody pins, each waiting for the tracts whose outcome is still to come. A
tract that EVICT must keep makes it RETAINED. Nothing else changes. -/
def Obligations.PlacementRequests : Prop :=
  (∀ (d op : Nat) (s : State) (x : Desc) (h : Word) (ts : List Nat) (p : BitVec 8) (st : BitVec 16), RangeAt s d op x h ts p →
    s.placeStatus op h ts p = some st →
    (op = 0x10 → exec (.promote d) s = .next (s.endDesc d st 0 0)) ∧ (op = 0x11 → exec (.evict d) s = .next (s.endDesc d st 0 0)) ∧
    (op = 0x12 → exec (.pin d) s = .next (s.endDesc d st 0 0)) ∧ (op = 0x13 → exec (.unpin d) s = .next (s.endDesc d st 0 0))) ∧
  (∀ (d : Nat) (s : State) (x : Desc) (h : Word) (ts : List Nat) (p : BitVec 8), RangeAt s d 0x12 x h ts p →
    s.placeStatus 0x12 h ts p = none →
    Reaches (.pin d) s (fun t => Ended s t d 0 0 0 ∧ CountsBecome s t h ts p (· + 1) ∧ OnlyPlacement s t ∧
      TractsBecome s t h ts (fun _ y => if s.tiered h ∧ y.state = .evicting then { y with pending := true } else y))) ∧
  (∀ (d : Nat) (s : State) (x : Desc) (h : Word) (ts : List Nat) (p : BitVec 8), RangeAt s d 0x13 x h ts p →
    s.placeStatus 0x13 h ts p = none →
    Reaches (.unpin d) s (fun t => Ended s t d 0 0 0 ∧ CountsBecome s t h ts p (· - 1) ∧ OnlyPlacement s t ∧
      TractsBecome s t h ts (fun _ y => y))) ∧
  (∀ (d : Nat) (s : State) (x : Desc) (h : Word) (ts : List Nat) (p : BitVec 8), RangeAt s d 0x10 x h ts p →
    s.placeStatus 0x10 h ts p = none →
    (ts.filter (fun u => decide ((s.tract h u).state = .deep))).length ≤ s.poolFree + s.leaving (ts.map (tractKey h)) →
    Reaches (.promote d) s (fun t => CountsBecome s t h ts p (· + 1) ∧ TractsBecome s t h ts (fun _ y => promoted d y) ∧
      RangeLeft s t d ((ts.filter (fun u => !(s.tract h u).isNear)).map (tractKey h)) 0 ∧ OnlyPlacement s t)) ∧
  (∀ (d : Nat) (s : State) (x : Desc) (h : Word) (ts : List Nat) (p : BitVec 8), RangeAt s d 0x11 x h ts p →
    s.placeStatus 0x11 h ts p = none →
    Reaches (.evict d) s (fun t => CountsBecome s t h ts p (· - 1) ∧
      TractsBecome s t h ts (fun u y => evicted d (decide (t.totalPins (tractKey h u) = 0)) y) ∧ OnlyPlacement s t ∧
      RangeLeft s t d ((ts.filter (fun u => decide ((s.tract h u).state = .promoting ∨ (s.tract h u).state = .evicting ∨
        ((s.tract h u).state = .near ∧ t.totalPins (tractKey h u) = 0)))).map (tractKey h))
        (if ∃ u ∈ ts, (s.tract h u).state = .nearHomed ∨ ((s.tract h u).state = .near ∧ t.totalPins (tractKey h u) ≠ 0)
         then 0x0001 else 0)))

/-- R32, R36 to R41, R52: the end of a promotion's copy makes the tract NEAR and clean, that of a write-back DEEP, or NEAR
where a promotion is pending or its extent takes no write; the descriptors that waited on it end and its stalls are counted. A tract-map entry that
arrives is on die; pressure eviction writes back the tracts accessed longest ago that nobody pins; a hot tract's
promotion starts at a period's end. Nothing else changes.
Where the spec leaves it open, the model's choices are those of assumptions 23 and 110. -/
def Obligations.PlacementEvents : Prop :=
  (∀ (h : Word) (u : Nat) (s : State) (x : Tract), u < 2 ^ 20 → s.unitDown .placement 0 = false → s.tract h u = x →
    x.state = .promoting → s.roomFor x = true → s.mapped h u = true → s.tractRecovering h u = false →
    Reaches (.promotionCopyEnd h u) s (fun t =>
      TractsBecome s t h [u] (fun _ y => { y with state := .near, dirty := 0, pending := false, promoters := [], evicters := [] }) ∧
      t.place.pins = s.place.pins ∧ t.place.stalls = s.place.stalls.filter (fun y => decide (y.tract ≠ tractKey h u)) ∧
      (∀ d y, x.promoters = [d] → x.evicters = [] → s.desc d = some y → y.tracts = [tractKey h u] → y.retained = false → y.poisoned = false →
        Ended s t d (if s.tractPoisoned h u none then St.poisoned else 0) 0 0) ∧ OnlyPlacement s t)) ∧
  (∀ (h : Word) (u : Nat) (s : State) (x : Tract), u < 2 ^ 20 → s.unitDown .placement 0 = false → s.tract h u = x →
    x.state = .evicting → s.readOnly h = false → s.mapped h u = true → s.tractRecovering h u = false →
    s.place.pressure = false →
    Reaches (.writeBackEnd h u) s (fun t =>
      TractsBecome s t h [u] (fun _ y => { y with
        state := if x.pending then .near else .deep, dirty := 0, pending := false
        promoters := [], evicters := [], window := if x.pending then y.window else none }) ∧
      t.place.pins = s.place.pins ∧
      (∀ d y, x.evicters = [d] → x.promoters = [] → s.desc d = some y → y.tracts = [tractKey h u] → y.retained = false → y.poisoned = false →
        Ended s t d (if s.tractPoisoned h u (some x.dirty) then St.poisoned else if x.pending then 0x0001 else 0) 0 0) ∧
      OnlyPlacement s t)) ∧
  (∀ (h : Word) (u : Nat) (s : State) (x : Tract), u < 2 ^ 20 → s.unitDown .placement 0 = false → s.tract h u = x →
    x.state = .evicting → s.readOnly h = true → s.place.pressure = false →
    Reaches (.writeBackEnd h u) s (fun t =>
      TractsBecome s t h [u] (fun _ y => { y with state := .near, pending := false, promoters := [], evicters := [] }) ∧
      t.place.pins = s.place.pins ∧ OnlyPlacement s t)) ∧
  (∀ (h : Word) (u : Nat) (s : State), s.unitDown .placement 0 = false → (s.tract h u).fetching = true →
    (s.place.tracts.filter (fun e => e.2.cached && decide (e.1 ≠ tractKey h u))).length < s.cacheShare →
    Reaches (.tmapFetchEnd h u) s (fun t => (u < 2 ^ 20 →
      TractsBecome s t h [u] (fun _ y => { y with cached := true, fetching := false, fetched := s.now })) ∧
      t = { s with place := { s.place with tracts := t.place.tracts } })) ∧
  (∀ (s : State), s.unitDown .placement 0 = false → s.belowPm s.place.lowPm.toNat = true → s.place.pressure = false →
    s.evictable ≠ [] → s.active = true →
    Reaches .pressureEvictionStart s (fun t => t.place.pressure = true ∧ t.place.pins = s.place.pins ∧
      (∀ k, Table.get {} t.place.tracts k = if k ∈ s.evictable.take s.pressureNeed
        then fetched { Table.get {} s.place.tracts k with state := .evicting, pending := false, began := s.now }
        else Table.get {} s.place.tracts k) ∧
      t = { s with place := { s.place with tracts := t.place.tracts, pressure := true, tmapMisses := t.place.tmapMisses }
                   qos := t.qos })) ∧
  (∀ (h : Word) (u : Nat) (s : State), u < 2 ^ 20 → s.unitDown .placement 0 = false → s.tiered h = true →
    s.place.hotThresh ≠ 0 → (s.tract h u).state = .deep → s.place.hotThresh.toNat ≤ (s.tract h u).reads → s.now % 4096 = 0 →
    (s.tract h u).moving = false → (s.tract h u).spilled = none → (s.tract h u).period + 1 = s.now / 4096 →
    s.place.lowPm.toNat * s.nearPool / 1000 < s.poolFree → s.active = true →
    Reaches (.hotPromotion h u) s (fun t =>
      TractsBecome s t h [u] (fun _ y => fetched { y with
        state := .promoting, promoters := [], evicters := [], window := none, reads := 0 }) ∧
      t = { s with place := { s.place with tracts := t.place.tracts, tmapMisses := t.place.tmapMisses }, qos := t.qos }))

/-- R42 to R50: INSTALL of a program that passes its checks reserves near tracts and requests positions 0 to K - 1, one
that does not ends with the status; a release in position order drops the position's pins and requests the next, one
ahead of its turn is held, one that repeats is ignored with an event; REMOVE leaves no window. A due position is pinned
and its promotion starts, and ends at once where every tract is NEAR; without the pins it waits. -/
def Obligations.LayerWindows : Prop :=
  (∀ (d : Nat) (h : HostData) (s : State) (x : Desc) (a : DWord) (at_ : Bool) (p : BitVec 8), s.unitDown .placement 0 = false →
    AtUnit s d 0x14 0 x → Names s x 40 (.host a at_) → x.party = some p → h.refused = none → x.field 56 4 ≤ h.bytes.length →
    x.cut = false →
    (let w := x.field 24 1
     let b := h.bytes.take (x.field 56 4)
     let y := programOf b p x.cls
     let s' := s.granted srcMovers (.desc x.go) []
     x.field 56 4 = 16 * (fieldAt b 0 2 + 1) →
     (s.window w ≠ none → exec (.windowInstall d h) s = .next (s'.endDesc d St.windowBusy 0 0)) ∧
     (∀ st, s.window w = none → s.installStatus w p x.accept (x.field 56 4) b y = some st →
       exec (.windowInstall d h) s = .next (s'.endDesc d st 0 0)) ∧
     (s.window w = none → s.installStatus w p x.accept (x.field 56 4) b y = none →
       Reaches (.windowInstall d h) s (fun t => Ended s t d 0 0 0 ∧
         (∃ z, t.window w = some z ∧ z = { y with
             reserved := y.depth * largest y, targets := z.targets
             requested := if y.mode = .once then min y.depth y.entries.length else y.depth }) ∧
         (∀ j, j ≠ w → t.window j = s.window j) ∧
         t = { s' with place := { s'.place with windows := t.place.windows }, chan := { s.chan with descs := t.chan.descs } })))) ∧
  (∀ (d : Nat) (s : State) (x : Desc) (y : LayerWindow) (q : Nat), s.unitDown .placement 0 = false → AtUnit s d 0x14 1 x →
    s.window (x.field 24 1) = some y → x.party = some y.party → x.field 28 4 = q → y.released < 2 ^ 31 →
    (y.released = q → q < y.requested → y.held = [] → InExtent y →
      Reaches (.windowRelease d) s (fun t => Ended s t d 0 0 0 ∧
        (∃ z, t.window (x.field 24 1) = some z ∧ z = { y with
            released := q + 1, targets := z.targets
            requested := if (y.entryOf (q + y.depth)).isSome then q + y.depth + 1 else y.requested }) ∧
        (∀ e, y.entryOf q = some e → CountsBecome s t e.handle ((List.range e.count).map (e.first + ·)) y.party
          (fun n => if q < y.done ∨ (q = y.done ∧ y.promoting = true) then n - 1 else n)) ∧
        (∀ j, j ≠ x.field 24 1 → t.window j = s.window j) ∧ OnlyPlacement s t ∧ t.clk = s.clk)) ∧
    (y.released < q → q < y.requested → q < y.released + 2 ^ 31 → y.held = [] →
      Reaches (.windowRelease d) s (fun t => (∃ z, t.desc d = some z ∧ z.phase = .working) ∧
        t.window (x.field 24 1) = some { y with held := [(q, d)] } ∧ t.place.pins = s.place.pins ∧ OnlyPlacement s t)) ∧
    (q < y.released ∨ (y.requested ≤ q ∧ q < y.released + 2 ^ 31) →
      exec (.windowRelease d) s = .next ((s.raise 0x0204 Sev.notice Uk.placement 0 x.chan (x.field 24 1) q).endDesc d 0 0 0))) ∧
  (∀ (d : Nat) (s : State) (x : Desc) (y : LayerWindow), s.unitDown .placement 0 = false → AtUnit s d 0x14 2 x →
    s.window (x.field 24 1) = some y → x.party = some y.party → y.held = [] →
    Reaches (.windowRemove d) s (fun t => Ended s t d 0 0 0 ∧ t.window (x.field 24 1) = none ∧
      (∀ j, j ≠ x.field 24 1 → t.window j = s.window j) ∧ (∀ k, (Table.get {} t.place.tracts k).window ≠ some (x.field 24 1)) ∧
      t.place.stalls = s.place.stalls.filter (fun z => decide (z.window ≠ x.field 24 1)) ∧ OnlyPlacement s t ∧ t.clk = s.clk)) ∧
  (∀ (w : BitVec 6) (s : State) (x : LayerWindow) (e : WinEntry), s.unitDown .placement 0 = false → s.active = true →
    s.window w.toNat = some x → s.positionDue x = true → x.entryOf x.done = some e → e.first + e.count ≤ 2 ^ 20 →
    (let ts := (List.range e.count).map (e.first + ·)
     let why := if x.released ≤ x.done then s.pinRefusal e.handle ts x.party else none
     (why = none → x.pinWait = false → Reaches (.windowPromotionStart w) s (fun t => Begun s t w.toNat x e.handle ts)) ∧
     (why = none → x.pinWait = true → Reaches (.windowPinRetry w) s (fun t => Begun s t w.toNat x e.handle ts)) ∧
     (∀ r, why = some r → x.pinWait = false →
       Reaches (.windowPromotionStart w) s (fun t => t.window w.toNat = some { x with pinWait := true, pinLogged := some x.done } ∧
         (x.pinLogged ≠ some x.done → t.evt = s.evt.raise s.now 0x0206 Sev.notice Uk.placement 0 w.toNat x.done r) ∧
         t.place.pins = s.place.pins ∧ t.place.tracts = s.place.tracts))))
namespace Sys2Proof.Claims

open Sys2Proof.Machine

/-- Gate `x` at the end of count `now`: T as the ARMs started in it leave it and then the last remote ARM, completions
added, OPEN_AT taken as it opens. -/
def gateAfter (now : DWord) (x : Gate) : Gate :=
  let c := x.c + x.adds
  let v := x.arms.getLastD x.started
  let met := decide ((c - v).toNat < 2 ^ 31)
  { x with c := c, t := v, adds := 0, starts := [], arms := [], openAt := if met && !x.wasOpen then now else x.openAt, wasOpen := met }

/-- The core as a wiped pod leaves it: everything at its reset value but the DEC_STALL counters (R119, R122). -/
def wipedCore (x : Core) : Core := { dMiss := x.dMiss, dBusy := x.dBusy }

/-- Only what sleeping and waking touches changed: sleep state, stacks, ports, links, pods and their table references. -/
def OnlySleep (s t : State) : Prop :=
  t = { s with clk := t.clk, rel := { s.rel with stks := t.rel.stks }, host := { s.host with ports := t.host.ports }
               fab := t.fab, pods := t.pods, comp := t.comp }

end Sys2Proof.Claims

/-- R262, R265, R266, R259: at the end of a count every gate adds its completions, takes its last remote ARM and records OPEN_AT
where it opens, and a MODE 2 descriptor whose gate has reached its target learns its start count; nothing else changes but what
the journals record where ARMs of two channels meet. R250
to R254, R258: the module that stayed quiet long enough enters IDLE and then DOZE, where stacks refresh themselves and ports
rest; a source or a timer starts a wake of 50 or 1,000 counts, whose end makes it ACTIVE, after DOZE with wiped pods and
stacks ready; in D3cold WAKE_AT drives WAKE#. The reference switches above 500 ppm (R247).
Where the spec leaves it open, the model's choices are those of assumptions 15 and 32. -/
def Obligations.GatesAndSleep : Prop :=
  (∀ (s : State), Table.wf {} s.clk.gates = true → (∀ e ∈ s.clk.gates, e.1 < 256 ∧ e.2.wild = false) →
     Reaches .gateCountEnd s (fun t =>
       (∀ g, t.gate g = gateAfter s.clk.lcnt (s.gate g)) ∧
       (∀ d x, s.desc d = some x → 
         (x.mode = 2 → x.start = none → Reached t x.launchGate x.target →
           t.desc d = some { x with start := some (s.now + x.launchDelta), known := s.now }) ∧
         (x.mode ≠ 2 ∨ x.start ≠ none ∨ ¬ Reached t x.launchGate x.target → t.desc d = some x)) ∧
       ((∀ e ∈ s.clk.gates, ∀ a ∈ e.2.starts, ∀ b ∈ e.2.starts, a.1 = b.1) →
         t = { s with clk := { s.clk with gates := t.clk.gates }, chan := { s.chan with descs := t.chan.descs } }) ∧
       t = { s with clk := { s.clk with gates := t.clk.gates }, chan := t.chan, evt := t.evt })) ∧
  (∀ (x : Gate) (z : Nat × Nat × Word), z ∈ x.starts →
     (∀ y ∈ x.starts, y = z ∨ y.1 < z.1 ∨ (y.1 = z.1 ∧ y.2.1 < z.2.1)) → x.started = z.2.2) ∧
  ((∀ (s : State), s.unitDown .pip 0 = false → s.active = true → s.clk.idleEn = true → s.quiet = true → s.isReady = true →
     s.clk.idleDelay.toNat ≤ s.clk.quietFor →
     exec .enterIdle s = .next { s with clk := { s.clk with mstate := .idle, idleFor := 0, quietFor := 0 } }) ∧
   (∀ (s : State), s.unitDown .pip 0 = false → s.clk.mstate = .idle → s.clk.waking = none → s.clk.dozeEn = true →
     s.clk.idleEn = true → s.clk.dozeDelay.toNat ≤ s.clk.idleFor →
     (∀ d x, (d, x) ∈ s.chan.descs → x.phase = .accepted → ∀ n, x.start = some n → s.now + 1100 < n) →
     Reaches .enterDoze s (fun t => t.clk = { s.clk with mstate := .doze } ∧
       (∀ n, (Table.get {} t.rel.stks n).state = if (Table.get {} s.rel.stks n).state = .ready then .selfRefresh
         else (Table.get {} s.rel.stks n).state) ∧
       (∀ n, (s.hport n).up = true → (s.hport n).aspmL1 = true → (t.hport n).inL1 = true) ∧
       (∀ n x, (n, x) ∈ s.fab.ports → x.state = .up → x.sleepEn = true → ∃ b, (n, b) ∈ t.fab.links ∧ b.toNat % 256 = 4) ∧
       OnlySleep s t)) ∧
   (∀ (src : BitVec 7) (s : State), src ≠ 0 → exec (.wakeStart src) s = .next (
     if s.clk.mstate = .active then s
     else if s.clk.waking ≠ none then
       (if s.clk.waking = some (s.now + (if s.clk.mstate = .idle then 50 else 1000)) then
         { s with clk := { s.clk with wakeCause := s.clk.wakeCause ||| src } } else s)
     else if s.clk.mstate = .idle then { s with clk := { s.clk with waking := some (s.now + 50), wakeCause := s.clk.wakeCause ||| src } }
     else { s with clk := { s.clk with waking := some (s.now + 1000), wakeCause := s.clk.wakeCause ||| src, wakes := s.clk.wakes + 1 } })) ∧
   (∀ (s : State) (n : Nat), s.clk.waking = some n → n ≤ s.now → s.host.waits = [] → s.host.asks = [] → s.clk.mstate = .idle →
     exec .wakeEnd s = .next { s with clk := { s.clk with mstate := .active, waking := none, quietFor := 0, idleFor := 0 } }) ∧
   (∀ (s : State) (n : Nat), s.clk.waking = some n → n ≤ s.now → s.host.waits = [] → s.host.asks = [] → s.clk.mstate = .doze →
     Reaches .wakeEnd s (fun t => t.clk = { s.clk with mstate := .active, waking := none, quietFor := 0, idleFor := 0, syncs := t.clk.syncs } ∧
       (∀ p, p < s.variant.pods → Table.get 0 t.clk.syncs p = Table.get 0 s.clk.syncs p + 1 ∧ (t.pod p).party = none) ∧
       (∀ c, c < 8 * s.variant.pods → t.core c = wipedCore (s.core c)) ∧
       (∀ a, a < s.variant.pods * 2 ^ 22 → Store.byte t.pods.mem a = 0) ∧
       (∀ n, (Table.get {} t.rel.stks n).state = if (Table.get {} s.rel.stks n).state = .selfRefresh then .ready
         else (Table.get {} s.rel.stks n).state) ∧ OnlySleep s t)) ∧
   (∀ (s : State) (n k : Nat), s.launchCounts = [(n, k)] →
     (s.clk.mstate = .idle → n ≤ s.now + 52 → exec .launchWakeTimer s = .next (s.wake (if k + 52 ≤ n then 0x08 else 0x40))) ∧
     (s.clk.mstate = .doze → n ≤ s.now + 1050 → exec .launchWakeTimer s = .next (s.wake (if k + 1050 ≤ n then 0x08 else 0x40)))) ∧
   (∀ (s : State), s.clk.wakeAt ≠ 0 → s.now = s.clk.wakeAt.toNat * 4096 →
     (s.power.boot ≠ .d3cold → (∀ e ∈ s.host.ports, e.2.d3hot = false ∨ e.2.pmeEn = false) →
       exec .wakeAtTimer s = .next (s.wake 0x10)) ∧
     (s.power.boot = .d3cold → Reaches .wakeAtTimer s (fun t =>
       (∀ n, t.hport n = if (s.hport n).pmeEn then { s.hport n with wakeOut := true } else s.hport n) ∧
       t = { s with host := { s.host with ports := t.host.ports } }))) ∧
   (∀ (ppm : Nat) (s : State), 500 < ppm → exec (.refSwitch ppm) s = .next (
     ({ s with clk := { s.clk with refSel := !s.clk.refSel, refFault := true } } : State).raise 0x0006 Sev.warning Uk.pip 0
       (if s.clk.refSel then 0 else 1) ppm 0)))
/-- R306 to R308, R339: a PUBLISH from the host writes its blocks raw into the slot taken and works on; once landed it commits
at the end of the count, where a commit against the current version makes the slot that of the next version, else the slot is
FREE and the status VERSION_CONFLICT.
FETCH_VERSION sends the blocks of its version to the host and returns the version, or version 0 where there is none.
A remote reader silent for 1,100,000 counts is dropped.
Where the spec leaves it open, the model's choices are those of assumption 18. -/
def Obligations.SharedRegions : Prop :=
  (∀ (d : Nat) (h : HostData) (s : State) (x : Desc) (r : Word) (e : Extent) (a : DWord) (at_ : Bool) (k n : Nat),
    AtUnit s d 0x18 0 x → s.regionAt x 40 = some r → Names s x 24 (.host a at_) → s.extent r = some e → s.wipeHolds e x.accept = false →
    x.cut = false → e.pick = some k → k < e.slots.length → x.field 60 4 = n → 4096 * n ≤ h.bytes.length → e.readOnly = false →
    s.granting srcMovers (.desc x.go) (accsOf r (4096 * e.slotBase k) (4096 * n) true) = true → e.slotBase k + n ≤ 2 ^ 36 →
    Reaches (.publish d h) s (fun t =>
      t.extent r = some (e.setVslot k { e.vslot k with state := .writing, version := 0, blocks := 0, used := true, writer := none }) ∧
      (∀ i, i < n → t.blkMeta r (e.slotBase k + i) = 0x3F ∧
        t.blkBytes r (e.slotBase k + i) = sliceBytes h.bytes (4096 * i) 4096) ∧
      (∀ g b, (g ≠ r ∨ b < e.slotBase k ∨ e.slotBase k + n ≤ b) → b < 2 ^ 36 → t.blkMeta g b = s.blkMeta g b) ∧
      (∃ y, t.desc d = some y ∧ y.phase = .working ∧ y.aux = k + 1 ∧ y.done = n) ∧ (∀ j, j ≠ d → t.desc j = s.desc j) ∧
      t.pods = s.pods)) ∧
  (∀ (d : Nat) (s : State) (x : Desc) (r : Word) (e : Extent) (k : Nat), s.desc d = some x → x.opcode = 0x18 → x.phase = .working →
    s.regionAt x 40 = some r → s.extent r = some e → x.aux = k + 1 →
    exec (.publishCommit d) s = .next (if e.landed.contains (.desc d) then s
      else s.setExtent r { e with landed := e.landed ++ [.desc d] }) ∧
    (∀ u : State, (u.ten.extents.filter (fun q => !q.2.landed.isEmpty)) = [(r.toNat, { e with landed := [.desc d] })] →
      s = u.setExtent r { e with landed := [] } → u.takeCommits = s.commitHere d x r) ∧
    (e.current = BitVec.ofNat 32 (x.field 56 4) →
      (let t := s.commitHere d x r
       let v := nextVersion e.current
       Ended s t d 0 (BitVec.ofNat 64 x.done) (BitVec.ofNat 64 (v.toNat * 2 ^ 32)) ∧
       t.extent r = some { (e.setVslot k { e.vslot k with state := .held, version := v, blocks := x.field 60 4, writer := none }) with
         current := v } ∧
       (∀ g, g ≠ r → t.extent g = s.extent g) ∧ t = { s with ten := { s.ten with extents := t.ten.extents }, chan := { s.chan with descs := t.chan.descs } })) ∧
    (e.current ≠ BitVec.ofNat 32 (x.field 56 4) →
      (let t := s.commitHere d x r
      Ended s t d St.versionConflict 0 (BitVec.ofNat 64 (e.current.toNat * 2 ^ 32)) ∧
      t.extent r = some (e.setVslot k { e.vslot k with state := .free, version := 0, blocks := 0, writer := none }) ∧
      t.ten.vconflicts = s.ten.vconflicts + 1 ∧
      t.evt = s.evt.raise s.now 0x0203 Sev.notice Uk.module 0 r.toNat (x.field 56 4) e.current.toNat))) ∧
  (∀ (d : Nat) (s : State) (x : Desc) (r : Word) (e : Extent) (a : DWord) (at_ : Bool), AtUnit s d 0x19 0 x →
    s.regionAt x 24 = some r → Names s x 40 (.host a at_) → s.extent r = some e → s.wipeHolds e x.accept = false → s.comp.taker = none →
    (x.aux = 0 → Reaches (.fetchVersion d) s (fun t => Ended s t d 0 0 0 ∧ t.ten = s.ten)) ∧
    (∀ k n, x.aux = k + 1 → n = min (x.field 60 4) (e.vslot k).blocks → x.cut = false →
      s.granting srcMovers (.desc x.go) (accsOf r (4096 * e.slotBase k) (4096 * n) false) = true →
      (∀ i, i < n → s.blkMeta r (e.slotBase k + i) = 0x3F) →
      Reaches (.fetchVersion d) s (fun t =>
        Ended s t d 0 (BitVec.ofNat 64 n) (BitVec.ofNat 64 (x.aux2 * 2 ^ 32)) ∧ t.ten = s.ten ∧ t.pods = s.pods ∧
        t.chan.hostTx = s.chan.hostTx ++ (List.range n).map (fun i =>
          .write (s.ch x.chan).port.toNat (a + BitVec.ofNat 64 (4096 * i)) x.pasid (at_ && (s.hport (s.ch x.chan).port.toNat).atsEn)
            (s.blkBytes r (e.slotBase k + i)))))) ∧
  (∀ (h : Word) (k src n : Nat) (s : State) (e : Extent), s.extent h = some e → k < e.slots.length →
    (e.vslot k).remote.find? (fun q => decide (q.1 = src)) = some (src, n) → n + 1100000 ≤ s.now →
    exec (.readerTimeout h k src) s = .next (s.setExtent h (e.setVslot k
      { e.vslot k with remote := (e.vslot k).remote.erase (src, n), readers := (e.vslot k).readers - 1 })))
namespace Sys2Proof.Claims

open Sys2Proof.Machine

/-- The EXTENT_* command of descriptor `d` is in its turn and passes R294's steps; `b` is its body and `u` the state once
FM_SEQ holds its SEQUENCE (R293 to R296). -/
def Verified (s : State) (d op sub : Nat) (h : HostData) (x : Desc) (b : Bytes) (u : State) : Prop :=
  AtUnit s d op 0 x ∧ s.cmdTurn x = true ∧ x.aux = 0 ∧ ∃ blk, s.verifyCmd x (x.got h) = .ok blk ∧ b = (blk.drop 64).take (fieldAt blk 6 2) ∧
    (b.getD 0 0).toNat = sub ∧ bodyOkFor op sub b = true ∧
    u = ({ s with ten := { s.ten with fmSeq := BitVec.ofNat 64 (fieldAt blk 32 8), cmdAccepted := s.ten.cmdAccepted + 1 } } : State).setDesc d
      { x with aux := 1, data := b }

/-- Only this extent, among the tenancy's records, differs, and it is `e`. -/
def ExtentBecomes (u t : State) (h : Word) (e : Extent) : Prop :=
  t.extent h = some e ∧ (∀ g, g ≠ h → t.extent g = u.extent g) ∧ t.ten = { u.ten with extents := t.ten.extents }

/-- No request on the extent came after the command's count: no descriptor was accepted, no block request of a core issued. -/
def NoLater (s : State) (x : Desc) (h : Word) : Prop :=
  (∀ q ∈ s.chan.descs, q.2.accept ≤ x.accept ∨ q.2.isFm = true) ∧
    ∀ c ∈ s.pods.cores, ∀ r ∈ c.2.blks, r.handle = h → r.issued ≤ x.accept

/-- The extents are listed in rising order and, `h` apart, none is being wiped. -/
def NoOtherWipe (s : State) (h : Word) : Prop :=
  Table.rising s.ten.extents = true ∧ ∀ q ∈ s.ten.extents, q.1 ≠ h.toNat → q.2.wipes = false

/-- Descriptor `d` works on and no other was touched. -/
def Works (s t : State) (d : Nat) : Prop :=
  (∃ y, t.desc d = some y ∧ y.phase = .working) ∧ ∀ j, j ≠ d → t.desc j = s.desc j

end Sys2Proof.Claims

/-- R26, R28, R264, R297, R300 to R305, R423: what each verified EXTENT_* command does. CREATE makes an extent of the next
handle; SET_OWNER, GRANT, the REVOKEs, DESTROY and WIPE change the extent named or start its revocation or wipe; BIND
and UNPARTY bind parties, channels and gates; WATCH reports a change of capacity or waits.
Where the spec leaves it open, the model's choices are those of assumptions 25, 28, 29, 30 and 31. -/
def Obligations.ExtentCommands : Prop :=
  (∀ (d : Nat) (h : HostData) (s u : State) (x : Desc) (b : Bytes) (kind : ExtKind), Verified s d 0x40 0 h x b u →
    kind = (if fieldAt b 1 1 = 0 then .pinnedNear else if fieldAt b 1 1 = 1 then .pinnedDeep else .tiered) →
    (s.gpid (bodySlot b)).isSome = true → s.ten.extents.length < 32768 → s.ten.nextHandle < 0xFFFFFFFF →
    (kind ≠ .pinnedNear → s.variant.deep = true ∧ 128 * fieldAt b 4 4 ≤ s.deepFree) →
    (kind = .pinnedNear → s.poolKept + 128 * fieldAt b 4 4 ≤ s.nearPool ∧ s.poolUsed + 128 * fieldAt b 4 4 ≤ s.nearPool) →
    Reaches (.extentCreate d h) s (fun t => Ended s t d 0 (BitVec.ofNat 64 s.ten.nextHandle) 0 ∧
      t.extent (BitVec.ofNat 32 s.ten.nextHandle) = some {
        word := ⟨⟨some (bodySlot b), kind, .owned⟩, ⟨some (bodySlot b), kind, .owned⟩, ⟨some (bodySlot b), kind, .owned⟩⟩
        units := fieldAt b 4 4, vslots := fieldAt b 3 1, slots := List.replicate (fieldAt b 3 1) {}, runs := s.freeRuns kind.wipeTier (128 * fieldAt b 4 4) } ∧
      (∀ g, g ≠ BitVec.ofNat 32 s.ten.nextHandle → t.extent g = s.extent g) ∧
      t.ten = { u.ten with extents := t.ten.extents, nextHandle := s.ten.nextHandle + 1 })) ∧
  (∀ (d : Nat) (h : HostData) (s u : State) (x : Desc) (b : Bytes) (e : Extent), Verified s d 0x41 0 h x b u →
    s.extent (bodyHandle b) = some e →
    (e.state = .unassigned → (s.gpid (bodySlot b)).isSome = true → Reaches (.setOwner d h) s (fun t => Ended s t d 0 0 0 ∧
      ExtentBecomes u t (bodyHandle b) { (e.setWord (fun w => { w with owner := some (bodySlot b), state := .owned })) with
        revokedAt := none, grantRevoked := [] })) ∧
    (e.state = .wiping → Reaches (.setOwner d h) s (fun t => Works s t d ∧
      ExtentBecomes u t (bodyHandle b) { e with setOwnerWaits := e.setOwnerWaits ++ [(d, bodySlot b)] }))) ∧
  (∀ (d : Nat) (h : HostData) (s u : State) (x : Desc) (b : Bytes) (e : Extent), Verified s d 0x41 1 h x b u →
    s.extent (bodyHandle b) = some e → e.vslots ≠ 0 → e.state = .owned →
    (let rest := e.grants.filter (fun y => decide (y.gpid ≠ bodyGpid b))
     rest.length < 64 → Reaches (.grant d h) s (fun t => Ended s t d 0 0 0 ∧ ExtentBecomes u t (bodyHandle b) { e with
       grants := rest ++ [⟨bodyGpid b, decide (fieldAt b 1 1 % 2 = 1), decide (fieldAt b 1 1 / 2 % 2 = 1)⟩]
       grantRevoked := e.grantRevoked.filter (fun y => decide (y.1.gpid ≠ bodyGpid b)) }))) ∧
  (∀ (d : Nat) (h : HostData) (s u : State) (x : Desc) (b : Bytes) (e : Extent) (destroy : Bool),
    Verified s d 0x42 (if destroy then 2 else 0) h x b u → s.extent (bodyHandle b) = some e → e.state = .owned →
    (∀ w ∈ s.place.windows, ∀ y ∈ w.2.entries, y.handle ≠ bodyHandle b) → NoLater s x (bodyHandle b) →
    Reaches (if destroy then .destroy d h else .revokeOwner d h) s (fun t => Works s t d ∧
      ExtentBecomes u t (bodyHandle b) { (e.setWord (fun w => { w with state := .revoking })) with
        revokedAt := some (x.accept + 1), grants := [], destroying := destroy, revokeDesc := some d
        grantRevoked := e.grantRevoked ++ e.grants.map (fun y => (y, x.accept + 1)) } ∧
      ∀ v p, v < 2 ^ 20 → t.pin (bodyHandle b) v p = 0)) ∧
  (∀ (d : Nat) (h : HostData) (s u : State) (x : Desc) (b : Bytes) (e : Extent) (gr : Grant), Verified s d 0x42 1 h x b u →
    s.extent (bodyHandle b) = some e → e.state = .owned → e.grants.find? (fun y => decide (y.gpid = bodyGpid b)) = some gr →
    (∀ w ∈ s.place.windows, ∀ y ∈ w.2.entries, y.handle ≠ bodyHandle b) → NoLater s x (bodyHandle b) →
    Reaches (.revokeGrant d h) s (fun t => Works s t d ∧ ExtentBecomes u t (bodyHandle b) { e with
      grants := e.grants.filter (fun y => decide (y.gpid ≠ bodyGpid b))
      grantRevoked := e.grantRevoked.filter (fun y => decide (y.1.gpid ≠ bodyGpid b)) ++ [(gr, x.accept + 1)]
      grantWaits := e.grantWaits ++ [(d, bodyGpid b)] })) ∧
  (∀ (d : Nat) (h : HostData) (s u : State) (x : Desc) (b : Bytes) (e : Extent), Verified s d 0x43 0 h x b u →
    s.extent (bodyHandle b) = some e → e.state = .owned → e.wipeDesc = none →
    e.wipeRun = none → NoOtherWipe s (bodyHandle b) →
    Reaches (.extentWipe d h) s (fun t => Works s t d ∧
      (let f := { e with wipeDesc := some d, wipeStart := s.now, wipeHold := decide (e.vslots ≠ 0) }
       ExtentBecomes u t (bodyHandle b)
        { f with wipeRun := if (u.setExtent (bodyHandle b) f).wipeWaits (bodyHandle b) f then none else some s.now }))) ∧
  (∀ (d : Nat) (h : HostData) (s u : State) (x : Desc) (b : Bytes) (k : BitVec 256 × BitVec 256), Verified s d 0x44 0 h x b u →
    (s.lcState = some .field ∨ bodyGpid b = 0xFFFFFFFF) → s.gpid (bodySlot b) = none → s.slotOf (bodyGpid b) = none →
    s.partyKeys (bodyGpid b) (sliceBytes b 16 32) (sliceBytes b 48 72) = some k → (s.ten.parties.length ≠ 1 ∨ s.ten.isSealed = true) →
    Reaches (.bindParty d h) s (fun t => Ended s t d 0 0 0 ∧
      Table.find t.ten.parties (bodySlot b).toNat = some ⟨⟨bodyGpid b, bodyGpid b, bodyGpid b⟩, k.1, k.2⟩ ∧
      (∀ j, j ≠ (bodySlot b).toNat → Table.find t.ten.parties j = Table.find s.ten.parties j) ∧
      t.ten = { u.ten with parties := t.ten.parties })) ∧
  (∀ (d : Nat) (h : HostData) (s u : State) (x : Desc) (b : Bytes), Verified s d 0x44 1 h x b u → s.slotHolds (bodySlot b) = false →
    Reaches (.unparty d h) s (fun t => Ended s t d 0 0 0 ∧
      Table.find t.ten.parties (bodySlot b).toNat = none ∧
      (∀ j, j ≠ (bodySlot b).toNat → Table.find t.ten.parties j = Table.find s.ten.parties j))) ∧
  (∀ (d : Nat) (h : HostData) (s u : State) (x : Desc) (b : Bytes), Verified s d 0x44 2 h x b u → s.gpid (bodySlot b) ≠ none →
    fieldAt b 3 1 % 2 = 0 → Reaches (.bindChannel d h) s (fun t => Ended s t d 0 0 0 ∧
      t.ch (fieldAt b 12 2) = { s.ch (fieldAt b 12 2) with party := some (bodySlot b) } ∧
      (∀ j, j ≠ fieldAt b 12 2 → t.ch j = s.ch j) ∧ t.ten = u.ten)) ∧
  (∀ (d : Nat) (h : HostData) (s u : State) (x : Desc) (b : Bytes) (g : BitVec 8), Verified s d 0x44 3 h x b u →
    s.gpid (bodySlot b) ≠ none → g = BitVec.ofNat 8 (fieldAt b 12 1) →
    (fieldAt b 3 1 % 2 = 0 → (s.gate g).owner = none → Reaches (.bindGate d h) s (fun t => Ended s t d 0 0 0 ∧
      t.gate g = { owner := some (bodySlot b) } ∧ (∀ j, j ≠ g → t.gate j = s.gate j) ∧ t.ten = u.ten)) ∧
    (fieldAt b 3 1 % 2 = 1 → (s.gate g).owner = some (bodySlot b) → u.gateNamed (bodySlot b) g = false →
      Reaches (.bindGate d h) s (fun t => Ended s t d 0 0 0 ∧ t.gate g = {} ∧ (∀ j, j ≠ g → t.gate j = s.gate j) ∧ t.ten = u.ten))) ∧
  (∀ (d : Nat) (h : HostData) (s u : State) (x : Desc) (b : Bytes), Verified s d 0x45 0 h x b u →
    (s.rel.changed = true → Reaches (.extentWatch d h) s (fun t =>
      Ended s t d St.capacityReduced (BitVec.ofNat 64 s.place.nearUsable) (BitVec.ofNat 64 s.place.deepUsable) ∧
      t.rel = { s.rel with changed := false } ∧ t.ten = u.ten)) ∧
    (s.rel.changed = false → Reaches (.extentWatch d h) s (fun t => Works s t d ∧ t.rel = s.rel ∧ t.ten = u.ten)))

/-- R302, R303: a revocation that has drained completes and its wipe starts; a wipe that ends leaves every block of the
extent a raw block of zeros and its version slots unused, and completes; a revoked extent is then UNASSIGNED.
A request on the extent from the revocation's count or later ends REVOKED.
Where the spec leaves it open, the model's choices are those of assumptions 37 and 38. -/
def Obligations.RevocationAndWipe : Prop :=
  (∀ (h : Word) (s : State) (e : Extent) (n d : Nat) (x : Desc), s.extent h = some e → e.state = .revoking → e.revokedAt = some n →
    s.drained h n none = true → e.revokeDesc = some d → e.grantWaits = [] → s.desc d = some x →
    e.wipeHold = false → e.wipeRun = none → NoOtherWipe s h →
    Reaches (.revocationDrained h) s (fun t => Ended s t d 0 0 0 ∧ ExtentBecomes s t h
      { (e.setWord (fun w => { w with state := .wiping })) with revokeDesc := none, wipeStart := s.now, wipeRun := some s.now } ∧
      t = { s with ten := t.ten, chan := { s.chan with descs := t.chan.descs } })) ∧
  (∀ (h : Word) (s : State) (e : Extent) (d : Nat) (x : Desc), s.extent h = some e → e.state = .owned → e.wipeDesc = some d →
    e.readOnly = false → s.wipeDone e = true → s.desc d = some x → NoOtherWipe s h →
    Reaches (.wipeEnd h) s (fun t => (∃ y, t.desc d = some y ∧ y.phase = .ended ∧ y.status = 0) ∧
      (∀ b, b < 2 ^ 36 → t.blkMeta h b = 0x3F) ∧ (∀ a, a < 2 ^ 48 → Store.byte t.ten.mem (extByteKey h a) = 0) ∧
      (∀ g b, g ≠ h → b < 2 ^ 36 → t.blkMeta g b = s.blkMeta g b) ∧
      ExtentBecomes { s with ten := { s.ten with mem := t.ten.mem, metas := t.ten.metas } } t h { e with
        current := 0, slots := List.replicate e.vslots {}, wipeDesc := none, wipeHold := false, wipeRun := none, landed := [] })) ∧
  (∀ (h : Word) (s : State) (e : Extent), s.extent h = some e → e.state = .wiping → e.destroying = false → e.readOnly = false →
    s.wipeDone e = true → e.setOwnerWaits = [] → e.wipeDesc = none → (∀ q ∈ s.ten.extents, q.1 < 2 ^ 32) →
    Reaches (.wipeEnd h) s (fun t => (∃ f, t.extent h = some f ∧ f.owner = none ∧ f.state = .unassigned ∧ f.kind = e.kind) ∧
      (∀ b, b < 2 ^ 36 → t.blkMeta h b = 0x3F) ∧ (∀ a, a < 2 ^ 48 → Store.byte t.ten.mem (extByteKey h a) = 0))) ∧
  (∀ (h : Word) (s : State) (j n : Nat) (y : Desc) (g : Option Word), s.desc j = some y → y.phase ≠ .accepted → s.program j = none →
    y.opcode ≠ 0x18 → (∀ c ∈ s.pods.cores, ∀ r ∈ c.2.blks, r.handle ≠ h) →
    s.chan.descs.filter (fun e => decide (n ≤ e.2.accept) && decide (e.2.phase ≠ .ended) && !e.2.decided && !e.2.isFm &&
      s.affects g e.2.party && s.namesExtent e.1 e.2 h) = [(j, y)] →
    Ended s (s.revokeLate h n g) j St.revoked (BitVec.ofNat 64 y.done) y.noFail)
namespace Sys2Proof.Claims

open Sys2Proof.Machine

/-- No program but `k` changed; `k` is now `g`. -/
def ProgramBecomes (s t : State) (k : Nat) (g : Program) : Prop :=
  t.program k = some g ∧ ∀ j, j ≠ k → t.program j = s.program j

/-- Byte `o` of the shared area of pod `p`. -/
def sharedByte (s : State) (p o : Nat) : Byte := Store.byte s.pods.mem (p * 2 ^ 22 + 2 ^ 21 + o)

/-- What taking pods from the free ones leaves (R191). -/
def Taken (s t : State) (k : Nat) (g : Program) (r : List Nat) : Prop :=
  (let ps := s.freePods.take g.pods
   ProgramBecomes s t k { g with state := .loading, on := ps, since := s.now } ∧ t.pods.queue = r ∧
   (∀ i p, ps[i]? = some p → (t.pod p).state = .loading ∧ (t.pod p).prog = some k ∧ (t.pod p).party = some g.party ∧
     (t.pod p).index = BitVec.ofNat 7 i) ∧
   (∀ p, p ∉ ps → t.pod p = s.pod p) ∧ t.chan = s.chan ∧ t.ten = s.ten)

end Sys2Proof.Claims

/-- R186 to R192: a LAUNCH that passes its checks gets its launch-table entry, one that does not is decided with the status;
the head of the wait queue takes the lowest free pods, in order, all at once; at the end of the load the shared area
holds code, arguments and zeros and every core starts at the entry; a restored program's cores resume.
Where the spec leaves it open, the model's choices are those of assumptions 75 and 78. -/
def Obligations.ProgramLaunch : Prop :=
  (∀ (d : Nat) (h : HostData) (s : State) (x : Desc) (p : BitVec 8) (a : DWord) (at_ : Bool) (page : Bytes), s.desc d = some x →
    x.opcode = 0x20 → x.phase = .accepted → x.decided = false → s.program d = none → s.hasBuf x = true → x.party = some p →
    Names s x 32 (.host a at_) → h.refused = none → x.field 56 2 ≤ h.bytes.length → x.cut = false →
    (let image := BitVec.ofNat 32 (x.field 24 4)
     let off := 4096 * x.field 28 4
     Readable s srcMovers (.desc x.go) (accsOf image off 4096 false) ((Slot.ext image off).blocks 4096) →
     (given s (.desc x.go) ((Slot.ext image off).blocks 4096)).readExt image off 4096 = .ok page →
     (∀ g, s.launchChecks d x p page (h.bytes.take (x.field 56 2)) = .ok g →
       Reaches (.launch d h) s (fun t => ProgramBecomes s t d g ∧ t.chan = s.chan ∧ t.ten = s.ten)) ∧
     (∀ st, s.launchChecks d x p page (h.bytes.take (x.field 56 2)) = .error st →
       Reaches (.launch d h) s (fun t => t.desc d = some { x with decided := true, status := st, d1 := 0 } ∧
         (∀ j, j ≠ d → t.desc j = s.desc j) ∧ t.pods = s.pods)))) ∧
  (∀ (s : State) (k : Nat) (r : List Nat) (g : Program), s.pods.queue = k :: r → s.program k = some g → s.active = true →
    g.pods ≤ s.freePods.length →
    (g.restored = false → Reaches .programStart s (fun t => Taken s t k g r)) ∧
    (g.restored = true → Reaches .programRestore s (fun t => Taken s t k g r))) ∧
  (∀ (s : State) (k : Nat) (g : Program) (code : Bytes), s.program k = some g → g.state = .loading → g.combine = false →
    (∀ p ∈ g.on, (s.pod p).state = .loading) → Readable s srcPods (.program k) g.codeAccs g.codeBlocks →
    (given s (.program k) g.codeBlocks).codeOf g = .ok code → g.on.Nodup →
    (g.restored = false → code.length ≤ 2 ^ 20 → g.args.length ≤ 256 →
      Reaches (.programLoadEnd k) s (fun t =>
        ProgramBecomes s t k { g with state := .running, quantum := s.now + s.pods.quantum.toNat, saved := [], restored := false } ∧
        (∀ i p, g.on[i]? = some p → (t.pod p).state = .running ∧ (t.pod p).segs = segTable g ∧
          (∀ j, j < 8 → t.core (8 * p + j) = startCore (s.core (8 * p + j)) g i []) ∧
          (∀ o, o < 2 ^ 21 → sharedByte t p o = if 0x1FFF00 ≤ o ∧ o < 0x1FFF00 + g.args.length then g.args.getD (o - 0x1FFF00) 0
            else code.getD o 0)) ∧ t.ten = s.ten ∧ t.chan = s.chan)) ∧
    (∀ p v, g.restored = true → g.on = [p] → g.saved = [v] → v.cores.length = 8 →
      Reaches (.programLoadEnd k) s (fun t =>
        ProgramBecomes s t k { g with state := .running, quantum := s.now + s.pods.quantum.toNat, saved := [], restored := false } ∧
        (t.pod p).state = .running ∧ (t.pod p).segs = segTable g ∧
        (∀ j x, v.cores[j]? = some x → t.core (8 * p + j) = { x.onPod p with
          dMiss := (s.core (8 * p + j)).dMiss, dBusy := (s.core (8 * p + j)).dBusy, running := !x.halted
          stream := (t.core (8 * p + j)).stream } ∧
          (x.stream = none → (t.core (8 * p + j)).stream = none))))) ∧
  (∀ (s : State) (k : Nat) (g : Program), s.program k = some g → g.state = .loading → g.combine = true →
    (∀ p ∈ g.on, (s.pod p).state = .loading) →
    Reaches (.programLoadEnd k) s (fun t =>
      ProgramBecomes s t k { g with state := .running, quantum := s.now + s.pods.quantum.toNat, saved := [], restored := false } ∧
      ∀ p ∈ g.on, (t.pod p).state = .running))

/-- R80, R122, R159, R160, R192, R195 to R202, R414: at the end of its quantum a program's cores stop and its pods save; the
save frees them and puts it back in the queue. A program that ended frees its pods with every position word 0x3F and
ends its LAUNCH. A pod reset wipes the pod; passed, the share runs again from its start or the pod is free; the third
failure in a row takes it out of service.
Where the spec leaves it open, the model's choices are those of assumptions 76, 77 and 78. -/
def Obligations.ProgramSlicesAndEnds : Prop :=
  (∀ (s : State) (k : Nat) (g : Program), s.program k = some g → g.state = .running → g.ctx ≠ none → g.quantum ≤ s.now →
    s.pods.queue ≠ [] → Reaches (.quantumExpiry k) s (fun t =>
      ProgramBecomes s t k { g with state := .saving, since := s.now } ∧
      (∀ p, t.pod p = if p ∈ g.on ∧ (s.pod p).state = .running then { s.pod p with state := .saving } else s.pod p) ∧
      (∀ c, t.core c = if c / 8 ∈ g.on then (s.core c).stop else s.core c) ∧
      t = { s with pods := { s.pods with programs := t.pods.programs, pods := t.pods.pods, cores := t.pods.cores } })) ∧
  (∀ (s : State) (k : Nat) (g : Program) (h : Word) (pg : Nat), s.program k = some g → g.state = .saving → g.on.Nodup →
    (∀ p ∈ g.on, s.podIdle p = true) → g.ctx = some (h, pg) → s.granting srcPods (.program k) (accsOf h (4096 * pg) (slotBytes * g.pods) true) = true →
    Reaches (.contextSaveEnd k) s (fun t =>
      (∃ v, ProgramBecomes s t k { g with state := .waiting, eligible := s.now, saved := v, restored := true, on := [] } ∧
        v.length = g.on.length) ∧ k ∈ t.pods.queue ∧
      (∀ p ∈ g.on, (t.pod p).state = .free ∧ (t.pod p).prog = none ∧ (t.pod p).party = (s.pod p).party ∧
        (t.pod p).preempts = (s.pod p).preempts + 1) ∧ (∀ p, p ∉ g.on → t.pod p = s.pod p))) ∧
  (∀ (s : State) (k : Nat) (g : Program) (x : Desc), s.program k = some g → s.programOver g = true →
    (∀ p ∈ g.on, s.podDone p = true) → g.combine = false → s.desc g.desc = some x →
    Reaches (.programEnd k) s (fun t => Ended s t g.desc g.outcome.1 g.outcome.2.1 g.outcome.2.2 ∧
      t.program k = none ∧ (∀ j, j ≠ k → t.program j = s.program j) ∧
      (∀ p ∈ g.on, (t.pod p).state = .free ∧ (t.pod p).prog = none ∧ (t.pod p).party = (s.pod p).party ∧
        ∀ n, n < 1024 → t.posWord (p * 2 ^ 22 + 4096 * n) = 0x3F) ∧
      (∀ p, p ∉ g.on → t.pod p = s.pod p) ∧ t.ten = s.ten)) ∧
  (∀ (pod : Nat) (s : State), pod < s.variant.pods → (s.pod pod).state ≠ .out →
    Reaches (.podReset pod) s (fun t => (t.pod pod).state = .resetting ∧ (t.pod pod).prog = (s.pod pod).prog ∧
      (t.pod pod).resets = (s.pod pod).resets + 1 ∧ t.rel = { s.rel with podResets := s.rel.podResets + 1 } ∧
      (∀ a, a < 2 ^ 22 → Store.byte t.pods.mem (pod * 2 ^ 22 + a) = 0) ∧ (∀ n, n < 1024 → t.posWord (pod * 2 ^ 22 + 4096 * n) = 0x3F) ∧
      (∀ j, j < 8 → t.core (8 * pod + j) = { wipedCore (s.core (8 * pod + j)) with gadded := (t.core (8 * pod + j)).gadded }) ∧
      (∀ p, p ≠ pod → t.pod p = s.pod p) ∧ t.pods.programs = s.pods.programs)) ∧
  (∀ (pod : Nat) (s : State), (s.pod pod).state = .resetting → s.sec.activating ≠ some (2, pod) → (s.pod pod).prog = none →
    (s.pod pod).moving = false → s.fwOk 2 = true →
    Reaches (.podResetEnd pod true) s (fun t => t.pod pod = { s.pod pod with state := .free, checkFails := 0 } ∧
      t = { s with pods := { s.pods with pods := t.pods.pods } }) ∧
    Reaches (.podResetEnd pod false) s (fun t =>
      t.pod pod = { s.pod pod with
        checkFails := (s.pod pod).checkFails + 1, state := if 3 ≤ (s.pod pod).checkFails + 1 then .out else .resetting } ∧
      t.evt = (if 3 ≤ (s.pod pod).checkFails + 1
        then s.evt.raise s.now 0x0308 Sev.error Uk.pod pod ((s.pod pod).checkFails + 1) 0 0 else s.evt))) ∧
  (∀ (pod k : Nat) (s : State) (g : Program) (code : Bytes), (s.pod pod).state = .resetting → s.sec.activating ≠ some (2, pod) →
    (s.pod pod).prog = some k → s.program k = some g → g.state = .running → g.combine = false → (s.pod pod).moving = false →
    s.fwOk 2 = true → Readable s srcPods (.program k) g.codeAccs g.codeBlocks → (given s (.program k) g.codeBlocks).codeOf g = .ok code →
    Reaches (.podResetEnd pod true) s (fun t => (t.pod pod).state = .running ∧ (t.pod pod).prog = some k ∧
      (t.pod pod).index = (s.pod pod).index ∧ (t.pod pod).reexecs = (s.pod pod).reexecs + 1 ∧ (t.pod pod).checkFails = 0 ∧
      (∀ j, j < 8 → t.core (8 * pod + j) = startCore (s.core (8 * pod + j)) g (s.pod pod).index.toNat (s.core (8 * pod + j)).gadded) ∧
      t.evt = s.evt.raise s.now 0x0307 Sev.warning Uk.pod pod g.party.toNat (s.pod pod).index.toNat 0))
namespace Sys2Proof.Claims

open Sys2Proof.Machine

/-- Packet `p` for this module arrives whole and well formed on the sealed port `k`; `a` is the state once it is taken out of the
port's buffer and its flits are free (R318, R322, R326). -/
def Received (s a : State) (k : Nat) (p : Packet) : Prop :=
  a = s.arrives k (fun q => decide (q = p)) ∧ (s.fport k).sealed = true ∧ p.ok = true ∧ s.fab.did = some (BitVec.ofNat 12 p.dst)

/-- A request of type `ty` for this module arrives while it is ACTIVE, its deduplication entry, if it needs one, free
and not there yet, and none with its source and TXID is being served (R339, R341). -/
def Arrives (s a : State) (k : Nat) (p : Packet) (ty : Nat) : Prop :=
  Received s a k p ∧ p.ptype = ty ∧ s.active = true ∧ (p.flag 0 = true → s.fab.dedup.length < 65536) ∧
    (∀ e ∈ s.fab.dedup, ¬ (p.flag 0 = true ∧ e.src = p.src ∧ e.txid = p.txid)) ∧ s.isServing p = false ∧ a.comp.taker = none

/-- The response to a request: its type with bit 7 set, class, GPID and TXID back to its source (R337, R340). -/
def responseTo (s : State) (p : Packet) (h : ReqHead) (b : Bytes) : Packet :=
  mkPacket { h with ptype := p.ptype + 128, cls := p.field 8 1, gpid := p.gpid }
    (match s.fab.did with | some x => x.toNat | none => 0) p.src s.fab.life.toNat p.txid b

/-- The request was answered so: no longer held, charged at its port, its ids no longer queued (R78), and with ONCE remembered for as long as R341
keeps it. -/
def AnsweredBy (u t : State) (p : Packet) (h : ReqHead) (b : Bytes) : Prop :=
  (∀ q ∈ t.fab.serving, p.same q.pkt = false) ∧
    (p.flag 0 = true → ⟨p.src, p.txid, some (responseTo u p h b), u.now⟩ ∈ t.fab.dedup) ∧
    t = { u with fab := t.fab, qos := t.qos, comp := t.comp, ten := { u.ten with revokedReqs := t.ten.revokedReqs } }

/-- `t` is the state once the request is answered, with head `h` and body `b`, from a state of which `P` holds. -/
def Answers (p : Packet) (h : ReqHead) (b : Bytes) (P : State → Prop) (t : State) : Prop :=
  ∃ u, P u ∧ t = u.doneServing p h b ∧ AnsweredBy u t p h b

/-- Only placement marks and table references beside what is named changed. -/
def Stored (s u : State) : Prop :=
  u = { s with ten := { s.ten with mem := u.ten.mem, metas := u.ten.metas }, place := u.place, comp := u.comp }

end Sys2Proof.Claims

/-- R268, R306 to R308, R338, R339, R342: what a request from a peer that passes its checks does and is answered. READ brings
the plain bytes, or the block in stored form with table and tag; WRITE stores bytes or a block; GATE adds completions or
arms; PUBLISH takes a slot, and its COMMIT lands, to be performed and answered at the end of the count; VERSION counts a reader and drops it; one whose reach fails gets the status.
Where the spec leaves it open, the model's choices are those of assumptions 56 and 57. -/
def Obligations.FabricRequests : Prop :=
  (∀ (prt : Nat) (p : Packet) (s a : State) (st : BitVec 16) (n : Nat), Arrives s a prt p pRead → p.arg % 8192 = n → 1 ≤ n → n ≤ 4096 → p.flag 4 = false →
    a.reach (some p.gpid) p.handle p.offset n .data false s.now = some st →
    Reaches (.pktRead ⟨prt, p⟩) s (Answers p { ptype := 0, status := st } [] (fun u => u = a))) ∧
  (∀ (prt : Nat) (p : Packet) (s a : State) (n : Nat), Arrives s a prt p pRead → p.arg % 8192 = n → 1 ≤ n → n ≤ 4096 → p.flag 4 = false →
    a.reach (some p.gpid) p.handle p.offset n .data false s.now = none →
    Readable a (a.pktSource p) (pktWho p) (accsOf p.handle p.offset n false) (if p.flag 1 then [] else (Slot.ext p.handle p.offset).blocks n) →
    (∀ b, p.flag 1 = false → (given a (pktWho p) ((Slot.ext p.handle p.offset).blocks n)).readExt p.handle p.offset n = .ok b →
      Reaches (.pktRead ⟨prt, p⟩) s (Answers p { ptype := 0 } b (fun u => u = { a with place := u.place, comp := u.comp }))) ∧
    (p.flag 1 = true → p.offset % 4096 = 0 → n = 4096 →
      (let m := a.blkMeta p.handle (p.offset / 4096)
       mwPoison m = false →
       Reaches (.pktRead ⟨prt, p⟩) s (Answers p { ptype := 0, flags := 2, table := mwId m, btag := m.toNat % 256 }
         (a.blkBytes p.handle (p.offset / 4096)) (fun u => u = { a with place := u.place }))))) ∧
  (∀ (prt : Nat) (p : Packet) (s a : State), Arrives s a prt p pWrite → p.flag 3 = false → p.flag 4 = false →
    (p.flag 1 = true → a.reach (some p.gpid) p.handle p.offset 4096 .data true s.now = none → p.offset % 4096 = 0 →
      a.granting (a.pktSource p) (pktWho p) (accsOf p.handle p.offset 4096 true) = true → a.arriving p = none → p.btag < 128 →
      Reaches (.pktWrite ⟨prt, p⟩) s (Answers p { ptype := 0, status := 0 } [] (fun u => Stored a u ∧
        u.blkMeta p.handle (p.offset / 4096) = p.word ∧ u.blkBytes p.handle (p.offset / 4096) = p.body ∧
        ∀ g b, (g ≠ p.handle ∨ b ≠ p.offset / 4096) → b < 2 ^ 36 → u.blkMeta g b = a.blkMeta g b))) ∧
    (p.flag 1 = false → a.reach (some p.gpid) p.handle p.offset p.body.length .data true s.now = none →
      a.granting (a.pktSource p) (pktWho p) (accsOf p.handle p.offset p.body.length true) = true → (∀ b, b < 2 ^ 36 → a.blkMeta p.handle b = 0x3F) →
      p.offset + p.body.length ≤ 2 ^ 48 →
      Reaches (.pktWrite ⟨prt, p⟩) s (Answers p { ptype := 0, status := 0 } [] (fun u => Stored a u ∧
        (∀ b, b < 2 ^ 36 → u.blkMeta p.handle b = 0x3F) ∧
        ∀ i, Store.byte u.ten.mem i = if extByteKey p.handle p.offset ≤ i ∧ i < extByteKey p.handle p.offset + p.body.length
          then p.body.getD (i - extByteKey p.handle p.offset) 0 else Store.byte a.ten.mem i)))) ∧
  (∀ (prt : Nat) (p : Packet) (s a : State) (q g : BitVec 8), Arrives s a prt p pGate → a.slotOf p.gpid = some q → g = BitVec.ofNat 8 p.arg →
    (a.gate g).owner = some q →
    (let v := BitVec.ofNat 32 (p.arg / 2 ^ 32)
     Reaches (.pktGate ⟨prt, p⟩) s (Answers p { ptype := 0, status := 0 } [] (fun u =>
       u.gate g = (if p.arg / 2 ^ 8 % 2 = 1 then { a.gate g with arms := (a.gate g).arms ++ [v] }
         else { a.gate g with adds := (a.gate g).adds + v, wild := (a.gate g).wild || decide (2 ^ 31 ≤ v.toNat) }) ∧
       (∀ j, j ≠ g → u.gate j = a.gate j) ∧ u = { a with clk := { a.clk with gates := u.clk.gates } })))) ∧
  (∀ (prt : Nat) (p : Packet) (s a : State) (e : Extent) (k : Nat), Arrives s a prt p pPublish → a.extent p.handle = some e → p.arg % 2 = 0 →
    a.reach (some p.gpid) p.handle 0 0 .publish true s.now = none → publishStatus e p.version p.blocks = none →
    a.wipeHolds e s.now = false → e.pick = some k → k < e.slots.length →
    Reaches (.pktPublish ⟨prt, p⟩) s (Answers p { ptype := 0, status := 0, arg := k } [] (fun u =>
      u.extent p.handle = some (e.setVslot k { e.vslot k with
        state := .writing, version := p.version, blocks := p.blocks, used := true, writer := some (p.src, p.gpid) }) ∧
      u = { a with ten := { a.ten with extents := u.ten.extents } }))) ∧
  (∀ (prt : Nat) (p : Packet) (s a : State) (e : Extent) (k : Nat), Arrives s a prt p pPublish → a.extent p.handle = some e → p.arg % 2 = 1 →
    a.reach (some p.gpid) p.handle 0 0 .publish true s.now = none →
    (List.range e.slots.length).find? (fun k => decide ((e.vslot k).state = .writing) && decide ((e.vslot k).writer = some (p.src, p.gpid)) &&
      decide ((e.vslot k).blocks = p.blocks) && decide ((e.vslot k).version = p.version)) = some k →
    exec (.pktPublish ⟨prt, p⟩) s = .next ((a.land p.handle (.peer p k)).keepServing p false)) ∧
  (∀ (prt : Nat) (p : Packet) (s a : State) (e : Extent), Arrives s a prt p pVersion → a.extent p.handle = some e →
    a.reach (some p.gpid) p.handle 0 0 .fetch false s.now = none →
    (∀ k ver, p.arg % 2 = 0 → a.wipeHolds e s.now = false → e.chooseVersion p.version = some (k, ver) → k < e.slots.length →
      Reaches (.pktVersion ⟨prt, p⟩) s (Answers p { ptype := 0, status := 0, arg := (e.vslot k).blocks + 2 ^ 32 * ver.toNat } [] (fun u =>
        u.extent p.handle = some (e.setVslot k { e.vslot k with
          remote := (e.vslot k).remote ++ [(p.src, s.now)], readers := (e.vslot k).readers + 1 }) ∧
        u = { a with ten := { a.ten with extents := u.ten.extents } }))) ∧
    (∀ k n, p.arg % 2 = 1 → e.holder p.version = some k → (e.vslot k).remote.find? (fun r => decide (r.1 = p.src)) = some (p.src, n) →
      Reaches (.pktVersion ⟨prt, p⟩) s (Answers p { ptype := 0, status := 0 } [] (fun u =>
        u.extent p.handle = some (e.setVslot k { e.vslot k with
          remote := (e.vslot k).remote.erase (p.src, n), readers := (e.vslot k).readers - 1 }) ∧
        u = { a with ten := { a.ten with extents := u.ten.extents } }))))

/-- R268, R340, R341: a response ends its request, here a GATE_OPEN with the status it carries, and one to no request is
discarded; a HOLD restarts the wait; after E2E_WAIT counts the request is sent again, or after E2E_TRIES sends the
descriptor ends PEER_UNREACHABLE; a request held for 1,250 counts has a HOLD sent; a deduplication entry frees 1,100,000
counts after its response. -/
def Obligations.FabricResponses : Prop :=
  (∀ (k : Nat) (p : Packet) (s a : State) (r : PeerReq) (d : Nat) (x : Desc), Received s a k p → (∀ q ∈ s.fab.reqs, q.2.sends ≠ 0) →
    s.fab.landing = [] → s.comp.taker = none → Table.find s.fab.reqs p.txid.toNat = some r →
    p.ptype = r.pkt.ptype + 128 → p.status ≠ St.resend → r.pkt.ptype = pGate → r.desc = some d → s.desc d = some x → x.opcode = 0x32 →
    x.phase = .working → Reaches (.pktResponse ⟨k, p⟩) s (fun t => Ended s t d p.status 0 0 ∧
      Table.find t.fab.reqs p.txid.toNat = none ∧ (∀ j, j ≠ p.txid.toNat → Table.find t.fab.reqs j = Table.find s.fab.reqs j) ∧
      t = { a with chan := { a.chan with descs := t.chan.descs }, fab := { a.fab with reqs := t.fab.reqs }, qos := t.qos
                   place := t.place })) ∧
  (∀ (k : Nat) (p : Packet) (s a : State), Received s a k p → Table.find s.fab.reqs p.txid.toNat = none →
    exec (.pktResponse ⟨k, p⟩) s = .next a ∧ exec (.pktHold ⟨k, p⟩) s = .next a) ∧
  (∀ (k : Nat) (p : Packet) (s a : State) (r : PeerReq), Received s a k p → p.ptype = 0x7F → Table.find s.fab.reqs p.txid.toNat = some r →
    r.desc.bind s.reduceOf = none →
    exec (.pktHold ⟨k, p⟩) s = .next { a with fab := { a.fab with reqs := Table.set a.fab.reqs p.txid.toNat { r with last := s.now } } }) ∧
  (∀ (txid : Word) (s : State) (r : PeerReq), Table.find s.fab.reqs txid.toNat = some r → r.sends ≠ 0 → r.last + s.fab.e2eWait.toNat ≤ s.now →
    (r.sends < s.fab.tries.toNat → Reaches (.e2eResend txid) s (fun t =>
      Table.find t.fab.reqs txid.toNat = some { r with sends := r.sends + 1, last := s.now } ∧
      (∀ j, j ≠ txid.toNat → Table.find t.fab.reqs j = Table.find s.fab.reqs j) ∧
      t.fab.resends = s.fab.resends + 1 ∧ t = { s with fab := t.fab })) ∧
    (∀ d x, s.fab.tries.toNat ≤ r.sends → r.desc = some d → s.desc d = some x → x.opcode = 0x32 → x.phase = .working →
      Reaches (.e2eResend txid) s (fun t => Ended s t d St.peerUnreachable 0 0 ∧ Table.find t.fab.reqs txid.toNat = none ∧
        t.fab.unreach = s.fab.unreach + 1))) ∧
  (∀ (src : Nat) (txid : Word) (s : State) (q : Serving),
    s.fab.serving.find? (fun q => decide (q.pkt.src = src) && decide (q.pkt.txid = txid)) = some q → q.since + 1250 ≤ s.now →
    Reaches (.holdTimer src txid) s (fun t =>
      t.fab.serving = s.fab.serving.map (fun r => if q.pkt.same r.pkt then { r with since := s.now } else r) ∧ t = { s with fab := t.fab })) ∧
  (∀ (src : Nat) (txid : Word) (s : State), exec (.dedupExpiry src txid) s = .next { s with fab := { s.fab with
    dedup := s.fab.dedup.filter (fun e => !(decide (e.src = src ∧ e.txid = txid ∧ e.sent + 1100000 ≤ s.now))) } })
namespace Sys2Proof.Claims

open Sys2Proof.Machine

/-- A collective packet of a configured group's party arrives for the REDUCE `e` of its index (R345). -/
def ForReduce (s a : State) (k : Nat) (p : Packet) (ty : Nat) (e : Reduce) : Prop :=
  Arrives s a k p ty ∧ a.groupOk p = true ∧ a.reduceAt p.group p.index = some e

/-- The REDUCE of descriptor `d` has begun: it works, its combine program of party `p` waits for pods. -/
def ReduceBegun (s t : State) (d : Nat) (x : Desc) (p : BitVec 8) (e : Reduce) : Prop :=
  t.desc d = some { x with phase := .working } ∧ (∀ j, j ≠ d → t.desc j = s.desc j) ∧
    t.reduceOf d = some { e with heard := s.now } ∧
    t.program d = some { combineProgram d x p with state := .waiting, eligible := s.now } ∧ d ∈ t.pods.queue ∧
    t.ten = s.ten ∧ t.comp = s.comp

/-- DST block `i` of the REDUCE of descriptor `d` holds the sum of `a` and `b`, encoded under TABLE_ID or raw. -/
def Summed (s t : State) (d i : Nat) (x : Desc) (e : Reduce) (list a b : Bytes) : Prop :=
  let r := encodeBlock list x.redElem x.redTable (sumBlocks x.redElem a b)
  t.blkMeta x.redDst.1 (x.redDst.2 + i) = (if r.1 = 0x3F then 0x3F else mkMeta x.redTable false r.1) ∧
    (∃ f, t.reduceOf d = some f ∧ f.summed = [i] ∧ f.arrived = e.arrived) ∧ (∀ j, j ≠ d → t.desc j = s.desc j)

end Sys2Proof.Claims

/-- R204, R343 to R350: a started REDUCE_SCATTER or ALL_REDUCE works, its combine program in the wait queue; while it runs
an arrived partial sum is added to the member's own block in FP32 and stored under the table. RED_READY and RED_COUNTS
are matched to their REDUCE or held until it is accepted; RED_ABORT ends it with the status carried, and REDUCE_WAIT
counts of silence PEER_UNREACHABLE.
Where the spec leaves it open, the model's choices are those of assumptions 52, 53, 54 and 55. -/
def Obligations.Collectives : Prop :=
  (∀ (d sub : Nat) (s : State) (x : Desc) (p : BitVec 8) (e : Reduce), sub < 2 → AtUnit s d 0x21 sub x → x.party = some p →
    s.reduceOf d = some e → e.ready = none → e.summed = [] → e.sentCounts = false →
    (s.group e.group).chunk x (s.group e.group).rank.toNat ≠ [] →
    (sub = 0 → Reaches (.reduceScatter d) s (fun t => ReduceBegun s t d x p e)) ∧
    (sub = 1 → Reaches (.allReduce d) s (fun t => ReduceBegun s t d x p e))) ∧
  (∀ (d sub i : Nat) (s : State) (x : Desc) (e : Reduce) (a b : Bytes) (tab : TableEnt), sub < 2 → s.desc d = some x → x.phase = .working →
    x.opcode = 0x21 → x.subop = sub → s.reduceOf d = some e → e.ready = none → e.arrived = [x.redBlocks + i] → e.summed = [] →
    i < x.redBlocks → s.combineRuns d = true → s.table x.redTable = some tab → s.readOnly x.redDst.1 = false →
    s.granting srcMovers (.desc x.go) (accsOf x.redSrc.1 (4096 * x.redSrc.2) (4096 * x.redBlocks) false ++
      accsOf x.redDst.1 (4096 * x.redDst.2) (8192 * x.redBlocks) true) = true →
    s.slotPlain (x.dstBlk (x.redBlocks + i)) = .bytes a → s.slotPlain (x.srcBlk i) = .bytes b →
    (sub = 0 → Reaches (.reduceScatter d) s (fun t => Summed s t d i x e tab.list a b)) ∧
    (sub = 1 → Reaches (.allReduce d) s (fun t => Summed s t d i x e tab.list a b))) ∧
  (∀ (prt : Nat) (p : Packet) (s a : State) (e : Reduce) (x : Desc), ForReduce s a prt p pRedReady e → p.src = ((a.group p.group).did (a.group p.group).next).toNat →
    p.body.length = 24 → a.desc e.desc = some x → x.phase = .accepted →
    Reaches (.pktRedReady ⟨prt, p⟩) s (Answers p { ptype := 0, status := 0 } [] (fun u =>
      (∃ f, u.reduceAt p.group p.index = some f ∧ f = { e with ready := some p.body, heard := f.heard }) ∧
      u = { a with place := u.place, fab := { a.fab with reduces := u.fab.reduces } }))) ∧
  (∀ (prt : Nat) (p : Packet) (s a : State), Arrives s a prt p pRedReady → a.groupOk p = true → p.src = ((a.group p.group).did (a.group p.group).next).toNat →
    p.body.length = 24 → a.reduceAt p.group p.index = none → (a.group p.group).k ≤ p.index →
    (a.group p.group).ready.any (fun r => decide (r.1 = p.index)) = false →
    Reaches (.pktRedReady ⟨prt, p⟩) s (fun t => (t.group p.group).ready = (a.group p.group).ready ++ [(p.index, p)] ∧
      (∃ q ∈ t.fab.serving, p.same q.pkt = true) ∧ t = { a with fab := t.fab })) ∧
  (∀ (prt : Nat) (p : Packet) (s a : State) (e : Reduce) (x : Desc) (r : Nat), ForReduce s a prt p pRedCounts e →
    (a.group p.group).others.find? (fun r => decide (((a.group p.group).did r).toNat = p.src)) = some r →
    p.body.length = 1536 → a.desc e.desc = some x → x.phase = .accepted → r ∉ e.counted →
    Reaches (.pktRedCounts ⟨prt, p⟩) s (Answers p { ptype := 0, status := 0 } [] (fun u =>
      u.reduceAt p.group p.index = some { e with counted := e.counted ++ [r] } ∧
      u.comp = (a.countAll x.redHctx.toNat x.go x.party (bodyCounts p.body)).comp ∧
      u = { a with place := u.place, comp := u.comp, fab := { a.fab with reduces := u.fab.reduces } }))) ∧
  (∀ (prt : Nat) (p : Packet) (s a : State) (e : Reduce) (x : Desc), ForReduce s a prt p pRedAbort e →
    (a.group p.group).others.any (fun r => decide (((a.group p.group).did r).toNat = p.src)) = true →
    a.desc e.desc = some x → x.phase ≠ .ended →
    Reaches (.pktRedAbort ⟨prt, p⟩) s (Answers p { ptype := 0, status := 0 } [] (fun u => Ended a u e.desc (BitVec.ofNat 16 (p.arg / 2 ^ 48)) 0 0 ∧
      (∀ g, a.program e.desc = some g → u.program e.desc = some { g with state := .ending }) ∧ u.ten = a.ten))) ∧
  (∀ (g : Nat) (s : State) (e : Reduce) (x : Desc), s.fab.reduceWait ≠ 0 →
    s.fab.reduces.filter (fun f => decide (f.group = g ∧ f.heard + s.fab.reduceWait.toNat ≤ s.now)) = [e] →
    s.desc e.desc = some x → x.phase = .working →
    Reaches (.reduceWaitExpiry g) s (fun t => Ended s t e.desc St.peerUnreachable 0 0 ∧
      (∀ q, s.program e.desc = some q → t.program e.desc = some { q with state := .ending }) ∧ t.ten = s.ten))
namespace Sys2Proof.Claims

open Sys2Proof.Machine

/-- Bank `k` is now `x`; no other bank and nothing else changed. -/
def BankBecomes (s t : State) (k : Nat) (x : Bank) : Prop :=
  t.bank k = x ∧ (∀ j, j ≠ k → t.bank j = s.bank j) ∧ t = { s with comp := { s.comp with banks := t.comp.banks } }

/-- A pod bank's queue once the husk `q` is in a husk buffer with its sectors, checked: behind those checked before it, ahead
of the others (R95, R97). -/
def afterCheck (l : List BankBlock) (q : BankBlock) (data : Bytes) : List BankBlock :=
  (l.erase q).filter (fun r => decide (r.phase = .checked)) ++ [{ q with phase := .checked, data := data }] ++
    (l.erase q).filter (fun r => decide (r.phase ≠ .checked))

/-- Block `q` of egress bank `b`'s queue is now `r`. -/
def Marked (s t : State) (b : Nat) (q r : BankBlock) : Prop :=
  BankBecomes s t b { s.bank b with queue := (s.bank b).queue.map (fun y => if y = q then r else y) }

/-- The word of a block coded as `r` under table `id` (R57, R72). -/
def codedWord (id : BitVec 16) (r : Nat × Bytes) : Word := if r.1 = 0x3F then 0x3F else mkMeta id false r.1

end Sys2Proof.Claims

/-- R72, R78, R91, R95, R98, R99, R101, R105, R107, R112, R115: a table fill makes its slot ready; a husk whose CRC passes may
be decoded, one that fails resets its pod, or is read again at an egress bank; a decoded block goes to its core's operand
buffer, to the DECODE's destination or to the request that waits for it; an encoder engine stores the block it coded and its descriptor or request goes on.
R88 to R90: a CRC failure at the memory path has the block read again; a second failure has it rebuilt from parity; one that
cannot be rebuilt is poisoned, its id and reference kept, with its owner's event.
Where the spec leaves it open, the model's choices are those of assumptions 20 and 112. -/
def Obligations.BanksAndEncoders : Prop :=
  ((∀ (b : BankRef) (id : BitVec 16) (s : State), s.bankDown b = false →
     Reaches (.slotFillEnd b id) s (fun t => BankBecomes s t (bankKey b) { s.bank (bankKey b) with
       slots := (s.bank (bankKey b)).slots.map (fun x => if x.id = id then (match s.table id with
         | some e => { x with filling := false, list := e.list, arrays := canon e.list, crc := crc32c e.list }
         | none => { x with filling := false }) else x) })) ∧
   (∀ (b : Nat) (s : State) (q : BankBlock), s.bankDown (.pod b) = false → s.turn b = some q → mwTag q.word ≠ 0x3F →
     ((s.bank b).queue.filter (fun r => decide (r.phase = .checked))).length < 2 →
     Reaches (.bankIngestEnd (.pod b) true) s (fun t => BankBecomes s t b { s.bank b with
       queue := afterCheck (s.bank b).queue q (Store.read s.pods.mem q.addr (64 * mwTag q.word)), lastCore := q.owner % 4 }) ∧
     exec (.bankIngestEnd (.pod b) false) s = .next (s.podReset (b / 2))) ∧
   (∀ (n : Nat) (s : State) (q : BankBlock) (sl : Slot), s.bankDown (.egress n) = false → (s.bank (1000 + n)).ingests = some q →
     s.bankSource q = some sl →
     (let w := s.slotWord sl
      (mwPoison w = true ∨ mwTag w = 0x3F → Reaches (.bankIngestEnd (.egress n) true) s (fun t =>
        Marked s t (1000 + n) q { q with word := w })) ∧
      (mwPoison w = false → mwTag w ≠ 0x3F → mwId w = mwId q.word → Reaches (.bankIngestEnd (.egress n) true) s (fun t =>
        Marked s t (1000 + n) q { q with word := w, phase := .checked, data := s.slotStored sl }))) ∧
     (∀ h o, sl = .ext h o → Reaches (.bankIngestEnd (.egress n) false) s (fun t =>
       t.recoverStage (extBlkKey h (o / 4096)) = some .reread ∧ t = { s with comp := { s.comp with recovering := t.comp.recovering } })) ∧
     (∀ p o, sl = .pod p o → Reaches (.bankIngestEnd (.egress n) false) s (fun t =>
       Marked s t (1000 + n) q (if q.retried then { q with word := q.word ||| 0x80 } else { q with retried := true })))) ∧
   (∀ (b : Nat) (s : State) (q : BankBlock), s.bankDown (.pod b) = false →
     (∀ v, (s.bank b).queue.find? (fun r => decide (r.phase = .checked) && (s.bank b).ready r.word && s.oldestOf r) = some q →
       mwTag q.word ≠ 0x3F → (s.bank b).decode q = .bytes v →
       Reaches (.blockDecoded (.pod b)) s (fun t => (t.core q.owner).obuf = (s.core q.owner).obuf ++ [v] ∧
         (t.bank b).husks = (s.bank b).husks + 1 ∧ (∀ c, c ≠ q.owner → t.core c = s.core c) ∧ t.ten = s.ten ∧ t.pods.mem = s.pods.mem)) ∧
     ((s.bank b).queue.find? (fun r => decide (r.phase = .checked) && (s.bank b).ready r.word && s.oldestOf r) = none →
       s.turn b = some q → mwTag q.word = 0x3F → s.oldestOf q = true →
       Reaches (.blockDecoded (.pod b)) s (fun t =>
         (t.core q.owner).obuf = (s.core q.owner).obuf ++ [Store.read s.pods.mem q.addr 4096] ∧
         (t.bank b).raws = (s.bank b).raws + 1 ∧ (∀ c, c ≠ q.owner → t.core c = s.core c) ∧ t.ten = s.ten ∧ t.pods.mem = s.pods.mem))) ∧
   (∀ (n : Nat) (s : State) (q : BankBlock) (x : Desc) (h : Word) (o : Nat) (a : DWord) (at_ : Bool),
     s.bankDown (.egress n) = false → (s.bank (1000 + n)).next [] (s.bank (1000 + n)).queue = some q → q.reader = none → s.desc q.owner = some x →
     s.srcAt x q.addr = some (.ext h o) → s.dstAt x q.addr = some (.host a at_) → q.word = 0x3F → s.blkMeta h (o / 4096) = 0x3F →
     s.granting srcMovers (.desc x.go) (accsOf h o 4096 false) = true → x.cut = false → x.stop = none → x.poisoned = false → x.bad = none →
     x.field 56 4 = x.done + 1 → Reaches (.blockDecoded (.egress n)) s (fun t =>
       (∃ y, t.desc q.owner = some y ∧ y.phase = .ended ∧ y.status = 0 ∧ y.d0 = BitVec.ofNat 64 (x.done + 1) ∧ y.d1 = BitVec.allOnes 64) ∧
       t.chan.hostTx = s.chan.hostTx ++ [.write (s.ch x.chan).port.toNat a x.pasid (at_ && (s.hport (s.ch x.chan).port.toNat).atsEn)
         (s.blkBytes h (o / 4096))] ∧ t.ten = s.ten)) ∧
   (∀ (n : Nat) (s : State) (q : BankBlock) (w : Who), s.bankDown (.egress n) = false →
     (s.bank (1000 + n)).next [] (s.bank (1000 + n)).queue = some q → q.reader = some w → s.alive w = true →
     Reaches (.blockDecoded (.egress n)) s (fun t =>
       ⟨w, q.addr, s.bankRead (1000 + n) q (s.slotStored (keySlot q.addr))⟩ ∈ t.comp.expanded ∧
       (t.bank (1000 + n)).queue = (s.bank (1000 + n)).queue.erase q ∧ t = { s with comp := t.comp })) ∧
   (∀ (n : Nat) (s : State) (j : EncJob) (rest : List EncJob) (h : Word) (blk : Nat), s.unitDown .encoder n = false →
     Table.get [] s.comp.engines n = j :: rest → j.toPod = false → h = BitVec.ofNat 32 (j.dst / 2 ^ 36) → blk = j.dst % 2 ^ 36 →
     s.granting srcMovers (s.whoOf j) (accsOf h (4096 * blk) 4096 true) = true → s.readOnly h = false →
     (let r := encodeBlock (s.engineList n j.tableId) j.elem.toNat j.tableId j.bytes
      (∀ d x, j.desc = some d → s.desc d = some x → x.jobs = 1 → x.phase = .working → x.stop = none → x.poisoned = false → x.bad = none →
        Reaches (.encoderBlockEnd n) s (fun t => EndedOk s t d x.done ∧ t.blkMeta h blk = codedWord j.tableId r ∧
          t.comp.rawEsc = s.comp.rawEsc + (if r.1 = 0x3F then 1 else 0) ∧ t.comp.huskWr = s.comp.huskWr + (if r.1 = 0x3F then 0 else 1))) ∧
      (∀ c, j.desc = none → j.core = some c → Reaches (.encoderBlockEnd n) s (fun t => t.blkMeta h blk = codedWord j.tableId r ∧
        t.core c = { s.core c with blks := (s.core c).blks.map (fun q =>
          if q.kind = .pute ∧ q.order = j.index then { q with left := q.left - 1 } else q) } ∧ t.chan = s.chan))))) ∧
  ((∀ (h : Word) (blk : Nat) (s : State) (e : Extent), s.extent h = some e → blk < e.blocks → mwPoison (s.blkMeta h blk) = false →
     s.recoverStage (extBlkKey h blk) = none → Reaches (.mempathCrcFailure h blk) s (fun t =>
       t.recoverStage (extBlkKey h blk) = some .reread ∧ t.comp.crcFail = s.comp.crcFail + 1 ∧ t.ten = s.ten)) ∧
   (∀ (h : Word) (blk : Nat) (s : State), s.recoverStage (extBlkKey h blk) = some .reread →
     Reaches (.rereadResult h blk true) s (fun t => t.recoverStage (extBlkKey h blk) = none ∧
       t.comp.rereadOk = s.comp.rereadOk + 1 ∧ t = { s with comp := t.comp }) ∧
     Reaches (.rereadResult h blk false) s (fun t => t.recoverStage (extBlkKey h blk) = some .rebuild ∧ t.ten = s.ten)) ∧
   (∀ (h : Word) (blk : Nat) (s : State), s.recoverStage (extBlkKey h blk) = some .rebuild →
     Reaches (.parityRebuildResult h blk true) s (fun t => t.recoverStage (extBlkKey h blk) = none ∧
       t.comp.rebuildOk = s.comp.rebuildOk + 1 ∧ t.ten.mem = s.ten.mem ∧ t.ten.metas = s.ten.metas) ∧
     (∀ e p, s.extent h = some e → e.owner = some p → Reaches (.parityRebuildResult h blk false) s (fun t =>
       t.recoverStage (extBlkKey h blk) = none ∧ t.comp.poisonCnt = s.comp.poisonCnt + 1 ∧
       t.blkMeta h blk = s.blkMeta h blk ||| 0x80 ∧ t.ten.mem = s.ten.mem ∧
       t.evt = s.evt.raise s.now 0x0300 Sev.error Uk.mempath 0 p.toNat h.toNat blk))))
namespace Sys2Proof.Claims

open Sys2Proof.Machine

/-- Only stack `n` changed, and it is now `x`. -/
def StackBecomes (s t : State) (n : Nat) (x : Stack) : Prop :=
  t.stack n = x ∧ (∀ j, j ≠ n → t.stack j = s.stack j) ∧ t = { s with rel := { s.rel with stks := t.rel.stks } }

/-- Stack `n` is present and READY. -/
def ReadyStack (s : State) (n : Nat) : Prop := s.variant.hasStack n = true ∧ (s.stack n).state = .ready

/-- Requests queued from a source. -/
def queueOf (s : State) (n src : Nat) : List StkEnt := Table.get [] (s.stack n).queues src

end Sys2Proof.Claims

/-- R277 to R282, R284, R288, R289, R310, R386 to R401: a request joins its queue, taking a slot, guaranteed or background, or waits for one;
the chosen one starts with an activation and leaves when it completes; a bank's refresh runs, is postponed at most 8
times, or forced; a pseudo-channel retrains; scrub reads the next sector; partial writes merge and flush. At a boundary
capability, guarantees and demotion marks are taken anew.
Where the spec leaves it open, the model's choices are those of assumptions 33, 34, 39, 40, 109 and 117. -/
def Obligations.StackControllers : Prop :=
  (∀ (n : Nat) (r : StackReq) (s : State), ReadyStack s n → (s.stack n).waits = [] → (queueOf s n r.source).length < 256 →
    (let q := s.sized n (s.tied r)
     let c := s.regulatedAs q.cls (some q.party)
     let g := !r.unregulated && s.guaranteed n c
     let e : StkEnt := { req := q, arrive := (s.stack n).arrivals, count := s.now, cls := c, guar := g }
     let first := fun (t : State) => queueOf t n r.source = queueOf s n r.source ++ [e] ∧
       (∀ k, k ≠ r.source → queueOf t n k = queueOf s n k) ∧ (t.stack n).arrivals = (s.stack n).arrivals + 1 ∧
       (t.stack n).waits = [] ∧ (∀ k, k ≠ n → t.stack k = s.stack k ∧ t.res k = s.res k)
     (r.unregulated = true → Reaches (.stackRequestArrival n r) s (fun t => first t ∧ t.qos = s.qos)) ∧
     (r.unregulated = false → s.slotFree n g q.party.toNat = true → Reaches (.stackRequestArrival n r) s (fun t => first t ∧
       t.res n = (if g then { s.res n with guar := Table.modify 0 (s.res n).guar c (· + 1) }
         else { s.res n with bg := Table.modify 0 (s.res n).bg q.party.toNat (· + 1) }) ∧
       (t.qclass c).issued = (s.qclass c).issued + 1)) ∧
     (r.unregulated = false → s.slotFree n g q.party.toNat = false → Reaches (.stackRequestArrival n r) s (fun t =>
       StackBecomes s t n { s.stack n with
         arrivals := (s.stack n).arrivals + 1, waits := [{ e with cls := 63, guar := false }] })))) ∧
  (∀ (n src : Nat) (s : State) (e : StkEnt), (s.stack n).state = .ready → s.chosen n src = some e →
    Reaches (.activationStart n src []) s (fun t =>
      queueOf t n src = (queueOf s n src).map (fun f => if f = e then { f with started := true } else f) ∧
      (∀ k, k ≠ src → queueOf t n k = queueOf s n k) ∧ e.req.slot / 16 ∈ (t.stack n).mdc ∧ (∀ j, j ≠ n → t.stack j = s.stack j) ∧
      (s.ten.isSealed = false → t.qos = s.qos) ∧ t = { s with rel := { s.rel with stks := t.rel.stks }, qos := t.qos })) ∧
  (∀ (n src : Nat) (s : State) (e : StkEnt) (rest : List StkEnt), (s.stack n).state = .ready → queueOf s n src = e :: rest →
    e.started = true → e.delayed = false → (s.stack n).waits = [] →
    Reaches (.stackRequestComplete n src) s (fun t => queueOf t n src = rest ∧
      (e.req.unregulated = true → t.qos = s.qos) ∧
      (e.req.unregulated = false → t.res n = (if e.guar then { s.res n with guar := Table.modify 0 (s.res n).guar e.cls (· - 1) }
        else { s.res n with bg := Table.modify 0 (s.res n).bg e.req.party.toNat (· - 1) })) ∧
      (∀ j, j ≠ n → t.stack j = s.stack j ∧ t.res j = s.res j))) ∧
  (∀ (n pc bank : Nat) (s : State), ReadyStack s n → pc < pcsOf n → bank < 64 →
    (let x := s.stack n
     let k := 64 * pc + bank
     let busy := (s.eligible n).any (fun e => decide (pcOf n e.2.1.req.slot = pc) && decide (bankOf n e.2.1.req.slot = bank))
     Reaches (.refresh n pc bank) s (fun t => StackBecomes s t n (
       if busy = true ∧ Table.get 0 x.postponed k < 8 then { x with postponed := Table.modify 0 x.postponed k (· + 1) }
       else { x with postponed := Table.put 0 x.postponed k 0, refForced := if busy then x.refForced + 1 else x.refForced })))) ∧
  (∀ (n pc : Nat) (s : State), ReadyStack s n → pc < pcsOf n → (s.stack n).lostMask.getLsbD pc = false →
    pc ∉ (s.stack n).retraining → s.stackWiping n = false → s.retrainDue n pc = true →
    Reaches (.pcRetrain n pc) s (fun t => StackBecomes s t n { s.stack n with
      trainedAt := Table.put 0 (s.stack n).trainedAt pc s.now
      retraining := (s.stack n).retraining ++ [pc], retrains := (s.stack n).retrains + 1
      trig := (s.stack n).trig.filter (fun y => decide (y ≠ pc)) })) ∧
  (∀ (n pc : Nat) (s : State), (s.stack n).state = .ready → pc ∈ (s.stack n).retraining → (∀ k, (s.stack k).trig = []) →
    Reaches (.pcRetrainEnd n pc true) s (fun t => StackBecomes s t n { s.stack n with
      retraining := (s.stack n).retraining.filter (fun y => decide (y ≠ pc)), fails := Table.del (s.stack n).fails pc
      trainTemp := Table.put 0 (s.stack n).trainTemp pc (s.stack n).temp }) ∧
    (Table.get 0 (s.stack n).fails pc < 2 → Reaches (.pcRetrainEnd n pc false) s (fun t => StackBecomes s t n { s.stack n with
      fails := Table.modify 0 (s.stack n).fails pc (· + 1) })) ∧
    (2 ≤ Table.get 0 (s.stack n).fails pc → (s.stack n).lostMask = 0 → pc < 32 → Reaches (.pcRetrainEnd n pc false) s (fun t =>
      (t.stack n).lostMask.getLsbD pc = true ∧ pc ∉ (t.stack n).retraining))) ∧
  (∀ (n : Nat) (s : State), ReadyStack s n → (s.stack n).scrubEn = true → (s.stack n).retraining = [] → s.stackWiping n = false →
    (s.stack n).scrubAt + (s.stack n).scrubStep n ≤ s.now →
    Reaches (.scrubStep n none) s (fun t => StackBecomes s t n (if passSectors n ≤ (s.stack n).scrubPos + 1
      then { s.stack n with scrubPos := 0, scrubAt := s.now, passes := (s.stack n).passes + 1 }
      else { s.stack n with scrubPos := (s.stack n).scrubPos + 1, scrubAt := s.now }))) ∧
  (∀ (n slot sector src : Nat) (data : BitVec 512) (mask : BitVec 64) (s : State), ReadyStack s n → s.ten.isSealed = false →
    (∀ e ∈ (s.stack n).merge, e.slot ≠ slot ∨ e.sector ≠ sector ∨ e.flushing = true) → (s.stack n).merge.length < 64 →
    Reaches (.mergeWrite n slot sector src data mask) s (fun t => StackBecomes s t n { s.stack n with
      merge := (s.stack n).merge ++ [{ slot := slot, sector := sector, data := data, mask := mask, source := src, merged := s.now
                                       flushing := decide (mask = BitVec.allOnes 64) }] })) ∧
  (∀ (n slot sector : Nat) (s : State), Reaches (.mergeHoldExpiry n slot sector) s (fun t => StackBecomes s t n { s.stack n with
    merge := (s.stack n).merge.map (fun e => if e.slot = slot ∧ e.sector = sector ∧ (s.stack n).mergeHold.toNat ≤ 120 * (s.now - e.merged)
      then { e with flushing := true } else e) })) ∧
  (∀ (n slot sector : Nat) (s : State) (e : MergeEnt), (s.stack n).state = .ready → (s.stack n).mergeWait = [] →
    (s.stack n).merge.find? (fun f => decide (f.slot = slot) && decide (f.sector = sector) && f.flushing) = some e →
    Reaches (.mergeFlushEnd n slot sector) s (fun t => StackBecomes s t n { s.stack n with
      merge := (s.stack n).merge.erase e, mergeFlush := (s.stack n).mergeFlush + 1
      mergeRmw := if e.mask = BitVec.allOnes 64 then (s.stack n).mergeRmw else (s.stack n).mergeRmw + 1 })) ∧
  (∀ (s : State), s.power.standby = true → s.now % 4096 = 0 → s.regs.shadows = [] → s.rel.rebuilds = [] → s.rel.retires = [] →
    s.rel.reclaim = [] → Table.wf {} s.qos.classes = true → Reaches .regulationBoundary s (fun t =>
      (∀ r ∈ resList s.variant, t.resD r = s.derated r ∧ (t.res r).eff = effOf s.qos.classes r (s.derated r)) ∧
      (∀ c, t.qclass c = { s.qclass c with demLast := (s.qclass c).demNow, demNow := false }) ∧
      t.ten.isSealed = (decide (1 < s.ten.parties.length) || s.ten.force)))

/-- R405 to R418: a remap entry takes effect once its row is copied, a retired
stripe is recorded, a rebuild ends with its event, a moved tract is NEAR_HOMED. A controller reset discards queues and
keeps writes and merge entries, which its end releases in time; past its bound or at the third within the hour the
stack is lost. A unit's reset discards its work in hand until its end, recorded.
Where the spec leaves it open, the model's choices are those of assumptions 20, 22, 24, 35, 36 and 42. -/
def Obligations.RepairAndResets : Prop :=
  (∀ (n slot : Nat) (s : State), (s.stack n).state = .ready → slot ∈ (s.stack n).remapping → Reaches (.rowRemapEnd n slot) s (fun t =>
    (∃ spare, (slot, spare) ∈ (t.stack n).remaps ∧ (spare < 32)) ∧ slot ∉ (t.stack n).remapping ∧
    (∀ a b, a ≠ slot → ((a, b) ∈ (t.stack n).remaps ↔ (a, b) ∈ (s.stack n).remaps)) ∧ (∀ j, j ≠ n → t.stack j = s.stack j) ∧
    t = { s with rel := { s.rel with stks := t.rel.stks } })) ∧
  (∀ (tier : Tier) (stripe : Nat) (s : State), (∃ r ∈ s.rel.retires, r.tier = tier ∧ r.stripe = stripe ∧ r.begun = true ∧ r.ended = false) →
    Reaches (.stripeRetirementEnd tier stripe) s (fun t => t.retired tier = s.retired tier ++ [stripe] ∧
      (∀ r ∈ t.rel.retires, r.tier = tier → r.stripe = stripe → r.begun = true → r.ended = true) ∧ t.rel.stks = s.rel.stks)) ∧
  (∀ (n : Nat) (s : State) (r : Rebuild), s.rel.rebuilds.find? (fun q => decide (q.stack = n) && q.begun && !q.ended) = some r → r.lacks = 0 →
    Reaches (.rebuildEnd n) s (fun t =>
      t.rel = { s.rel with rebuilds := s.rel.rebuilds.map (fun q => if q = r then { q with ended := true } else q) } ∧
      t.evt = s.evt.raise s.now 0x0305 Sev.info Uk.stack n ((s.now - r.start) / 25000) 0 0)) ∧
  (∀ (h : Word) (u : Nat) (s : State), (s.tract h u).moving = true → (s.tract h u).spilled = none → (s.tract h u).state = .near →
    s.rel.reclaim = [] → Reaches (.reclaimMoveEnd h u) s (fun t =>
      t.tract h u = { s.tract h u with moving := false, state := .nearHomed, dirty := 0, window := none } ∧
      t.rel = { s.rel with migrated := s.rel.migrated + 1 } ∧ (∀ g v, u < 2 ^ 20 → v < 2 ^ 20 → (g, v) ≠ (h, u) → t.tract g v = s.tract g v))) ∧
  (∀ (n cause : Nat) (s : State), ReadyStack s n → Reaches (.controllerReset n cause) s (fun t =>
    (∃ w, t.stack n = { s.stack n with
        state := .reset, queues := [], merge := [], copies := (s.stack n).merge, mdc := [], postponed := [], retraining := [], trig := []
        heldWrites := (s.stack n).heldWrites ++ w, resetting := some s.now, resetCause := cause, resets := (s.stack n).resets + 1
        resetAt := (s.stack n).resetAt.filter (fun u => decide (s.now < u + 90000000000)) ++ [s.now] } ∧
      (∀ e, (∃ k q, (k, q) ∈ (s.stack n).queues ∧ e ∈ q ∧ e.req.source ≠ 22 ∧ e.req.write = true) →
        { e with started := false, delayed := true } ∈ w) ∧ ∀ e ∈ w, e.req.write = true) ∧
    t.rel.ctrlResets = s.rel.ctrlResets + 1 ∧ (∀ j, j ≠ n → t.stack j = s.stack j) ∧ t.ten = s.ten)) ∧
  (∀ (n start : Nat) (s : State), (s.stack n).resetting = some start → start ≤ s.now →
    (s.now - start ≤ resetBound n → ((s.stack n).resetAt.filter (fun u => decide (s.now < u + 90000000000))).length < 3 →
      Reaches (.controllerResetEnd n) s (fun t => (t.stack n).state = (if s.clk.mstate = .doze then .selfRefresh else .ready) ∧
        (t.stack n).resetting = none ∧ (t.stack n).heldWrites = [] ∧ (t.stack n).copies = [] ∧
        (∀ e ∈ (s.stack n).heldWrites, e ∈ queueOf t n e.req.source) ∧
        (∀ e ∈ (s.stack n).copies, { e with flushing := true } ∈ (t.stack n).merge) ∧ (∀ j, j ≠ n → t.stack j = s.stack j) ∧
        t.evt = s.evt.raise s.now 0x0302 Sev.warning Uk.stack n (s.stack n).resetCause (s.now - start) 0)) ∧
    (s.now - start ≤ resetBound n → 3 ≤ ((s.stack n).resetAt.filter (fun u => decide (s.now < u + 90000000000))).length →
      (s.stack n).state ≠ .failed → Reaches (.controllerResetEnd n) s (fun t => (t.stack n).state = .failed)) ∧
    (resetBound n < s.now - start → (s.stack n).state ≠ .failed →
      Reaches (.controllerResetTimeout n) s (fun t => (t.stack n).state = .failed))) ∧
  (∀ (u : UnitKind) (i cause : Nat) (s : State), i < unitCount u → Reaches (.unitReset u i cause) s (fun t =>
    t.unitDown u i = true ∧ t.rel.unitResets = s.rel.unitResets.filter (fun q => !(decide (q.unit = u) && decide (q.inst = i))) ++
      [⟨u, i, s.now, cause⟩] ∧ t.rel.unitResetCnt = s.rel.unitResetCnt + (if s.unitDown u i then 0 else 1))) ∧
  (∀ (u : UnitKind) (i : Nat) (s : State) (r : UnitReset), s.rel.unitResets.find? (fun q => decide (q.unit = u) && decide (q.inst = i)) = some r →
    s.unitImageOk u = true → ¬ (u = .mover ∧ s.sec.activating = some (1, i)) → Reaches (.unitResetEnd u i) s (fun t =>
      t.rel.unitResets = s.rel.unitResets.erase r ∧ t.ten = s.ten ∧
      t.evt = s.evt.raise s.now 0x0306 Sev.warning (unitNo u) i r.cause (s.now - r.start) 0))
namespace Sys2Proof.Claims

open Sys2Proof.Machine

/-- Port `p` is now `x`; no other port changed. -/
def PortIs (s t : State) (p : Nat) (x : FabPort) : Prop := t.fport p = x ∧ ∀ j, j ≠ p → t.fport j = s.fport j

/-- Port `p` may train: present, enabled, in no wait, rails up, no write of its speed register pending (R317, R327). -/
def MayTrain (s : State) (p : Nat) : Prop :=
  p < s.variant.fabPorts ∧ (s.fport p).enable = true ∧ s.railsUp = true ∧ s.regs.shadows = []

/-- It went back to TRAINING, counted (R323). -/
def Retrained (s t : State) (p : Nat) : Prop :=
  (t.fport p).state = .training ∧ (t.fport p).retrains = (s.fport p).retrains + 1 ∧ (t.fport p).backoff = none ∧ (t.fport p).trainFrom = s.now

/-- A LINK flit whose first byte is `b` was sent on port `p`. -/
def SentLink (s t : State) (p b : Nat) : Prop :=
  ∃ l w, t.fab.links = s.fab.links ++ l ∧ (p, w) ∈ l ∧ w.toNat % 256 = b

/-- In AUTH, this module's hello sent, nothing failed; with the port as it is once the arriving LINK flit is taken. -/
def InHello (s : State) (p : Nat) (x : FabPort) : Prop :=
  (s.fport p).state = .auth ∧ (s.fport p).backoff = none ∧ (s.fport p).own ≠ none ∧
    x = { s.fport p with rxSeq := (s.fport p).rxSeq + 1 }

/-- A flit of a type passes its CRC, its tag and its form on an UP port; ACK `k` new flits, no NAK, no credits
(R318 to R322). -/
def GoodFlit (s : State) (p : Nat) (flit : BitVec 2048) (type k : Nat) : Prop :=
  (let x := s.fport p
   let b := bvB 256 flit
   x.state = .up ∧ flitType flit = type ∧ s.fab.waiting = [] ∧ x.linkWait = [] ∧ crc32c (b.take 252) = fieldAt b 252 4 ∧
   (Crypto.gcmTag (bvB 32 x.rxKey) (flitNonce x.rxPos) (b.take 12) (sliceBytes b 12 228)).take 12 = sliceBytes b 240 12 ∧
   flitForm b = true ∧ fieldAt b 2 2 / 4096 % 2 = 0 ∧ (BitVec.ofNat 12 (fieldAt b 2 2) - x.acked).toNat = k ∧
   k ≤ x.unacked.length ∧ ∀ v, v < 4 → fieldAt b (4 + v) 1 = 0 ∧ x.credit v ≤ vcFlits v)

/-- A DATA flit joins the stream of its VC: what the VC's buffer then is, and how many packets not well formed it ended
(R318, R326). -/
def joined (s : State) (p : Nat) (flit : BitVec 2048) (vc : Nat) : RxVc × Nat :=
  ((s.fport p).rxVc vc).flit s.now (fieldAt (bvB 256 flit) 8 2)
    (Crypto.gcmCrypt (bvB 32 (s.fport p).rxKey) (flitNonce (s.fport p).rxPos) (sliceBytes (bvB 256 flit) 12 228))

end Sys2Proof.Claims

/-- R316 to R327: trained lanes bring a port to AUTH, where hello, certificates and signature are taken in turn and checked,
a failure costing a second's wait, and the last brings it UP under the link keys; a training attempt ends after 10 s; SLEEP
is asked for, agreed and left, an answer to no request being a violation; a return to TRAINING is counted. A flit that
passes its checks is taken, joins the stream of its VC, acknowledges and returns credits; one whose CRC fails is to be NAKed.
Where the spec leaves it open, the model's choices are those of assumptions 43, 44 and 45. -/
def Obligations.FabricLinks : Prop :=
  (∀ (p rate pair : Nat) (rtt : BitVec 16) (s : State), (s.fport p).state = .training → s.now ≤ (s.fport p).trainFrom + 250000000 → rate ≤ 3 →
    ((s.fport p).maxSpeed = true → 2 ≤ rate) → (rate = 1 ∨ rate = 3 → (s.fport p).allowX2 = true) →
    Reaches (.trainingDone p rate rtt pair) s (fun t => (t.fport p).state = .auth ∧ (t.fport p).rate = rate ∧ (t.fport p).rtt = rtt ∧
      (∀ j, j ≠ p → t.fport j = s.fport j) ∧ (s.isReady = true → s.keysUsable = true → SentLink s t p 1 ∧ SentLink s t p 2) ∧
      (s.isReady = false → t.fab.links = s.fab.links) ∧
      t.evt = (if rate = 1 ∨ rate = 3 then s.evt.raise s.now 0x0402 Sev.notice Uk.fabPort p pair 0 0 else s.evt))) ∧
  (∀ (p : Nat) (s : State), (s.fport p).state = .training → (s.fport p).trainFrom + 250000000 ≤ s.now →
    Reaches (.trainingTimeout p) s (fun t => (t.fport p).state = .down ∧ ∀ j, j ≠ p → t.fport j = s.fport j)) ∧
  (∀ (p : Nat) (w : BitVec 1824) (s : State) (x : FabPort), InHello s p x → x.peer = none →
    fieldAt (bvB 228 w) 0 1 = 1 → fieldAt (bvB 228 w) 1 1 = 1 →
    Reaches (.hello p w) s (fun t => PortIs s t p { x with peer := some (readHello w) })) ∧
  (∀ (p : Nat) (w : BitVec 1824) (s : State) (x : FabPort) (h : Hello), InHello s p x → x.peer = some h → fieldAt (bvB 228 w) 0 1 = 2 →
    fieldAt (bvB 228 w) 1 1 = x.certs.length →
    (let c := sliceBytes (bvB 228 w) 2 192
     (x.certs = [] → Reaches (.cert p w) s (fun t => PortIs s t p { x with certs := [c] })) ∧
     (∀ i, x.certs = [i] → s.partnerOk h i c = true → Reaches (.cert p w) s (fun t =>
       (t.fport p).verified = true ∧ (t.fport p).certs = [i, c] ∧ SentLink s t p 3)) ∧
     (∀ i, x.certs = [i] → s.partnerOk h i c = false → Reaches (.cert p w) s (fun t =>
       PortIs s t p { x with certs := [i, c], backoff := some (s.now + 25000000) } ∧
       t.evt = s.evt.raise s.now 0x0400 Sev.warning Uk.fabPort p 1 (h.uid.toNat % 2 ^ 32) 0)))) ∧
  (∀ (p : Nat) (sig : BitVec 512) (s : State) (x : FabPort) (me h : Hello), InHello s p x → x.own = some me → x.peer = some h → x.verified = true →
    (∀ k, Crypto.ed25519Verify (bvB 32 h.idKey) (helloText me h) (bvB 64 sig) = true → linkKeys (bvB 32 x.ephKey) me h = some k →
      Reaches (.helloSig p sig) s (fun t => (t.fport p).state = .up ∧ (t.fport p).peerUid = h.uid ∧
        (t.fport p).txKey = BitVec.ofNat 256 (leNat (if me.uid.toNat < h.uid.toNat then k.1 else k.2)) ∧
        (t.fport p).rxKey = BitVec.ofNat 256 (leNat (if me.uid.toNat < h.uid.toNat then k.2 else k.1)))) ∧
    (Crypto.ed25519Verify (bvB 32 h.idKey) (helloText me h) (bvB 64 sig) = false →
      Reaches (.helloSig p sig) s (fun t => PortIs s t p { x with backoff := some (s.now + 25000000) } ∧
        t.evt = s.evt.raise s.now 0x0400 Sev.warning Uk.fabPort p 3 (h.uid.toNat % 2 ^ 32) 0))) ∧
  (∀ (p n : Nat) (s : State), MayTrain s p → (s.fport p).backoff = some n → n ≤ s.now →
    ((s.fport p).state = .auth → Reaches (.authBackoffEnd p) s (fun t => Retrained s t p)) ∧
    ((s.fport p).state = .down → Reaches (.degradedBackoffEnd p) s (fun t => Retrained s t p))) ∧
  (∀ (p : Nat) (s : State), MayTrain s p → (s.fport p).backoff = none → ((s.fport p).state = .up ∨ (s.fport p).state = .sleep ∨ (s.fport p).state = .auth) →
    Reaches (.linkRetrain p) s (fun t => Retrained s t p)) ∧
  (∀ (p : Nat) (s : State), (s.fport p).state = .up → (s.fport p).sleepEn = true →
    Reaches (.sleepReq p) s (fun t => (t.fport p).state = .sleep ∧ SentLink s t p 5 ∧ (t.fport p).rxSeq = (s.fport p).rxSeq + 1 ∧
      ∀ j, j ≠ p → (t.fport j).state = (s.fport j).state) ∧
    ((s.fport p).asked = true → Reaches (.sleepAck p) s (fun t => t.fport p = { s.fport p with
      state := .sleep, asked := false, waking := none, rxSeq := (s.fport p).rxSeq + 1, rxPos := (s.fport p).rxPos + 1 } ∧
      t.fab.links = s.fab.links ∧ ∀ j, j ≠ p → (t.fport j).state = (s.fport j).state)) ∧
    ((s.fport p).asked = false → Reaches (.sleepAck p) s (fun t => (t.fport p).viol = (s.fport p).viol + 1))) ∧
  (∀ (p : Nat) (s : State), (s.fport p).state = .sleep →
    Reaches (.linkWake p) s (fun t => (t.fport p).state = .up ∧ (s.isReady = false → s.fab.waiting = [] →
      t = (s.wake Wk.fabric).setFport p { s.fport p with state := .up }))) ∧
  (∀ (p k : Nat) (flit : BitVec 2048) (s : State), GoodFlit s p flit 0 k → Reaches (.idleFlit p flit) s (fun t =>
    (t.fport p).rxPos = (s.fport p).rxPos + 1 ∧ (t.fport p).rxSeq = (s.fport p).rxSeq ∧ (t.fport p).unacked = (s.fport p).unacked.drop k ∧
    (t.fport p).state = .up ∧ (∀ j, j ≠ p → t.fport j = s.fport j) ∧ t = { s with fab := { s.fab with ports := t.fab.ports } })) ∧
  (∀ (p k vc : Nat) (flit : BitVec 2048) (s : State), GoodFlit s p flit 1 k → BitVec.ofNat 12 (fieldAt (bvB 256 flit) 0 2) = (s.fport p).rxSeq →
    vc = fieldAt (bvB 256 flit) 0 2 / 4096 % 4 → Table.get 0 (s.fport p).rxFill vc + ((s.fport p).rxVc vc).held < vcFlits vc →
    (joined s p flit vc).2 = 0 →
    Reaches (.dataFlit p flit) s (fun t =>
      (t.fport p).rxPos = (s.fport p).rxPos + 1 ∧ (t.fport p).rxSeq = (s.fport p).rxSeq + 1 ∧ (t.fport p).unacked = (s.fport p).unacked.drop k ∧
      (t.fport p).rxVc vc = (joined s p flit vc).1 ∧
      (t.fport p).rxFill = Table.modify 0 (s.fport p).rxFill vc (· + (1 + ((s.fport p).rxVc vc).held - (joined s p flit vc).1.held)) ∧
      (∀ j, j ≠ p → t.fport j = s.fport j) ∧ t = { s.wake Wk.fabric with fab := { s.fab with ports := t.fab.ports } })) ∧
  (∀ (p : Nat) (flit : BitVec 2048) (s : State), (s.fport p).state = .up →
    crc32c ((bvB 256 flit).take 252) ≠ fieldAt (bvB 256 flit) 252 4 →
    (flitType flit = 0 → Reaches (.idleFlit p flit) s (fun t =>
      PortIs s t p { s.fport p with nak := true, rxPos := (s.fport p).rxPos + 1 })) ∧
    (flitType flit ≠ 0 → Reaches (.dataFlit p flit) s (fun t =>
      PortIs s t p { s.fport p with nak := true, rxPos := (s.fport p).rxPos + 1 })))

/-- R328 to R334: a module originates its LSA every 10 s and holds the newest of every other; one not refreshed for 40 s goes, its DID
released. The coordinator numbers the modules after 5 quiet seconds and a DID_ASSIGN to this module is taken. Routes
come from the database. A packet passing through is aged and goes out by a minimal port, or by the escape port after
ESC_WAIT, and is discarded after 64 hops.
Where the spec leaves it open, the model's choices are those of assumptions 46, 47 and 48. -/
def Obligations.FabricRouting : Prop :=
  (∀ (s : State), s.isReady = true → (∀ l, s.lsaOf s.sec.uid = some l → l.stamp + 250000000 ≤ s.now) → Reaches .lsaOriginate s (fun t => t.lsaOf s.sec.uid = some s.ownLsa ∧
    (∀ u, u ≠ s.sec.uid → t.lsaOf u = s.lsaOf u) ∧ t = { s with fab := t.fab })) ∧
  (∀ (port : Nat) (body : Bytes) (s a : State) (l : Lsa), (s.fport port).sealed = true → readLsa body s.now = some l →
    a = s.arrives port (fun q => decide (q.ptype = pLsa ∧ q.body = body)) →
    (s.fab.did = none → (∀ o, s.lsaOf l.uid = some o → o.seq.toNat < l.seq.toNat) → Reaches (.pktLsa port body) s (fun t =>
      t.lsaOf l.uid = some l ∧ (∀ u, u ≠ l.uid → t.lsaOf u = s.lsaOf u) ∧ t = { a with fab := t.fab })) ∧
    (∀ o, s.lsaOf l.uid = some o → l.seq.toNat ≤ o.seq.toNat → exec (.pktLsa port body) s = .next a)) ∧
  (∀ (uid : DWord) (s : State) (l : Lsa), s.lsaOf uid = some l → uid ≠ s.sec.uid → l.stamp + 1000000000 ≤ s.now →
    Reaches (.lsaExpiry uid) s (fun t => t.lsaOf uid = none ∧ (∀ u, u ≠ uid → t.lsaOf u = s.lsaOf u) ∧
      t.fab.routesValid = false ∧ t.fab.changed = s.now ∧ (∀ d, l.did = some d → (d, s.now) ∈ t.fab.released) ∧ t = { s with fab := t.fab })) ∧
  (∀ (s : State) (d : BitVec 12), s.isReady = true → s.coordinator = s.sec.uid.toNat → s.fab.changed + 125000000 ≤ s.now →
    (s.dbLsas.filter (fun l => decide (l.did = none))).map (fun l => l.uid.toNat) = [s.sec.uid.toNat] → s.freeDid [] = some d →
    Reaches .didAssignment s (fun t => t.fab.did = some d ∧
      t.evt = s.evt.raise s.now 0x0403 Sev.info Uk.module 0 d.toNat (s.sec.uid.toNat % 2 ^ 32) 0 ∧ t.ten = s.ten)) ∧
  (∀ (port : Nat) (body : Bytes) (s : State), (s.fport port).sealed = true → body.length = 18 → fieldAt body 16 2 < 4096 →
    fieldAt body 8 8 = s.sec.uid.toNat → fieldAt body 0 8 = s.coordinator → s.fab.did = none →
    Reaches (.pktDidAssign port body) s (fun t => t.fab.did = some (BitVec.ofNat 12 (fieldAt body 16 2)) ∧
      t.evt = s.evt.raise s.now 0x0403 Sev.info Uk.module 0 (fieldAt body 16 2) (s.coordinator % 2 ^ 32) 0)) ∧
  (∀ (s : State), s.isReady = true → s.fab.waiting = [] → Reaches .routeRecompute s (fun t => t.fab.routesValid = true ∧
    (∀ l d, l ∈ s.dbLsas → l.did = some d → l.uid ≠ s.sec.uid → (∀ m ∈ s.dbLsas, m.did = some d → m = l) →
      Table.find t.fab.routes d.toNat = some (RouteBase.route
        ⟨s.edges, s.fab.lsas.length, relaxN s.edges (fun _ => 1) s.fab.lsas.length [(s.coordinator, 0)]⟩ s.sec.uid.toNat l.uid.toNat)) ∧
    t = { s with fab := { s.fab with routes := t.fab.routes, routesValid := true } })) ∧
  (∀ (port vc counts k : Nat) (p : Packet) (s u : State), (s.fport port).sealed = true → vc < 2 → s.fab.did ≠ some (BitVec.ofNat 12 p.dst) →
    p.ok = true → u = s.arrives port (fun q => decide (q = p)) →
    (64 ≤ p.hops → exec (.packetForward port vc p counts) s = .next { u with fab := { u.fab with expired := u.fab.expired + 1 } }) ∧
    (p.hops < 64 → s.minimalPorts p.dst = [k] → (s.fport k).fits vc p = true →
      (let lost := max 1 (counts + (s.fport k).delay)
       (lost < p.life → Reaches (.packetForward port vc p counts) s (fun t =>
         t.fab.tx = s.fab.tx ++ [(k, vc, (p.put 9 1 (p.hops + 1)).put 6 2 (p.life - lost))] ∧ t = { s.wake Wk.fabric with fab := t.fab } ∧
         ((t.fport port).rxVc vc).pkts = ((s.fport port).rxVc vc).pkts.eraseP (fun r => decide (r.pkt = p)))) ∧
       (p.life ≤ lost → Reaches (.packetForward port vc p counts) s (fun t =>
         t.fab.tx = s.fab.tx ∧ t.fab.expired = s.fab.expired + 1 ∧ t = { s.wake Wk.fabric with fab := t.fab } ∧
         ((t.fport port).rxVc vc).pkts = ((s.fport port).rxVc vc).pkts.eraseP (fun r => decide (r.pkt = p))))))) ∧
  (∀ (p q : Packet) (s : State) (w : FabWait) (k : Nat), s.fab.waiting = [w] → w.pkt = p → w.vc < 2 → w.port = none → w.spent = none →
    w.since + s.fab.escWait.toNat ≤ s.now → s.hopNow w = none → s.escapeHop p = some (k, q) → (s.fport k).fits 2 q = true →
    Reaches (.escapeTimeout p) s (fun t => t.fab.tx = s.fab.tx ++ [(k, 2, q)] ∧ t.fab.waiting = [] ∧ t = { s with fab := t.fab }))
namespace Sys2Proof.Claims

open Sys2Proof.Machine

/-- Host port `p` is now `x`; no other host port changed. -/
def HportIs (s t : State) (p : Nat) (x : HostPort) : Prop := t.hport p = x ∧ ∀ j, j ≠ p → t.hport j = s.hport j

/-- Host port `p` is there, powered and not held in reset. -/
def OnPort (s : State) (p : Nat) : Prop := p < s.variant.hostPorts ∧ s.hostRails = true ∧ (s.hport p).perst = false

/-- Every channel of port `p` that ran or drained is STOPPED (R214). -/
def ChannelsStopped (s t : State) (p : Nat) : Prop :=
  ∀ c, (s.ch c).port.toNat = p → ((s.ch c).state = .running ∨ (s.ch c).state = .draining) → (t.ch c).state = .stopped

/-- What a port reset leaves (R362, R363): link gone and training, the function's configuration cleared. -/
def PortReset (s t : State) (p : Nat) : Prop :=
  (t.hport p).up = false ∧ (t.hport p).training = true ∧ (t.hport p).link = none ∧ (t.hport p).d3hot = false ∧
    (t.hport p).atsEn = false ∧ (t.hport p).atc = [] ∧ (t.hport p).hdmEn = false ∧ (t.hport p).pmeEn = false ∧
    (t.hport p).msixEn = false ∧ (t.hport p).masked = [] ∧ (t.hport p).pend = [] ∧ (t.hport p).vecAddr = [] ∧
    (t.hport p).vecData = [] ∧ (t.hport p).severe = [] ∧ (t.hport p).kept = false ∧
    (t.hport p).linkDowns = (s.hport p).linkDowns + (if (s.hport p).up || (s.hport p).kept then 1 else 0) ∧ ChannelsStopped s t p

/-- An error was logged at a port, with whether its severity is fatal there (R361). -/
def Logged (s t : State) (p : Nat) (e : AerErr) : Prop :=
  (t.hport p).aer = (s.hport p).aer ++ [(e, (s.hport p).severe.contains e)] ∧ ∀ j, j ≠ p → t.hport j = s.hport j

/-- The line of a request: 64-byte aligned, mapped by window `n` on a port that serves windows, in a raw block that is
not poisoned, in no directory entry (R366, R367, R369, R371). -/
def WindowLine (s : State) (port : Nat) (dpa : BitVec 39) (n : Nat) (w : ZWin) (h : Word) (off : Nat) : Prop :=
  s.active = true ∧ s.zport port = true ∧ (s.hport port).d3hot = false ∧ zmap s.host.wins port (dpa &&& ~~~ 63#39).toNat = some (n, w, off) ∧ h = w.handle ∧
    s.dirEnt port (dpa &&& ~~~ 63#39) = none ∧ s.host.dir.length < 16777216 ∧ s.blkMeta h (off / 4096) = 0x3F ∧ s.readOnly h = false

/-- The 64 bytes at byte `off` of extent `h`. -/
def lineBytes (s : State) (h : Word) (off : Nat) : Bytes := Store.read s.ten.mem (extByteKey h off) 64

/-- Only these 64 bytes of memory were stored to, with `data`. -/
def LineStored (s t : State) (h : Word) (off : Nat) (data : BitVec 512) : Prop :=
  lineBytes t h off = leBytes 64 data.toNat ∧
    (∀ a, a < extByteKey h off ∨ extByteKey h off + 64 ≤ a → Store.byte t.ten.mem a = Store.byte s.ten.mem a) ∧ t.ten.metas = s.ten.metas

end Sys2Proof.Claims

/-- R214, R230, R256, R257, R353 to R365: a port that trains takes the host's configuration; its resets, loss and D3hot stop
its channels; requests it does not support are answered UR or CA and logged, bad TLPs logged and counted; an unmasked
vector sends its pending message; an invalidated page leaves the translation cache, a good read's page enters it, and a
refused or late read ends its descriptor TRANSLATION_FAULT.
Where the spec leaves it open, the model's choices are those of assumptions 51, 107 and 108. -/
def Obligations.HostPorts : Prop :=
  (∀ (p : Nat) (l : HostLink) (s : State), OnPort s p → (s.hport p).training = true → (s.hport p).up = false → (s.hport p).allows l = true →
    Reaches (.hostLinkUp p l) s (fun t => HportIs s t p { s.hport p with
      up := true, training := false, kept := false, link := some l, wakeOut := false, msixEn := l.cfg.msixEn, masked := l.cfg.masked
      vecAddr := l.cfg.vecAddr, vecData := l.cfg.vecData, severe := l.cfg.severe, atsEn := l.cfg.atsEn, pmeEn := l.cfg.pmeEn, aspmL1 := l.cfg.aspmL1, hdmEn := l.cfg.hdmEn } ∧
      (∀ c, (s.ch c).port.toNat = p → l.cache = false → (t.ch c).watched = false) ∧ 
      (∀ c, (s.ch c).port.toNat = p → l.cache = true → (s.ch c).state = .running → (s.ch c).watch = true → (t.ch c).watched = true) ∧
      t.evt = (if (s.hport p).cxlEn = true ∧ l.gen = 1 then s.evt.raise s.now 0x0103 Sev.notice Uk.hostPort p 1 0 0 else s.evt))) ∧
  (∀ (p : Nat) (s : State), OnPort s p → s.regs.shadows = [] →
    Reaches (.hotReset p) s (fun t => PortReset s t p) ∧ Reaches (.functionLevelReset p) s (fun t => PortReset s t p) ∧
    Reaches (.hportRetrain p) s (fun t => HportIs s t p { s.hport p with
      up := false, training := true, link := none, kept := (s.hport p).up || (s.hport p).kept })) ∧
  (∀ (p : Nat) (s : State), ((s.hport p).up = true ∨ (s.hport p).kept = true) → s.regs.shadows = [] →
    Reaches (.hostLinkDown p .loss) s (fun t => (t.hport p).up = false ∧ (t.hport p).training = false ∧ (t.hport p).link = none ∧
      (t.hport p).linkDowns = (s.hport p).linkDowns + 1 ∧ ChannelsStopped s t p) ∧
    Reaches (.hostLinkDown p .removal) s (fun t => (t.hport p).up = false ∧ (t.hport p).training = false ∧ (t.hport p).link = none ∧
      (t.hport p).linkDowns = (s.hport p).linkDowns + 1 ∧ ChannelsStopped s t p) ∧
    Reaches (.hostLinkDown p .portReset) s (fun t => PortReset s t p)) ∧
  (∀ (p : Nat) (s : State), (s.hport p).up = true →
    ((s.hport p).d3hot = false → s.winOn p = none → Reaches (.powerstateWrite p 3) s (fun t => (t.hport p).d3hot = true ∧ ChannelsStopped s t p)) ∧
    (∀ n, (s.hport p).d3hot = false → s.winOn p = some n →
      exec (.powerstateWrite p 3) s = .next (s.raise 0x0104 Sev.notice Uk.hostPort p n 0 0)) ∧
    ((s.hport p).d3hot = true → s.regs.shadows = [] → Reaches (.powerstateWrite p 0) s (fun t => PortReset s t p))) ∧
  (∀ (p : Nat) (s : State), (s.hport p).up = true → (s.hport p).d3hot = false → s.active = true →
    Reaches (.unsupportedRequest p) s (fun t => Logged s t p .unsupportedRequest ∧ (t.hport p).urSent = (s.hport p).urSent + 1 ∧
      t.chan.hostTx = s.chan.hostTx ++ [.ur p] ∧ t.ten = s.ten) ∧
    (∀ w, Reaches (.completerAbort p w) s (fun t => Logged s t p .completerAbort ∧ (t.hport p).caSent = (s.hport p).caSent + 1 ∧
      t.chan.hostTx = s.chan.hostTx ++ (if w then [] else [.ca p]) ∧ t.ten = s.ten)) ∧
    Reaches (.malformedTlp p) s (fun t => Logged s t p .malformedTlp ∧ (t.hport p).protoErr = (s.hport p).protoErr + 1 ∧ t.chan = s.chan) ∧
    Reaches (.poisonedTlp p) s (fun t => Logged s t p .poisonedTlp ∧ (t.hport p).protoErr = (s.hport p).protoErr + 1 ∧ t.chan = s.chan) ∧
    Reaches (.unexpectedCompletion p) s (fun t => Logged s t p .unexpectedCompletion ∧ (t.hport p).protoErr = (s.hport p).protoErr + 1 ∧ t.chan = s.chan) ∧
    (∀ (page : DWord) (n : Nat), Reaches (.atsInvalidation p page n) s (fun t =>
      (t.hport p).atsInvs = (s.hport p).atsInvs + 1 ∧ t.chan.hostTx = s.chan.hostTx ++ [.invCompletion p] ∧
      ((s.hport p).atsEn = true → ∀ a, a ∈ (t.hport p).atc ↔ a ∈ (s.hport p).atc ∧ ¬ (page.toNat ≤ a.toNat ∧ a.toNat < page.toNat + 4096 * n))))) ∧
  (∀ (p : Nat) (v : BitVec 11) (s : State), v.toNat ∈ (s.hport p).masked → v.toNat ∈ (s.hport p).pend → (s.hport p).msixEn = true → (s.hport p).d3hot = false →
    Table.get 0 (s.hport p).vecAddr v.toNat ≠ 0 → Reaches (.msixUnmask p v) s (fun t => HportIs s t p { s.hport p with
      masked := (s.hport p).masked.filter (fun x => decide (x ≠ v.toNat)), pend := (s.hport p).pend.filter (fun x => decide (x ≠ v.toNat)) } ∧
      t.chan.hostTx = s.chan.hostTx ++ [.msix p v])) ∧
  (∀ (p : Nat) (s : State), Reaches (.atsEnableClear p) s (fun t => HportIs s t p { s.hport p with atsEn := false, atc := [] } ∧
    t = { s with host := { s.host with ports := t.host.ports } })) ∧
  (∀ (p d : Nat) (a : DWord) (s : State) (x : Desc), s.desc d = some x → (s.ch x.chan).port.toNat = p → x.cut = false → (s.hport p).up = true →
    (x.translates = true → (s.hport p).atsEn = true → Reaches (.hostReadCompletion p d a true) s (fun t =>
      (a &&& ~~~ 0xFFF#64) ∈ (t.hport p).atc ∧ t = { s with host := { s.host with ports := t.host.ports } })) ∧
    (x.phase = .working ∨ x.phase = .started → x.jobs = 0 → x.peers = [] → x.opcode ≠ 0x20 →
      Reaches (.hostReadCompletion p d a false) s (fun t => Ended s t d St.translationFault (BitVec.ofNat 64 x.done) a ∧ t.ten = s.ten) ∧
      (x.accept + (s.hport p).cplTo.toNat ≤ s.now → Reaches (.cplTimeout p d a) s (fun t => Ended s t d St.translationFault (BitVec.ofNat 64 x.done) a ∧ t.ten = s.ten ∧
        Logged s t p .completionTimeout ∧ (t.hport p).cplTimeouts = (s.hport p).cplTimeouts + 1))))

/-- R255, R366 to R377: a window read of a raw line returns its bytes and is recorded in the directory, a write stores them; a
partial write is UR. An acknowledgment or write-back takes the holder off, dirty data landing at the line recorded. GO is
performed at the end of its count, or once the switch under way has drained: it switches to an admissible mapping at a new epoch, or discards it with its event, and the switch ends once drained. The
brackets BEGIN_NATIVE and END_NATIVE end once no line of the window is held.
Where the spec leaves it open, the model's choices are those of assumptions 28 and 50. -/
def Obligations.WindowMode : Prop :=
  (∀ (port spid n off : Nat) (dpa : BitVec 39) (excl : Bool) (w : ZWin) (h : Word) (s : State), WindowLine s port dpa n w h off →
    (let l := dpa &&& ~~~ 63#39
     Reaches (.memrd port spid dpa excl) s (fun t =>
       t.chan.hostTx = s.chan.hostTx ++ [.memData port spid l (BitVec.ofNat 512 (leNat (lineBytes s h off))) false] ∧
       t.host.dir = s.host.dir ++ [{ port := port, dpa := l, handle := h, off := off, epoch := s.host.epoch, excl := excl
                                     holders := [spid], order := s.host.grants + 1 }] ∧
       t.host.grants = s.host.grants + 1 ∧ t.ten = s.ten ∧ t.host.wins = s.host.wins))) ∧
  (∀ (port spid n off : Nat) (dpa : BitVec 39) (data : BitVec 512) (w : ZWin) (h : Word) (s : State), WindowLine s port dpa n w h off →
    Reaches (.memwr port spid dpa data) s (fun t => LineStored s t h off data ∧
      t.chan.hostTx = s.chan.hostTx ++ [.memCmp port spid (dpa &&& ~~~ 63#39)] ∧ t.host = { s.host with grants := s.host.grants + 1 }) ∧
    Reaches (.memwrptl port spid dpa data (BitVec.allOnes 64)) s (fun t => LineStored s t h off data ∧
      t.chan.hostTx = s.chan.hostTx ++ [.memCmp port spid (dpa &&& ~~~ 63#39)] ∧ t.host = { s.host with grants := s.host.grants + 1 })) ∧
  (∀ (port spid : Nat) (dpa : BitVec 39) (data : BitVec 512) (be : BitVec 64) (s : State), be ≠ BitVec.allOnes 64 → (s.hport port).d3hot = false → s.active = true →
    Reaches (.memwrptl port spid dpa data be) s (fun t => t.host.winUr = s.host.winUr + 1 ∧ Logged s t port .unsupportedRequest ∧
      t.ten = s.ten ∧ t.chan.hostTx = s.chan.hostTx ++ [.memCmp port spid (dpa &&& ~~~ 63#39)])) ∧
  (∀ (port spid : Nat) (dpa : BitVec 39) (s : State) (e : DirEnt), s.host.dir = [e] → e.port = port → e.dpa = dpa &&& ~~~ 63#39 →
    e.holders = [spid] → s.host.waits = [] → s.blkMeta e.handle (e.off / 4096) = 0x3F → s.readOnly e.handle = false →
    (spid ∈ e.snooped → Reaches (.bisnpAck port dpa spid none) s (fun t => t.host.dir = [] ∧ t.ten = s.ten)) ∧
    (∀ data, spid ∈ e.snooped → e.excl = true →
      Reaches (.bisnpAck port dpa spid (some data)) s (fun t => t.host.dir = [] ∧ LineStored s t e.handle e.off data)) ∧
    (∀ data, e.excl = true → Reaches (.dirtyWriteback port dpa spid data) s (fun t => t.host.dir = [] ∧ LineStored s t e.handle e.off data))) ∧
  (∀ (s : State), exec .winSwitchGo s = .next { s with host := { s.host with goWait := true } }) ∧
  (∀ (s t : State), s.host.goWait = true → s.winTurn = t →
    (s.host.switching = true → t = s) ∧
    (s.host.switching = false → s.badWin s.shadowWins = none → t.host.epoch = s.host.epoch + 1 ∧ t.host.wins = s.shadowWins ∧
      t.host.switching = true ∧ t.host.goWait = false ∧ t.host.old = s.host.old ++ [(s.host.epoch, s.host.wins)] ∧ t.ten = s.ten) ∧
    (∀ n, s.host.switching = false → s.badWin s.shadowWins = some n → t.host.reject = true ∧ t.host.goWait = false ∧
      t.host.epoch = s.host.epoch ∧ t.host.wins = s.host.wins ∧ t.evt = s.evt.raise s.now 0x0111 Sev.notice Uk.window n n 0 0)) ∧
  (∀ (s : State), s.host.switching = true → s.epochDrained = true →
    exec .epochDrainEnd s = .next { s with host := { s.host with switching := false, old := [] } }) ∧
  (∀ (d : Nat) (s : State) (x : Desc), x.aux = 0 → s.zwinHeld x = true → s.host.dir = [] → s.host.waits = [] →
    (AtUnit s d 0x33 0 x → Reaches (.beginNative d) s (fun t => Ended s t d 0 0 0 ∧ (x.field 24 1, x.chan, s.host.grants + 1) ∈ t.host.natives ∧
      t.ten = s.ten)) ∧
    (AtUnit s d 0x33 1 x → (∀ e ∈ s.chan.descs, e.2.chan = x.chan → x.go ≤ e.2.go) →
      Reaches (.endNative d) s (fun t => Ended s t d 0 0 0 ∧
        t.host.natives = s.host.natives.filter (fun n => decide (n.1 ≠ x.field 24 1 ∨ n.2.1 ≠ x.chan)) ∧ t.ten = s.ten)))
namespace Sys2Proof.Claims

open Sys2Proof.Machine Sys2Proof.Crypto

/-- `i` is the security command of operation code `op`, over the block read, the image read and the new boot nonce. -/
def SecCmd (op : Nat) (h image : HostData) (nonce : BitVec 128) (i : Instr) : Prop :=
  (op = 1 ∧ i = .provision h) ∨
    (op = 2 ∧ i = .enterField h) ∨
    (op = 3 ∧ i = .leaveField h) ∨
    (op = 4 ∧ i = .release h) ∨
    (op = 5 ∧ i = .returnCmd h) ∨
    (op = 6 ∧ i = .stage h image) ∨
    (op = 7 ∧ i = .svnCommit h) ∨
    (op = 8 ∧ i = .revokeKey h) ∨
    (op = 9 ∧ i = .reset h nonce) ∨
    (op = 10 ∧ i = .activate h)

/-- A security command is running, its block was read whole and names operation `op`. -/
def SecRuns (s : State) (op : Nat) (h : HostData) : Prop :=
  s.sec.cmdBusy = true ∧ s.unitDown .pip 0 = false ∧ s.sec.activating = none ∧ s.sec.resetDue = none ∧ h.refused = none ∧
    64 ≤ s.sec.runBytes ∧ s.sec.runBytes ≤ h.bytes.length ∧ fieldAt (h.bytes.take s.sec.runBytes) 5 1 = op

/-- It passes R441's steps 1 to 4; `b` is its body and `u` the state once FM_SEQ holds its SEQUENCE. -/
def SecVerified (s : State) (op : Nat) (h : HostData) (b : Bytes) (u : State) : Prop :=
  let k := h.bytes.take s.sec.runBytes
  SecRuns s op h ∧ s.secForm k false = none ∧ s.secAllowed op = true ∧ s.secSigned k = true ∧ b = secBody k ∧
    u = if s.needFm op then { s with ten := { s.ten with fmSeq := BitVec.ofNat 64 (fieldAt k 32 8) } } else s

/-- SEC once a command ended OK. -/
def secDone (c : Sec) (op : Nat) : Sec :=
  { c with cmdBusy := false, lastOp := BitVec.ofNat 8 op, cmdStatus := 0, activating := none }

/-- A life-cycle transition: the record and the FM key are written, the event is recorded, a module reset is due (R444). -/
def Transition (u t : State) (op : Nat) (new : LcState) (key : Option (BitVec 256)) : Prop :=
  t = { u with
    sec := { u.sec with lc := Tv.all new, fmKey := Tv.all key, returnedFuse := u.sec.returnedFuse || decide (new = .returned)
                        lastOp := BitVec.ofNat 8 op, cmdStatus := 0, resetDue := some 2 }
    evt := u.evt.raise u.now 0x0003 Sev.notice Uk.security 0 (lcCode u.lcState) (lcCode (some new)) op }

/-- The image of slot `i` of kind `k` is in service; no other kind changed. -/
def InService (u t : State) (k : Nat) (i : Bool) (m : Bytes) : Prop :=
  (t.fwKind k).activeB = i ∧ ((t.fwKind k).slot i) = { image := some m, staged := false } ∧ (t.fwKind k).svn = fwSvn m ∧
    (t.fwKind k).digest = BitVec.ofNat 512 (leNat (fwDigest m)) ∧ (∀ j, j ≠ k → t.fwKind j = u.fwKind j) ∧ t.sec.activated = true

/-- The module after a reset that goes on to phase `next`, or to recovery where a kind has no valid image (R426, R427,
R436): memories, extents, channels, gates and shadows are gone; LCNT, keys, life-cycle state and stored records stay. -/
def AfterModuleReset (s t : State) (nonce : BitVec 128) (next : Boot) : Prop :=
  t.pods = {} ∧ t.comp = {} ∧ t.qos = {} ∧ t.ten = { bootNonce := nonce } ∧ t.chan.chans = [] ∧ t.chan.descs = [] ∧
    t.place.tracts = [] ∧ t.host.wins = [] ∧ t.clk = { lcnt := s.clk.lcnt } ∧ t.regs.shadows = [] ∧ t.evt.fatal = s.evt.fatal ∧
    t.evt.gen = s.evt.gen ∧ t.evt.minSev = 0 ∧ t.sec.lc = s.sec.lc ∧ t.sec.fmKey = s.sec.fmKey ∧ t.sec.uid = s.sec.uid ∧
    t.sec.rootRevoked = s.sec.rootRevoked ∧ t.sec.cmdBusy = false ∧ t.sec.resetDue = none ∧
    t.power.boot = (if (List.range 3).all (fun k => s.slotValid k false || s.slotValid k true) then next else .recovery)

end Sys2Proof.Claims

/-- R440 to R445: what ends a security command before its effect: a wrong form MALFORMED, a state or lock that forbids it
ACCESS_DENIED, a signature, sequence or key that fails SIGNATURE_INVALID with its event; nothing else changes. And what each
verified one does: life-cycle transitions (a stop where the record cannot be written), staged images, committed SVNs, revoked keys, activation, a module reset. R437,
R438, R446: GO starts a quote with the nonce in force, or is dropped and flagged while one is built or in RETURNED; the
quote that becomes ready, within 250,000 counts, carries magic, UID, boot nonce, nonce and LCNT at their places and the identity key's signature
over the rest; in RETURNED the debug signals open ten seconds after readiness unless DBG_LOCK is set.
Where the spec leaves it open, the model's choices are those of assumptions 91, 93, 94, 95 and 96. -/
def Obligations.SecurityCommands : Prop :=
  ((∀ (op : Nat) (h image : HostData) (nonce : BitVec 128) (i : Instr) (s : State), SecCmd op h image nonce i → SecRuns s op h →
     (let k := h.bytes.take s.sec.runBytes
      (s.secForm k false = some St.malformed → Reaches i s (fun t => t = { s with
        sec := { secDone s.sec op with cmdStatus := St.malformed }, free := t.free })) ∧
      (s.secForm k false = none → s.secAllowed op = false → exec i s = .next { s with
        sec := { secDone s.sec op with cmdStatus := St.accessDenied } }) ∧
      (s.secForm k false = none → s.secAllowed op = true → s.secSigned k = false → exec i s = .next { s with
        sec := { secDone s.sec op with cmdStatus := St.signatureInvalid }
        evt := s.evt.raise s.now 0x0200 Sev.notice Uk.fm 0 op 0 4 }))) ∧
   (∀ (h : HostData) (s u : State) (b : Bytes), SecVerified s 0x01 h b u →
     (u.ticketOk b = true → (s.power.flashBad = false → Reaches (.provision h) s (fun t => Transition u t 0x01 .provisioned (some (BitVec.ofNat 256 (leNat (b.take 32)))))) ∧
       (s.power.flashBad = true → exec (.provision h) s = .next u.flashStop)) ∧
     (u.ticketOk b = false → exec (.provision h) s = .next { u with
       sec := { secDone u.sec 0x01 with cmdStatus := St.signatureInvalid }
       evt := u.evt.raise u.now 0x0200 Sev.notice Uk.fm 0 0x01 0 5 })) ∧
   (∀ (h : HostData) (s u : State) (b : Bytes),
     (SecVerified s 0x02 h b u → (s.power.flashBad = false → Reaches (.enterField h) s (fun t => Transition u t 0x02 .field s.fmKey)) ∧
       (s.power.flashBad = true → exec (.enterField h) s = .next u.flashStop)) ∧
     (SecVerified s 0x03 h b u → (s.power.flashBad = false → Reaches (.leaveField h) s (fun t => Transition u t 0x03 .provisioned s.fmKey)) ∧
       (s.power.flashBad = true → exec (.leaveField h) s = .next u.flashStop)) ∧
     (SecVerified s 0x04 h b u → (s.power.flashBad = false → Reaches (.release h) s (fun t => Transition u t 0x04 .blank none)) ∧
       (s.power.flashBad = true → exec (.release h) s = .next u.flashStop)) ∧
     (SecVerified s 0x05 h b u → (s.power.flashBad = false → Reaches (.returnCmd h) s (fun t => Transition u t 0x05 .returned none)) ∧
       (s.power.flashBad = true → exec (.returnCmd h) s = .next ({ u with sec := { u.sec with returnedFuse := true } } : State).flashStop))) ∧
   (∀ (h image : HostData) (s u : State) (b m : Bytes), SecVerified s 0x06 h b u → image.refused = none →
     m = image.bytes.take s.sec.runData → s.sec.runData ≤ image.bytes.length → s.sec.runData = 128 + fwBody m →
     u.fwValid (fieldAt b 0 1) m = true → fwDigest m = sliceBytes b 4 64 →
     (let k := fieldAt b 0 1
      let x := u.fwKind k
      Reaches (.stage h image) s (fun t => t.fwKind k = x.setSlot (!x.activeB) { image := some m, staged := true } ∧
        (∀ j, j ≠ k → t.fwKind j = u.fwKind j) ∧ t = { u with sec := { secDone u.sec 0x06 with fw := t.sec.fw } }))) ∧
   (∀ (h : HostData) (s u : State) (b : Bytes), SecVerified s 0x07 h b u → fieldAt b 0 1 < 3 →
     fieldAt b 1 1 ≤ (u.fwKind (fieldAt b 0 1)).svn →
     Reaches (.svnCommit h) s (fun t => t.fwKind (fieldAt b 0 1) = { u.fwKind (fieldAt b 0 1) with
         svnMin := max (u.fwKind (fieldAt b 0 1)).svnMin (fieldAt b 1 1) } ∧
       (∀ j, j ≠ fieldAt b 0 1 → t.fwKind j = u.fwKind j) ∧ t = { u with sec := { secDone u.sec 0x07 with fw := t.sec.fw } })) ∧
   (∀ (h : HostData) (s u : State) (b : Bytes), SecVerified s 0x08 h b u →
     (fieldAt b 1 1 = 0 → fieldAt b 2 1 ≠ fieldAt b 0 1 → lastKey s.sec.rootRevoked (fieldAt b 2 1) = false →
       exec (.revokeKey h) s = .next { u with sec := { secDone u.sec 0x08 with rootRevoked := u.sec.rootRevoked ||| (1#4 <<< fieldAt b 2 1) } }) ∧
     (fieldAt b 1 1 = 1 → lastKey s.sec.fwRevoked (fieldAt b 2 1) = false →
       exec (.revokeKey h) s = .next { u with sec := { secDone u.sec 0x08 with fwRevoked := u.sec.fwRevoked ||| (1#4 <<< fieldAt b 2 1) } })) ∧
   (∀ (h : HostData) (s u : State) (b m : Bytes) (i : Bool), SecVerified s 0x0A h b u → fieldAt b 0 1 < 3 →
     ((u.fwKind (fieldAt b 0 1)).slot i) = { image := some m, staged := true } →
     ((u.fwKind (fieldAt b 0 1)).slot !i).staged = false → u.fwValid (fieldAt b 0 1) m = true →
     (∃ p, p < s.variant.pods ∧ (s.pod p).state ≠ .out) →
     Reaches (.activate h) s (fun t => InService u t (fieldAt b 0 1) i m ∧
       (fieldAt b 0 1 = 0 → t.unitDown .pip 0 = true ∧ t.sec.cmdBusy = false ∧ t.sec.cmdStatus = 0 ∧ t.sec.lastOp = 0x0A) ∧
       (fieldAt b 0 1 = 1 → t.unitDown .mover 0 = true ∧ t.sec.activating = some (1, 0) ∧ t.sec.cmdBusy = true) ∧
       (fieldAt b 0 1 = 2 → ∃ p, (s.pod p).state ≠ .out ∧ (∀ q, q < p → (s.pod q).state = .out) ∧ (t.pod p).state = .resetting ∧
         t.sec.activating = some (2, p) ∧ t.sec.cmdBusy = true))) ∧
   (∀ (h : HostData) (nonce : BitVec 128) (s u : State) (b : Bytes), SecVerified s 0x09 h b u →
     Reaches (.reset h nonce) s (fun t => AfterModuleReset s t nonce s.afterReset)) ∧
   (∀ (cause : Nat) (nonce : BitVec 128) (s : State), s.sec.resetDue = some cause →
     Reaches (.moduleReset cause nonce) s (fun t => AfterModuleReset s t nonce (if cause = 1 then .stagger else s.afterReset)))) ∧
  ((∀ (s : State), s.unitDown .pip 0 = false →
     exec .attGo s = .next { s with sec :=
       if s.sec.building = none ∧ s.lcState ≠ some .returned
         then { s.sec with building := some (s.sec.nonce, s.now), attReady := false, quote := [] }
         else { s.sec with dropped := true } }) ∧
   (∀ (s : State) (n : BitVec 256) (at_ : Nat), s.unitDown .pip 0 = false → s.sec.building = some (n, at_) →
     Reaches .quoteReady s (fun t => (at_ + 250000 ≤ s.now → s.quoteDue = t) ∧ t = { s with sec := { s.sec with building := none, attReady := true, quote := t.sec.quote } } ∧
       t.sec.quote.length = 448 ∧ sliceBytes t.sec.quote 0 4 = leBytes 4 0x5141585A ∧ sliceBytes t.sec.quote 8 8 = leBytes 8 s.sec.uid.toNat ∧
       sliceBytes t.sec.quote 16 16 = leBytes 16 s.ten.bootNonce.toNat ∧ sliceBytes t.sec.quote 32 32 = leBytes 32 n.toNat ∧
       sliceBytes t.sec.quote 64 8 = leBytes 8 s.clk.lcnt.toNat ∧
       t.sec.quote.drop 384 = s.sign (ascii "ZX9 quote" ++ t.sec.quote.take 384))) ∧
   (∀ (s : State), s.power.boot = .ready → s.lcState = some .returned → s.sec.dbgLock.vote true = false →
     s.power.readyAt + 250000000 ≤ s.now → exec .debugOpen s = .next { s with sec := { s.sec with debugOpen := true } }))
namespace Sys2Proof.Claims

open Sys2Proof.Machine

/-- Memories, extents, parties, channels, descriptors, gates, windows and links are gone; LCNT, keys, repair record and the
registers of power stay (R427, R486). -/
def MemoryLost (s t : State) : Prop :=
  t.pods = {} ∧ t.comp = {} ∧ t.qos = {} ∧ t.ten = { bootNonce := s.ten.bootNonce } ∧ t.chan.chans = [] ∧ t.chan.descs = [] ∧
    t.place.tracts = [] ∧ t.host.wins = [] ∧ t.host.dir = [] ∧ (∀ p, (t.hport p).up = false ∧ (t.hport p).training = false ∧
      (t.hport p).pmeEn = (s.hport p).pmeEn ∧ (t.hport p).perst = (s.hport p).perst) ∧ t.fab.ports = [] ∧
    t.clk = { s.clk with mstate := .active, waking := none, gates := [], idleFor := 0, quietFor := 0 } ∧ t.sec = s.sec ∧
    t.evt.fatal = s.evt.fatal ∧ t.evt.gen = s.evt.gen ∧ (∀ n, (t.stack n).remap = (s.stack n).remap ∧ (t.stack n).lost = (s.stack n).lost)

/-- The module stopped with a cause, recorded first (R485, R486). -/
def Stopped (s t : State) (cause : Nat) : Prop :=
  MemoryLost s t ∧ t.power = { s.power with boot := .stopped cause } ∧
    ((∀ e ∈ s.host.ports, e.2.up = false) → t.evt = s.evt.raise s.now 0x0502 Sev.fatal Uk.power 0 cause 0 0)

/-- Power is on, past standby: the 36 V input is in use. -/
def OnMain (s : State) : Prop := s.power.boot ≠ .unpowered ∧ s.power.boot ≠ .inputWait ∧ s.power.boot ≠ .d3cold ∧ ∀ c, s.power.boot ≠ .stopped c

/-- Power when the 36 V input goes away. -/
def inputGone (s : State) : Power :=
  { s.power with feed36 := false, goneAt := if s.power.feed36 then some s.now else s.power.goneAt }

/-- Every host port of the part that PERST# does not hold is training, and power otherwise stands as before. -/
def PortsTrain (s t : State) : Prop :=
  (∀ p, p < s.variant.hostPorts → (s.hport p).perst = false → (t.hport p).training = true ∧ (t.hport p).up = false) ∧
    t.power = { s.power with boot := .training } ∧ t.ten = s.ten ∧ t.sec = s.sec

/-- Only sideband input `n` changed, and it is now `x`. -/
def SideBecomes (s t : State) (n : Nat) (x : Side) : Prop :=
  t.side n = x ∧ (∀ k, k ≠ n → t.side k = s.side k) ∧ t = { s with power := { s.power with sides := t.power.sides } }

/-- The input was acted on at level `on`: its state, and Pip's effect (R258, R482, R487, R492). -/
def Acted (s t : State) (n : Nat) (x : Side) (on : Bool) : Prop :=
  t.side n = { x with level := on, until_ := some (s.now + 25000), events := x.events + 1, since := if on then s.now else x.since } ∧ (∀ k, k ≠ n → t.side k = s.side k) ∧
    (n = 0 → on = true → s.power.boot ≠ .d3cold → s.clk.mstate = .active ∨ t.clk.waking ≠ none) ∧
    (n = 1 → on = true → s.power.thrLevel.toNat ≤ t.power.level.toNat) ∧
    (n = 2 → on = true → t.power.alert = true ∧ (s.power.alertEn = true → (s.hport s.power.alertPort.toNat).msixEn = true →
      (s.hport s.power.alertPort.toNat).masked = [] → Table.get 0 (s.hport s.power.alertPort.toNat).vecAddr s.power.alertVec.toNat ≠ 0 →
      t.chan.hostTx = s.chan.hostTx ++ [.msix s.power.alertPort.toNat s.power.alertVec])) ∧
    (3 ≤ n → (t.hport (n - 3)).perst = on ∧ (on = true → (t.hport (n - 3)).up = false ∧ (t.hport (n - 3)).training = false) ∧
      (on = false → s.hostRails = true → (t.hport (n - 3)).training = true)) ∧ t.sec = s.sec

end Sys2Proof.Claims

/-- R248, R258, R335, R336, R426, R435, R451, R455, R474 to R477: standby power resets the module and counts the cycle; a good 36 V
input starts the stagger wait, whose slot comes 250 ms times UID mod 8 later; rails ramp in order, each tried twice, 20 ms long; then links
and stacks train, memory is wiped, self-test runs at most twice, and the module is locally ready, where pending
writes apply and it originates its LSA.
Where the spec leaves it open, the model's choices are those of assumptions 83 and 89. -/
def Obligations.StartUpPhases : Prop :=
  (∀ (f : Bool) (nonce : BitVec 128) (s : State),
    (s.power.standby = true → exec (.standbyPowerApplied f nonce) s = .next { s with power := { s.power with
      feed12 := s.power.feed12 || !f, feed36 := s.power.feed36 || f } }) ∧
    (s.power.standby = false → Reaches (.standbyPowerApplied f nonce) s (fun t =>
      AfterModuleReset { s with clk := { s.clk with lcnt := 0 } } t nonce .inputWait ∧ t.power.standby = true ∧
      t.evt.cycles = (if s.evt.cycles = 0xFFFF then s.evt.cycles else s.evt.cycles + 1) ∧
      t.evt.opSecs = (match s.evt.checkpoint with | some c => c + 64 | none => 0)))) ∧
  (∀ (s : State), s.power.boot = .inputWait → Reaches .inputGood s (fun t =>
    t.power = { s.power with feed36 := true, goodAt := s.now, boot := .stagger } ∧
    (∀ p, (t.hport p).wakeOut = ((s.hport p).wakeOut && (s.hport p).perst)) ∧
    t = { s with power := t.power, host := { s.host with ports := t.host.ports } })) ∧
  (∀ (s : State), s.power.boot = .d3cold → Reaches .inputGood s (fun t => t.sec = { s.sec with resetDue := some 1 } ∧
    t.power = { s.power with feed36 := true, goodAt := s.now })) ∧
  (∀ (s : State), s.power.boot = .stagger → s.power.goodAt + 6250000 * (s.sec.uid.toNat % 8) ≤ s.now →
    exec .staggerSlotStart s = .next { s with power := { s.power with boot := .ramp 1 0, railAt := s.now } }) ∧
  (∀ (s : State) (k n : Nat), s.power.boot = .ramp k n →
    (k < 6 → exec .railStep s = .next { s with power := { s.power with
      boot := .ramp (if k = 4 ∧ s.variant.deep = false then 6 else k + 1) 0, railAt := s.now } }) ∧
    (6 ≤ k → Reaches .railStep s (PortsTrain s)) ∧
    (n = 0 → s.power.railAt + 500000 ≤ s.now →
      exec .railTimeout s = .next { s with power := { s.power with boot := .ramp k 1, railAt := s.now } }) ∧
    (n ≠ 0 → s.power.railAt + 500000 ≤ s.now → Reaches .railTimeout s (fun t => Stopped s t 5))) ∧
  (∀ (s : State), s.power.boot = .training → Reaches .stackTrainingEnd s (fun t => t.power = { s.power with boot := .wiping } ∧
    (∀ n, s.variant.hasStack n = true → (t.stack n).state = if (s.stack n).state = .training then .ready else (s.stack n).state) ∧
    t = { s with power := t.power, rel := { s.rel with stks := t.rel.stks } })) ∧
  (∀ (s : State), s.power.boot = .wiping → Reaches .memoryWipeEnd s (fun t => t.power = { s.power with boot := .selfTest } ∧
    ((∀ n, (s.stack n).trig = []) → t.rel = s.rel) ∧ t = { s with power := t.power, rel := { s.rel with stks := t.rel.stks } })) ∧
  (∀ (s : State), s.power.boot = .selfTest →
    exec (.selfTestEnd true) s = .next { s with power := { s.power with boot := .tested } } ∧
    (s.power.testFails = 0 → exec (.selfTestEnd false) s = .next { s with power := { s.power with testFails := 1 } }) ∧
    (s.power.testFails ≠ 0 → Reaches (.selfTestEnd false) s (fun t => Stopped s t 7))) ∧
  (∀ (s : State), s.power.boot = .tested → (∀ e ∈ s.fab.ports, e.2.state ≠ .auth) →
    (s.regs.shadows = [] → Reaches .locallyReady s (fun t => t.lsaOf s.sec.uid = some s.ownLsa ∧
      t = { s with power := { s.power with boot := .ready, readyAt := s.now }, fab := t.fab })) ∧
    (∀ v, s.regs.shadows = [⟨Blk.lch.num, 4, 0, v, 0xFF⟩] → Reaches .locallyReady s (fun t =>
      t.clk = { s.clk with gateSel := v.setWidth 8 } ∧ t.regs.shadows = [] ∧ t.power = { s.power with boot := .ready, readyAt := s.now })))

/-- R256, R258, R478, R480, R482 to R486: each cause of a module stop stops it, with its record first and its memories lost; an input
lost with every host port in D3hot enters D3cold instead, and with standby power all queued records go; a stop's end, due
once the input was good, or absent, for 1 s, runs the whole start-up. A sample updates the readings, and L is the highest level that any cause demands, by the lowest such cause.
Where the spec leaves it open, the model's choices are those of assumptions 79, 80, 81, 87 and 90. -/
def Obligations.StopsAndThrottling : Prop :=
  (∀ (s : State), OnMain s →
    (s.power.standby = true → s.allD3hot = false → Reaches .inputLoss s (fun t => Stopped { s with power := inputGone s } t 1)) ∧
    (s.power.standby = true → s.allD3hot = true → Reaches .inputLoss s (fun t => MemoryLost s t ∧
      t.power = { inputGone s with boot := .d3cold })) ∧
    (115 ≤ s.power.tDie.toNat ∨ 105 ≤ s.power.tStack.toNat ∨ 125 ≤ s.power.tVr.toNat →
      Reaches .overTemperature s (fun t => Stopped s t 3)) ∧
    (125000000 ≤ s.power.flowLow → Reaches .coolantLoss s (fun t => Stopped s t 4))) ∧
  (∀ (s : State), s.power.boot ≠ .unpowered → (∀ c, s.power.boot ≠ .stopped c) → Reaches .overvoltage s (fun t => Stopped s t 2)) ∧
  (∀ (nonce : BitVec 128) (s : State) (c n : Nat), s.power.boot = .stopped c →
    (n + 25000000 ≤ s.now → (c ≤ 2 → s.power.inRange = some n) → (2 < c → s.power.goneAt = some n) →
      Reaches (.stopReturn nonce) s (fun t => AfterModuleReset s t nonce .stagger ∧ t.power.feed36 = true ∧ t.power.goneAt = none)) ∧
    (s.now < n + 25000000 → (c ≤ 2 → s.power.inRange = some n) → (2 < c → s.power.goneAt = some n) →
      exec (.stopReturn nonce) s = .next s)) ∧
  (∀ (s : State), s.power.standby = true → (∀ e ∈ s.host.ports, e.2.up = false) → Reaches .standbyPowerLoss s (fun t =>
    t.power = { s.power with standby := false, feed12 := false, feed36 := false, boot := .unpowered } ∧ t.evt.queue = [] ∧
    t.evt.opened = none ∧ t.evt.seq = s.evt.seq ∧ t.chan.descs = [] ∧ t.pods = {} ∧ t.sec = s.sec ∧
    (t.evt.fatal ++ t.evt.gen = s.evt.fatal ++ s.evt.gen ∨ ∃ r, s.evt.queue.head? = some r ∧
      ((t.evt.fatal = s.evt.fatal ++ [(r, true)] ∧ t.evt.gen = s.evt.gen) ∨ (t.evt.fatal = s.evt.fatal ∧ t.evt.gen = s.evt.gen ++ [(r, true)]))))) ∧
  (∀ (volts amps : BitVec 16) (die vr inlet outlet : BitVec 8) (temps : Table Byte) (flow : BitVec 16) (s : State), s.power.standby = true →
    Reaches (.powerSample volts amps die temps vr inlet outlet flow) s (fun t =>
      t.power.volts = volts ∧ t.power.amps = amps ∧ t.power.tDie = die ∧ t.power.tVr = vr ∧ t.power.inlet = inlet ∧ t.power.outlet = outlet ∧
      t.power.flow = flow ∧ t.power.sum = s.power.sum + volts.toNat * amps.toNat ∧ t.power.samples = s.power.samples + 1 ∧
      t.power.inRange = (if 3000 ≤ volts.toNat ∧ volts.toNat ≤ 4000 then some (s.power.inRange.getD s.now) else none) ∧
      (∀ c, c < 8 → t.demand c ≤ t.power.level.toNat) ∧ (t.power.level = 0 → t.power.cause = 0) ∧
      (t.power.level ≠ 0 → t.demand t.power.cause.toNat = t.power.level.toNat ∧ ∀ c, c < t.power.cause.toNat → t.demand c < t.power.level.toNat) ∧
      (t.demand 3 = if s.variant.maxWatts * 110000 < 10 * (volts.toNat * amps.toNat) then 3 else 0) ∧
      (t.demand 4 = 3 ↔ 105 ≤ die.toNat ∨ (s.power.dieLvl = 3 ∧ 100 < die.toNat)) ∧
      (t.demand 6 = 3 ↔ flow.toNat < s.variant.minFlow ∨ 51 ≤ inlet.toNat ∨ (s.power.inletLvl = 3 ∧ 45 < inlet.toNat)) ∧
      (t.demand 7 = if 2800 ≤ volts.toNat ∧ volts.toNat < 3000 then 3 else 0) ∧
      (∀ n c, temps = [(n, c)] → s.variant.hasStack n = true → t.power.tStack = c ∧ (t.stack n).temp = c ∧
        (t.stack n).hot = decide (85 < c.toNat) ∧ (t.demand 5 = 2 ↔ 95 ≤ c.toNat ∨ (2 ≤ s.power.stackLvl.toNat ∧ 90 < c.toNat))) ∧
      t.ten = s.ten ∧ t.chan = s.chan ∧ t.pods = s.pods))

/-- R487 to R492: a change of a filtered input is acted on, counted and coalesced for 1 ms; a pulse too short, or a change
within that time, is only counted; at its end Pip acts once on a level that differs. WAKE_IN or FM_ALERT_N asserted for 10 s is
masked with an event, examined again at doubling intervals, and unmasked once found deasserted. -/
def Obligations.SidebandInputs : Prop :=
  (∀ (n : Nat) (level : Bool) (s : State), s.hasSide n = true → s.power.standby = true →
    (let x := s.side n
     let y : Side := { x with present := level, since := if level then s.now else x.since }
     (level = x.present → Reaches (.sidebandChange n level) s (fun t => SideBecomes s t n { x with ignored := x.ignored + 1 })) ∧
     (level ≠ x.present → x.masked = true → Reaches (.sidebandChange n level) s (fun t => SideBecomes s t n y)) ∧
     (∀ u, level ≠ x.present → x.masked = false → x.until_ = some u → s.now < u →
       Reaches (.sidebandChange n level) s (fun t => SideBecomes s t n { y with ignored := x.ignored + 1 })) ∧
     (level ≠ x.present → x.masked = false → (∀ u, x.until_ = some u → u ≤ s.now) →
       Reaches (.sidebandChange n level) s (fun t => Acted s t n y level)))) ∧
  (∀ (n u : Nat) (s : State), (s.side n).until_ = some u → u ≤ s.now →
    (let y : Side := { s.side n with until_ := none }
     (y.present = y.level ∨ y.masked = true → Reaches (.coalesceEnd n) s (fun t => SideBecomes s t n y)) ∧
     (y.present ≠ y.level → y.masked = false → Reaches (.coalesceEnd n) s (fun t => Acted s t n y y.present)))) ∧
  (∀ (n : Nat) (s : State), n = 0 ∨ n = 2 →
    (let x := s.side n
     (x.masked = false → x.level = true → x.present = true → x.since + 250000000 ≤ s.now → Reaches (.inputStuck n) s (fun t =>
       SideBecomes { s with evt := t.evt } t n { x with masked := true, exam := s.now + 25000000, examInt := 25000000 } ∧
       t.evt = s.evt.raise s.now 0x0500 Sev.warning Uk.sideband 0 n 1 0)) ∧
     (x.masked = true → x.exam ≤ s.now → x.present = true → Reaches (.stuckExamine n) s (fun t =>
       SideBecomes s t n { x with examInt := min 1600000000 (2 * x.examInt), exam := s.now + min 1600000000 (2 * x.examInt) })) ∧
     (x.masked = true → x.exam ≤ s.now → x.present = false → Reaches (.stuckExamine n) s (fun t =>
       SideBecomes { s with evt := t.evt } t n { x with masked := false, level := false, exam := 0, examInt := 0 } ∧
       t.evt = s.evt.raise s.now 0x0500 Sev.warning Uk.sideband 0 n 0 0))))
namespace Sys2Proof.Claims

open Sys2Proof.Machine

/-- The values of a channel's JRN registers wait, all four, and nothing else does (R462). -/
def JrnWaits (s : State) (ch : Nat) (en : Bool) (handle page pages : Word) : Prop :=
  s.regs.shadows = [⟨Blk.evt.num, 0x5C, ch, handle, 0xFFFFFFFF⟩, ⟨Blk.evt.num, 0x60, ch, page, 0xFFFFFFFF⟩,
    ⟨Blk.evt.num, 0x64, ch, pages, 0xFFFFFFFF⟩, ⟨Blk.evt.num, 0x58, ch, if en then 0x80000000 else 0, 0x80000000⟩]

/-- The 4,096 bytes of page `n` of a journal as stored. -/
def pageBytes (s : State) (j : Journal) (n : Nat) : Bytes := Store.read s.ten.mem (extByteKey j.handle (4096 * (j.page.toNat + n))) 4096

end Sys2Proof.Claims

/-- R449, R451 to R459, R478: an event like the open record within its second is counted in it, and the events of one count
enter by unit and instance; the record closes a second after it opened. Where flash cannot be written the module stops. Pip commits FATAL records first, others at most 100 a second, a full area giving up its oldest that may go;
OP_SECONDS is checkpointed every 64 s; HOLD closes the open record and stops commits until it is cleared or 10 s pass;
REC_SEL reads a stored record with its CRC, or says it is absent or damaged. -/
def Obligations.EventRecords : Prop :=
  (∀ (e : Evt) (a : EvIn) (r : EvRec) (t : Nat),
    e.opened = some (r, t) → r.code = a.code → r.sev = a.sev → r.unit = a.unit → r.inst = BitVec.ofNat 8 a.inst → r.p0 = BitVec.ofNat 32 a.p0 →
    a.now < t + 25000000 → e.minSev ≤ a.sev → r.rep < 0xFFFE →
    e.enter a = { e with opened := some ({ r with rep := r.rep + 1 }, t) }) ∧
  (∀ (s : State) (a b : EvIn), s.evt.arrived = [a, b] →
    (let key := fun (x : EvIn) => 256 * x.unit.toNat + x.inst % 256
     let e : Evt := { s.evt with arrived := [] }
     (key a ≤ key b → s.enterEvents = { s with evt := (e.enter a).enter b }) ∧
     (key b < key a → s.enterEvents = { s with evt := (e.enter b).enter a }))) ∧
  (∀ (s : State) (r : EvRec) (t : Nat), s.evt.opened = some (r, t) → t + 25000000 ≤ s.now →
    exec .recordCloseTimer s = .next { s with evt := { s.evt with queue := s.evt.queue ++ [r], opened := none } }) ∧
  (∀ (s : State), s.power.standby = true → s.unitDown .pip 0 = false → s.power.flashBad = true →
    (s.evt.hold = none → s.evt.queue ≠ [] → exec .recordCommit s = .next s.flashStop) ∧
    (64 ≤ (s.evt.opSecs - s.evt.checkpoint.getD 0).toNat → exec .opSecondsCheckpoint s = .next s.flashStop)) ∧
  (∀ (s : State) (r : EvRec), s.power.standby = true → s.unitDown .pip 0 = false → s.power.flashBad = false → s.evt.hold = none →
    (s.evt.queue.find? (fun q => decide (q.sev = Sev.fatal)) = some r → exec .recordCommit s = .next { s with evt := { s.evt with
      queue := s.evt.queue.erase r
      fatal := (if s.evt.fatal.length < 32768 then s.evt.fatal else s.evt.fatal.drop 1) ++ [(r, false)] } }) ∧
    (∀ rest, s.evt.queue = r :: rest → (∀ q ∈ s.evt.queue, q.sev ≠ Sev.fatal) →
      (let at_ := s.evt.commitAt.filter (fun t => decide (s.now < t + 25000000))
       at_.length < 100 →
       (s.evt.gen.length < 2064384 → exec .recordCommit s = .next { s with evt := { s.evt with
         queue := rest, commitAt := at_ ++ [s.now], gen := s.evt.gen ++ [(r, false)] } }) ∧
       (2064384 ≤ s.evt.gen.length → (∀ q ∈ s.evt.gen, r.sev < q.1.sev) → exec .recordCommit s = .next { s with evt := { s.evt with
         queue := rest, commitAt := at_ ++ [s.now], lost := s.evt.lost + 1 } }) ∧
       (∀ a q b, 2064384 ≤ s.evt.gen.length → s.evt.gen = a ++ q :: b → (∀ x ∈ a, r.sev < x.1.sev) → q.1.sev ≤ r.sev →
         exec .recordCommit s = .next { s with evt := { s.evt with
           queue := rest, commitAt := at_ ++ [s.now], gen := a ++ b ++ [(r, false)] } })))) ∧
  (∀ (s : State), s.power.standby = true → s.unitDown .pip 0 = false → s.power.flashBad = false → 64 ≤ (s.evt.opSecs - s.evt.checkpoint.getD 0).toNat →
    exec .opSecondsCheckpoint s = .next { s with evt := { s.evt with checkpoint := some s.evt.opSecs } }) ∧
  (∀ (s : State) (v : Word), s.unitDown .pip 0 = false → s.regs.shadows = [⟨Blk.evt.num, 4, 0, v, 0x00010000⟩] →
    exec .evtHold s = .next { s with
      evt := if v.getLsbD 16 then { s.evt.close with hold := some s.now } else { s.evt with hold := none }
      regs := { s.regs with shadows := [] } }) ∧
  (∀ (s : State) (t : Nat), s.evt.hold = some t → exec .recordCommit s = .next s) ∧
  (∀ (s : State) (t : Nat), s.evt.hold = some t → t + 250000000 ≤ s.now → exec .holdExpiry s = .next { s with
    evt := ({ s.evt with hold := none } : Evt).raise s.now 0x0007 Sev.notice Uk.pip 0 0 0 0 }) ∧
  (∀ (s : State) (n : Word), s.unitDown .pip 0 = false →
    (∀ r, s.evt.stored n = some (r, false) → Reaches (.recSel n) s (fun t =>
      t = { s with evt := { s.evt with recSel := n, recState := 1, recData := t.evt.recData } } ∧
      t.evt.recData.setWidth 16 = r.code ∧ t.evt.recData.extractLsb' 16 8 = r.sev ++ r.unit ∧ t.evt.recData.extractLsb' 32 32 = r.seq ∧
      t.evt.recData.extractLsb' 64 32 = r.secs ∧ t.evt.recData.extractLsb' 112 16 = r.rep ∧ t.evt.recData.extractLsb' 128 32 = r.p0 ∧
      (t.evt.recData.extractLsb' 224 32).toNat = crc32c (leBytes 28 t.evt.recData.toNat) % 2 ^ 32)) ∧
    (∀ r, s.evt.stored n = some (r, true) → Reaches (.recSel n) s (fun t => t.evt.recSel = n ∧ t.evt.recState = 2 ∧ t.evt.gen = s.evt.gen)) ∧
    (s.evt.stored n = none → Reaches (.recSel n) s (fun t => t.evt.recSel = n ∧ t.evt.recState = 0 ∧ t.evt.gen = s.evt.gen)))

/-- R462 to R467, R469: values that name a PINNED extent of the channel's party start its journal with a START entry, other
values are refused with an event, EN 0 stops it; a full page goes to the next place of the ring and the header names the new
position. Replay mode is entered only PROVISIONED with every channel disabled, and accepts recorded descriptors in GO order.
Where the spec leaves it open, the model's choices are those of assumptions 98 and 99. -/
def Obligations.JournalAndReplay : Prop :=
  (∀ (ch : BitVec 10) (s : State) (h p n : Word), s.unitDown .pip 0 = false → s.evt.replay = false →
    (s.journal ch.toNat).active = false →
    (JrnWaits s ch.toNat true h p n → s.jrnOk ch.toNat h p n = true → Reaches (.journalEnable ch) s (fun t =>
      (let j := t.journal ch.toNat
       j.en = true ∧ j.active = true ∧ j.handle = h ∧ j.page = p ∧ j.pages = n ∧ j.start = s.clk.lcnt ∧ j.pos = 0 ∧ j.full = [] ∧
       j.jseq = (s.journal ch.toNat).jseq + 1 ∧ j.staged.length = 32 ∧ j.staged.take 1 = [1] ∧
       sliceBytes j.staged 16 8 = leBytes 8 s.chan.go) ∧ t.regs.shadows = [] ∧ t.ten = s.ten)) ∧
    (JrnWaits s ch.toNat true h p n → s.jrnOk ch.toNat h p n = false → Reaches (.journalEnable ch) s (fun t =>
      t.journal ch.toNat = s.journal ch.toNat ∧ t.evt.reject = true ∧ t.evt = { s.evt.raise s.now 0x0600 Sev.notice Uk.module 0 ch.toNat 3 0 with
        reject := true })) ∧
    (JrnWaits s ch.toNat false h p n → Reaches (.journalEnable ch) s (fun t => t.journal ch.toNat =
      { s.journal ch.toNat with en := false, handle := h, page := p, pages := n } ∧ t.chan = s.chan ∧ t.ten = s.ten))) ∧
  (∀ (ch : BitVec 10) (s : State) (h p n : Word), s.unitDown .pip 0 = false → s.evt.replay = false → (s.journal ch.toNat).active = true →
    JrnWaits s ch.toNat false h p n → Reaches (.journalEnable ch) s (fun t => (t.journal ch.toNat).active = false ∧
      (t.journal ch.toNat).stopped = true ∧ (t.journal ch.toNat).en = false ∧ (t.journal ch.toNat).bufs = 0)) ∧
  (∀ (ch : BitVec 10) (s : State) (page : Bytes) (rest : List Bytes), (s.journal ch.toNat).active = true →
    (s.journal ch.toNat).full = page :: rest → page.length = 4096 → 2 ≤ (s.journal ch.toNat).pages.toNat →
    s.readOnly (s.journal ch.toNat).handle = false →
    (let j := s.journal ch.toNat
     let k := j.pos / 128
     let n := j.pages.toNat - 1
     Reaches (.journalPageWrite ch) s (fun t => pageBytes t j (1 + k % n) = page ∧ sliceBytes (pageBytes t j 0) 0 4 = leBytes 4 0x524A585A ∧
       sliceBytes (pageBytes t j 0) 40 8 = leBytes 8 (j.pos + 128) ∧ (t.journal ch.toNat).pos = j.pos + 128 ∧
       (t.journal ch.toNat).full = rest ∧ (t.journal ch.toNat).staged = j.staged ∧
       (t.journal ch.toNat).wraps = j.wraps + (if k ≠ 0 ∧ k % n = 0 then 1 else 0) ∧
       (∀ m, 1 ≤ m → m ≤ n → m ≠ 1 + k % n → pageBytes t j m = pageBytes s j m)))) ∧
  (∀ (s : State) (on : Bool), s.unitDown .pip 0 = false → s.regs.shadows = [⟨Blk.evt.num, 0x74, 0, if on then 1 else 0, 1⟩] →
    (s.lcState ≠ some .provisioned ∨ (∃ c ∈ s.chan.chans, c.2.state ≠ .disabled) → exec .replayMode s = .next { s with
      evt := { s.evt with reject := true }, regs := { s.regs with shadows := [] } }) ∧
    (s.lcState = some .provisioned → (∀ c ∈ s.chan.chans, c.2.state = .disabled) →
      Reaches .replayMode s (fun t => t.evt.replay = on ∧ t.regs.shadows = [] ∧
        (on = true → t.evt.replayGo = 0 ∧ t.evt.replayBase = none ∧ t.evt.injected = []) ∧
        (on = false → ∀ c, (t.journal c).active = false) ∧
        (∀ c j, s.evt.journals = [(c, j)] → j.active = false → j.handle ≠ 0 → (t.journal c).active = on)))) ∧
  (∀ (ch : BitVec 10) (s : State) (e : Bytes), s.evt.replay = true → s.nextReplay = some e → fieldAt e 2 2 = ch.toNat →
    (s.ch ch.toNat).state = .running → s.unitDown .scanner 0 = false → s.active = true → s.chan.descs.length < 32768 →
    (let base := s.evt.replayBase.getD (s.now, fieldAt e 8 8)
     base.1 + (fieldAt e 8 8 - base.2) ≤ s.now →
     Reaches (.replayAccept ch) s (fun t => (∃ x, t.desc s.chan.next = some x ∧ x.chan = ch.toNat ∧ x.go = entryGo e ∧
         x.index = BitVec.ofNat 32 (fieldAt e 24 4) ∧ x.bits = BitVec.ofNat 512 (leNat (sliceBytes e 32 64))) ∧
       t.evt.replayGo = entryGo e + 1 ∧ t.evt.replayBase = some base ∧ (t.ch ch.toNat).sqHead = BitVec.ofNat 32 (fieldAt e 24 4) + 1)))
namespace Sys2Proof.Claims

open Sys2Proof.Machine

/-- With this one write in the shadows, applying its block leaves a state of which `P` holds and no write waiting. -/
def Applies (s : State) (b : Blk) (off inst : Nat) (v m : Word) (P : State → Prop) : Prop :=
  s.regs.shadows = [⟨b.num, off, inst, v, m⟩] →
    Reaches (.registerApply (BitVec.ofNat 4 b.num)) s (fun t => P t ∧ t.regs = { s.regs with shadows := [] })

end Sys2Proof.Claims

/-- R16, R18, R358, R494 to R505: a whole write of a host to a writable register of a reachable block joins its shadow, with the
instance then selected; a partial one raises an event, a read-only register drops it, a port whose BAR0 is closed answers
UR, and while the module sleeps the write is held and wakes it. A scratch write sets the bits its upper half names. An apply takes the pending write of each block, within the limits of its
field, and waits for the module to wake; a group's registers apply together once no REDUCE holds the group.
Where the spec leaves it open, the model's choices are those of assumptions 100, 103, 104, 105 and 106. -/
def Obligations.RegisterWrites : Prop :=
  (∀ (port : Nat) (addr : BitVec 24) (be : BitVec 4) (value : Word) (s : State) (b : Blk), (s.hport port).up = true → (s.hport port).d3hot = false →
    (s.active = false → exec (.registerWrite port addr be value) s = .next (State.wake
      { s with host := { s.host with asks := s.host.asks ++ [.write port addr be value] } } 0x02)) ∧
    (s.active = true → (s.hport port).regsOff = true → Reaches (.registerWrite port addr be value) s (fun t => (t.hport port).urSent = (s.hport port).urSent + 1 ∧
      t.chan.hostTx = s.chan.hostTx ++ [.ur port] ∧ t.regs = s.regs)) ∧
    (s.active = true → (s.hport port).regsOff = false → regBlock addr = some b → b.defines (regOff addr) = true → s.reachable b = true →
      (be ≠ 0xF → exec (.registerWrite port addr be value) s =
        .next (s.raise 0x0100 Sev.notice Uk.hostPort port addr.toNat be.toNat 0)) ∧
      (be = 0xF → s.regBits b (regOff addr) = 0 → exec (.registerWrite port addr be value) s = .next s) ∧
      (be = 0xF → s.regBits b (regOff addr) ≠ 0 →
        (let p : PendWrite := ⟨b.num, regOff addr, s.regInst b (regOff addr), value, s.regBits b (regOff addr)⟩
         exec (.registerWrite port addr be value) s = .next (s.addPend p) ∧
         ((∀ q ∈ s.regs.shadows, p.same q = false) → s.addPend p = { s with regs := { s.regs with shadows := s.regs.shadows ++ [p] } }))))) ∧
  (∀ (port : Nat) (n : BitVec 2) (value : Word) (s : State), (s.hport port).up = true → (s.hport port).regsOff = false →
    (s.hport port).d3hot = false → s.regs.shadows = [] → s.active = true →
    (∀ be, be ≠ 0xF → exec (.scratchWrite port n ⟨be, value⟩) s =
      .next (s.raise 0x0100 Sev.notice Uk.hostPort port (0x50 + 4 * n.toNat) be.toNat 0)) ∧
    Reaches (.scratchWrite port n ⟨0xF, value⟩) s (fun t =>
      (∀ i, i < 16 → (Table.get 0 t.regs.scratch n.toNat).getLsbD i =
        if value.getLsbD (16 + i) then value.getLsbD i else (Table.get 0 s.regs.scratch n.toNat).getLsbD i) ∧
      (∀ k, k ≠ n.toNat → Table.get 0 t.regs.scratch k = Table.get 0 s.regs.scratch k) ∧
      t = { s with regs := { s.regs with scratch := t.regs.scratch } })) ∧
  (∀ (s : State) (v : Word) (i : Nat), s.isReady = true → s.active = true → s.unitDown .pip 0 = false →
    Applies s .clk 0x14 0 v 0xFFFFFFFF (fun t => t = { s with clk := { s.clk with wakeAt := v }, regs := t.regs }) ∧
    Applies s .host 0x10 i v 0x00FFFFFF (fun t => (t.hport i).cplTo.toNat = max 2500 (v.toNat % 2 ^ 24) ∧ ∀ p, p ≠ i → t.hport p = s.hport p) ∧
    Applies s .chan 0x28 i v 0x00007FFF (fun t => (t.ch i).poll.toNat = max 25 (min 25000 (v.toNat % 2 ^ 15)) ∧ ∀ c, c ≠ i → t.ch c = s.ch c) ∧
    Applies s .chan 0x34 i v 0x0FFF0FFF (fun t =>
      if s.minSum - (s.ch i).xmin.toNat + v.toNat % 2 ^ 12 ≤ 2048 ∧ v.toNat % 2 ^ 12 ≤ v.toNat / 2 ^ 16 % 2 ^ 12 ∧ 1 ≤ v.toNat / 2 ^ 16 % 2 ^ 12
      then (t.ch i).xmin.toNat = v.toNat % 2 ^ 12 ∧ (t.ch i).xmax.toNat = v.toNat / 2 ^ 16 % 2 ^ 12
      else t = { s with chan := { s.chan with reject := true }, regs := t.regs }) ∧
    Applies s .qos 0x04 0 v 0x0000003F (fun t => t = { s with qos := { s.qos with classSel := v.setWidth 6 }, regs := t.regs }) ∧
    Applies s .tier 0x14 0 v 0x0000FFFF (fun t => t = { s with place := { s.place with hotThresh := v.setWidth 16 }, regs := t.regs }) ∧
    Applies s .comp 0x08 0 v 0x0000FFFF (fun t => t = { s with comp := { s.comp with tableSel := v.setWidth 16 }, regs := t.regs }) ∧
    Applies s .fab 0x40 0 v 0x00000007 (fun t => t.fab.tries.toNat = max 1 (min 4 (v.toNat % 8)) ∧
      t = { s with fab := { s.fab with tries := t.fab.tries }, regs := t.regs }) ∧
    Applies s .ten 0x3C 0 v 0xFFFFFFFF (fun t => t = { s with ten := { s.ten with extSel := v }, regs := t.regs }) ∧
    Applies s .rel 0x114 i v 0x000003FF (fun t => (t.stack i).mergeHold.toNat = max 16 (min 1023 (v.toNat % 2 ^ 10)) ∧
      ∀ n, n ≠ i → t.stack n = s.stack n) ∧
    Applies s .sec 0x18 0 v 0x000001FF (fun t => t = { s with sec := { s.sec with cmdBytes := v.setWidth 9 }, regs := t.regs }) ∧
    (s.sec.cmdBusy = false → v.getLsbD 0 = true → Applies s .sec 0x0C 0 v 0x00000031 (fun t => t = { s with regs := t.regs, sec := { s.sec with
      cmdPort := (v >>> 4).setWidth 2, cmdBusy := true, runBytes := s.sec.cmdBytes.toNat, runData := s.sec.dataBytes.toNat } })) ∧
    Applies s .evt 0x04 0 v 0x00000007 (fun t => t.evt.minSev.toNat = min 3 (v.toNat % 8) ∧
      t = { s with evt := { s.evt with minSev := t.evt.minSev }, regs := t.regs }) ∧
    Applies s .win 0x0C 0 v 0x00000007 (fun t => t = { s with host := { s.host with winSel := v.setWidth 3 }, regs := t.regs }) ∧
    Applies s .pod 0x04 0 v 0x003FFFFF (fun t => t.pods.quantum.toNat = max 2500 (min 2500000 (v.toNat % 2 ^ 22)) ∧
      t = { s with pods := { s.pods with quantum := t.pods.quantum }, regs := t.regs }) ∧
    Applies s .lch 0x04 0 v 0x000000FF (fun t => t = { s with clk := { s.clk with gateSel := v.setWidth 8 }, regs := t.regs })) ∧
  (∀ (s : State) (b : Blk), s.hasPend b = true → b.alwaysOn = false → s.active = false →
    exec (.registerApply (BitVec.ofNat 4 b.num)) s = .next (s.wake 0x40)) ∧
  (∀ (s : State) (g : Nat) (rank ctl : Word), s.isReady = true →
    s.regs.shadows = [⟨Blk.fab.num, 0x54, g, rank, 0xFFF⟩, ⟨Blk.fab.num, 0x50, g, ctl, 0x80FF1FFF⟩] →
    (s.groupBusy g = true → exec .groupConfigure s = .next s) ∧
    (s.groupBusy g = false → Reaches .groupConfigure s (fun t =>
      (let m := ctl.toNat % 2 ^ 13
       let x := Table.get {} t.fab.groups g
       x.rank = rank.setWidth 12 ∧ x.members.toNat = m ∧ x.party = (ctl >>> 16).setWidth 8 ∧
       x.valid = (ctl.getLsbD 31 && decide (2 ≤ m) && decide (m ≤ 4096)) ∧ x.k = 0 ∧ x.ready = []) ∧
      (∀ k, k ≠ g → Table.get {} t.fab.groups k = Table.get {} s.fab.groups k) ∧
      t = { s with fab := { s.fab with groups := t.fab.groups }, regs := { s.regs with shadows := [] } })))
end

