-- ==== Sys2Proof/Laws/Lanes.lean ====
section
/-! SUPPORT. Reading back vectors built lane by lane and tiles built row by row, and writing one row. -/

namespace Sys2Proof.Machine

/-- A bit of a vector built from `n` lanes is the bit of its lane. -/
theorem getLsbD_ofLanes (f : Nat → BitVec 32) (n b : Nat) (hn : n ≤ 16) :
    (ofLanes f n).getLsbD b = (decide (b < 32 * n) && (f (b / 32)).getLsbD (b % 32)) := by
  induction n with
  | zero => simp [ofLanes]
  | succ n ih =>
    rw [ofLanes, BitVec.getLsbD_or, ih (by omega), BitVec.getLsbD_shiftLeft, BitVec.getLsbD_setWidth]
    by_cases h : b < 32 * n
    · have h1 : b < 32 * (n + 1) := by omega
      simp [h, h1]
    · by_cases h1 : b < 32 * (n + 1)
      · have h2 : b / 32 = n := by omega
        have h3 : b - 32 * n = b % 32 := by omega
        have h4 : b < 512 := by omega
        have h5 : b % 32 < 512 := by omega
        simp [h, h1, h2, h3, h4, h5]
      · have h6 : 32 ≤ b - 32 * n := by omega
        have h7 : (f n).getLsbD (b - 32 * n) = false := BitVec.getLsbD_of_ge _ _ h6
        simp [h, h1, h7]

/-- Lane `k` of sixteen lanes. -/
@[simp] theorem lane_lanes (f : Nat → BitVec 32) (k : Nat) (hk : k < 16) : lane (lanes f) k = f k := by
  apply BitVec.eq_of_getLsbD_eq
  intro i hi
  rw [lane, lanes, BitVec.getLsbD_extractLsb', getLsbD_ofLanes f 16 _ (by decide)]
  have h1 : (32 * k + i) / 32 = k := by omega
  have h2 : (32 * k + i) % 32 = i := by omega
  have h3 : 32 * k + i < 512 := by omega
  simp [h1, h2, h3, hi]

/-- A bit of a tile built from `n` rows is the bit of its row. -/
theorem getLsbD_ofRows (f : Nat → BitVec 512) (n b : Nat) (hn : n ≤ 16) :
    (ofRows f n).getLsbD b = (decide (b < 512 * n) && (f (b / 512)).getLsbD (b % 512)) := by
  induction n with
  | zero => simp [ofRows]
  | succ n ih =>
    rw [ofRows, BitVec.getLsbD_or, ih (by omega), BitVec.getLsbD_shiftLeft, BitVec.getLsbD_setWidth]
    by_cases h : b < 512 * n
    · have h1 : b < 512 * (n + 1) := by omega
      simp [h, h1]
    · by_cases h1 : b < 512 * (n + 1)
      · have h2 : b / 512 = n := by omega
        have h3 : b - 512 * n = b % 512 := by omega
        have h4 : b < 8192 := by omega
        have h5 : b % 512 < 8192 := by omega
        simp [h, h1, h2, h3, h4, h5]
      · have h6 : 512 ≤ b - 512 * n := by omega
        have h7 : (f n).getLsbD (b - 512 * n) = false := BitVec.getLsbD_of_ge _ _ h6
        simp [h, h1, h7]

/-- Row `r` of a tile of sixteen rows. -/
@[simp] theorem tileRow_ofRows (f : Nat → BitVec 512) (r : Nat) (hr : r < 16) : tileRow (ofRows f 16) r = f r := by
  apply BitVec.eq_of_getLsbD_eq
  intro i hi
  rw [tileRow, BitVec.getLsbD_extractLsb', getLsbD_ofRows f 16 _ (by decide)]
  have h1 : (512 * r + i) / 512 = r := by omega
  have h2 : (512 * r + i) % 512 = i := by omega
  have h3 : 512 * r + i < 8192 := by omega
  simp [h1, h2, h3, hi]

end Sys2Proof.Machine
end

