-- ==== Sys2Proof/Laws/Map.lean ====
section
/-! SUPPORT. Laws of the sparse tables and byte stores: what a read finds after a write, and that every
operation keeps the canonical form. -/

namespace Sys2Proof

variable {α : Type}

/-! ## Lookup -/

@[simp] theorem Table.find_nil (k : Nat) : Table.find ([] : Table α) k = none := rfl
@[simp] theorem Table.get_nil (d : α) (k : Nat) : Table.get d [] k = d := rfl

theorem Table.get_eq (d : α) (m : Table α) (k : Nat) : Table.get d m k = (Table.find m k).getD d := by
  unfold Table.get; cases Table.find m k <;> rfl

/-- A lookup after listing `v` at `k` finds `v` there and what was listed everywhere else. -/
theorem Table.find_set (m : Table α) (k j : Nat) (v : α) :
    Table.find (Table.set m k v) j = if j = k then some v else Table.find m j := by
  induction m with
  | nil => simp [Table.set, Table.find, eq_comm (a := j)]
  | cons e r ih =>
    by_cases lo : e.1 < k
    · by_cases here : e.1 = j
      · simp only [Table.set, if_pos lo, Table.find, if_pos here, if_neg (show j ≠ k by omega)]
      · simp [Table.set, Table.find, lo, here, ih]
    · by_cases h : j = k
      · simp [Table.set, Table.find, lo, h]
      · by_cases eq : e.1 = k <;> simp [Table.set, Table.find, lo, eq, h, Ne.symm h]

@[simp] theorem Table.find_set_same (m : Table α) (k : Nat) (v : α) : Table.find (Table.set m k v) k = some v := by
  simp [Table.find_set]

theorem Table.find_set_other (m : Table α) {k j : Nat} (v : α) (h : j ≠ k) :
    Table.find (Table.set m k v) j = Table.find m j := by simp [Table.find_set, h]

/-- A lookup after unlisting `k` finds nothing there and what was listed everywhere else. -/
theorem Table.find_del (m : Table α) (k j : Nat) :
    Table.find (Table.del m k) j = if j = k then none else Table.find m j := by
  unfold Table.del
  induction m with
  | nil => simp [Table.find]
  | cons e r ih =>
    by_cases gone : e.1 = k <;> by_cases here : e.1 = j <;> simp_all [Table.find]
    all_goals (try omega)

@[simp] theorem Table.find_del_same (m : Table α) (k : Nat) : Table.find (Table.del m k) k = none := by
  simp [Table.find_del]

theorem Table.find_del_other (m : Table α) {k j : Nat} (h : j ≠ k) : Table.find (Table.del m k) j = Table.find m j := by
  simp [Table.find_del, h]

/-- A read of the key written gives the value written, also where it is the default. -/
@[simp] theorem Table.get_put_same [DecidableEq α] (d : α) (m : Table α) (k : Nat) (v : α) :
    Table.get d (Table.put d m k v) k = v := by
  unfold Table.put; split <;> simp_all [Table.get_eq]

/-- A write leaves every other key alone. -/
theorem Table.get_put_other [DecidableEq α] (d : α) (m : Table α) {k j : Nat} (v : α) (h : j ≠ k) :
    Table.get d (Table.put d m k v) j = Table.get d m j := by
  unfold Table.put; split <;> simp [Table.get_eq, Table.find_set_other, Table.find_del_other, h]

/-! ## The canonical form -/

theorem Table.risingFrom_cons (k : Nat) (e : Nat × α) (r : Table α) :
    Table.risingFrom k (e :: r) = true ↔ k < e.1 ∧ Table.risingFrom e.1 r = true := by simp [Table.risingFrom]

theorem Table.risingFrom_mono {k j : Nat} (m : Table α) (h : j ≤ k) (hm : Table.risingFrom k m = true) :
    Table.risingFrom j m = true := by
  cases m with
  | nil => rfl
  | cons e r =>
    rw [Table.risingFrom_cons] at hm ⊢
    exact ⟨Nat.lt_of_le_of_lt h hm.1, hm.2⟩

/-- Keys above `j` stay above `j`, in rising order. -/
theorem Table.risingFrom_set (m : Table α) {j k : Nat} (v : α) (hj : j < k) (hm : Table.risingFrom j m = true) :
    Table.risingFrom j (Table.set m k v) = true := by
  induction m generalizing j with
  | nil => simp [Table.set, Table.risingFrom, hj]
  | cons e r ih =>
    rw [Table.risingFrom_cons] at hm
    by_cases lo : e.1 < k
    · simpa [Table.set, lo, Table.risingFrom_cons, hm.1] using ih lo hm.2
    · by_cases eq : e.1 = k
      · simpa [Table.set, eq, Table.risingFrom_cons, hj] using eq ▸ hm.2
      · simpa [Table.set, lo, eq, Table.risingFrom_cons, hj, hm.2] using (by omega : k < e.1)

theorem Table.rising_set (m : Table α) (k : Nat) (v : α) (hm : Table.rising m = true) :
    Table.rising (Table.set m k v) = true := by
  cases m with
  | nil => rfl
  | cons e r =>
    by_cases lo : e.1 < k
    · simpa [Table.set, lo, Table.rising] using Table.risingFrom_set r v lo hm
    · by_cases eq : e.1 = k
      · simpa [Table.set, eq, Table.rising] using eq ▸ hm
      · have up : k < e.1 := by omega
        simpa [Table.set, lo, eq, Table.rising, Table.risingFrom_cons, up] using hm

theorem Table.risingFrom_filter (m : Table α) (p : Nat × α → Bool) {j : Nat} (hm : Table.risingFrom j m = true) :
    Table.risingFrom j (m.filter p) = true := by
  induction m generalizing j with
  | nil => rfl
  | cons e r ih =>
    rw [Table.risingFrom_cons] at hm
    cases kept : p e with
    | true => rw [List.filter_cons_of_pos kept, Table.risingFrom_cons]; exact ⟨hm.1, ih hm.2⟩
    | false =>
      rw [List.filter_cons_of_neg (by simp [kept])]
      exact Table.risingFrom_mono _ (Nat.le_of_lt hm.1) (ih hm.2)

theorem Table.rising_of_from {j : Nat} {m : Table α} (h : Table.risingFrom j m = true) : Table.rising m = true := by
  cases m with
  | nil => rfl
  | cons e r => exact ((Table.risingFrom_cons j e r).mp h).2

theorem Table.rising_filter (m : Table α) (p : Nat × α → Bool) (hm : Table.rising m = true) :
    Table.rising (m.filter p) = true := by
  cases m with
  | nil => rfl
  | cons e r =>
    have tail := Table.risingFrom_filter r p hm
    cases kept : p e with
    | true => rw [List.filter_cons_of_pos kept]; exact tail
    | false => rw [List.filter_cons_of_neg (by simp [kept])]; exact Table.rising_of_from tail

/-- An entry after a write is the one written, or was listed before. -/
theorem Table.mem_set (m : Table α) (k : Nat) (v : α) (e : Nat × α) (h : e ∈ Table.set m k v) :
    e = (k, v) ∨ e ∈ m := by
  induction m with
  | nil => simpa [Table.set] using h
  | cons a r ih =>
    by_cases lo : a.1 < k
    · rcases (by simpa [Table.set, lo] using h : e = a ∨ e ∈ Table.set r k v) with old | tail
      · exact .inr (by simp [old])
      · exact (ih tail).imp_right (List.mem_cons_of_mem a)
    · by_cases eq : a.1 = k
      · exact (by simpa [Table.set, eq] using h : e = (k, v) ∨ e ∈ r).imp_right (List.mem_cons_of_mem a)
      · simpa [Table.set, lo, eq] using h

/-- Every write keeps the canonical form. -/
theorem Table.wf_put [DecidableEq α] (d : α) (m : Table α) (k : Nat) (v : α) (hm : Table.wf d m = true) :
    Table.wf d (Table.put d m k v) = true := by
  simp only [Table.wf, Bool.and_eq_true, List.all_eq_true, decide_eq_true_eq] at hm ⊢
  unfold Table.put
  split
  · exact ⟨Table.rising_filter m _ hm.1, fun e he => hm.2 e ((List.mem_filter.mp he).1)⟩
  · refine ⟨Table.rising_set m k v hm.1, fun e he => ?_⟩
    rcases Table.mem_set m k v e he with h | h
    · subst h; assumption
    · exact hm.2 e h

/-- Dropping entries keeps it. -/
theorem Table.wf_filter [DecidableEq α] (d : α) (m : Table α) (p : Nat × α → Bool) (hm : Table.wf d m = true) :
    Table.wf d (m.filter p) = true := by
  simp only [Table.wf, Bool.and_eq_true, List.all_eq_true, decide_eq_true_eq] at hm ⊢
  exact ⟨Table.rising_filter m p hm.1, fun e he => hm.2 e ((List.mem_filter.mp he).1)⟩

/-! ## Byte stores -/

@[simp] theorem Store.byte_setByte_same (m : Table Byte) (a : Nat) (b : Byte) : Store.byte (Store.setByte m a b) a = b := by
  simp [Store.byte, Store.setByte]

theorem Store.byte_setByte_other (m : Table Byte) {a j : Nat} (b : Byte) (h : j ≠ a) :
    Store.byte (Store.setByte m a b) j = Store.byte m j := Table.get_put_other 0 m b h

/-- A write of a run leaves the bytes outside it alone. -/
theorem Store.byte_write_other (m : Table Byte) (a : Nat) (bs : Bytes) {j : Nat} (h : j < a ∨ a + bs.length ≤ j) :
    Store.byte (Store.write m a bs) j = Store.byte m j := by
  induction bs generalizing m a with
  | nil => rfl
  | cons b r ih =>
    simp only [List.length_cons] at h
    rw [Store.write, ih (Store.setByte m a b) (a + 1) (by omega)]
    exact Store.byte_setByte_other m b (by omega)

/-- A read within a written run gives the byte written. -/
theorem Store.byte_write_same (m : Table Byte) (a : Nat) (bs : Bytes) (i : Nat) (h : i < bs.length) :
    Store.byte (Store.write m a bs) (a + i) = bs.getD i 0 := by
  induction bs generalizing m a i with
  | nil => simp at h
  | cons b r ih =>
    cases i with
    | zero => rw [Store.write, Store.byte_write_other _ _ _ (by omega)]; simp
    | succ i =>
      have := ih (Store.setByte m a b) (a + 1) i (by simpa using h)
      rw [Store.write, show a + (i + 1) = a + 1 + i by omega, this]; simp

theorem Store.wf_write (m : Table Byte) (a : Nat) (bs : Bytes) (hm : Table.wf 0 m = true) :
    Table.wf 0 (Store.write m a bs) = true := by
  induction bs generalizing m a with
  | nil => exact hm
  | cons b r ih => exact ih (Store.setByte m a b) (a + 1) (Table.wf_put 0 m a b hm)

theorem Store.wf_clear (m : Table Byte) (a n : Nat) (hm : Table.wf 0 m = true) :
    Table.wf 0 (Store.clear m a n) = true := Table.wf_filter 0 m _ hm

end Sys2Proof
end

