-- ==== Sys2Proof/Laws/State.lean ====
section
/-! SUPPORT. Laws of the state's updates: each setter changes its own part of the state and no other, and a
read of the entry just written finds it. -/

namespace Sys2Proof.Machine

/-! ## Each setter leaves the other parts alone -/

/-! ### setCore -/

@[simp] theorem State.setCore_variant (s : State) (c : Nat) (x : Core) : (s.setCore c x).variant = s.variant := rfl
@[simp] theorem State.setCore_place (s : State) (c : Nat) (x : Core) : (s.setCore c x).place = s.place := rfl
@[simp] theorem State.setCore_comp (s : State) (c : Nat) (x : Core) : (s.setCore c x).comp = s.comp := rfl
@[simp] theorem State.setCore_chan (s : State) (c : Nat) (x : Core) : (s.setCore c x).chan = s.chan := rfl
@[simp] theorem State.setCore_clk (s : State) (c : Nat) (x : Core) : (s.setCore c x).clk = s.clk := rfl
@[simp] theorem State.setCore_qos (s : State) (c : Nat) (x : Core) : (s.setCore c x).qos = s.qos := rfl
@[simp] theorem State.setCore_ten (s : State) (c : Nat) (x : Core) : (s.setCore c x).ten = s.ten := rfl
@[simp] theorem State.setCore_fab (s : State) (c : Nat) (x : Core) : (s.setCore c x).fab = s.fab := rfl
@[simp] theorem State.setCore_host (s : State) (c : Nat) (x : Core) : (s.setCore c x).host = s.host := rfl
@[simp] theorem State.setCore_rel (s : State) (c : Nat) (x : Core) : (s.setCore c x).rel = s.rel := rfl
@[simp] theorem State.setCore_sec (s : State) (c : Nat) (x : Core) : (s.setCore c x).sec = s.sec := rfl
@[simp] theorem State.setCore_evt (s : State) (c : Nat) (x : Core) : (s.setCore c x).evt = s.evt := rfl
@[simp] theorem State.setCore_power (s : State) (c : Nat) (x : Core) : (s.setCore c x).power = s.power := rfl
@[simp] theorem State.setCore_regs (s : State) (c : Nat) (x : Core) : (s.setCore c x).regs = s.regs := rfl
@[simp] theorem State.setCore_free (s : State) (c : Nat) (x : Core) : (s.setCore c x).free = s.free := rfl
@[simp] theorem State.setCore_pending (s : State) (c : Nat) (x : Core) : (s.setCore c x).pending = s.pending := rfl

/-! ### setPod -/

@[simp] theorem State.setPod_variant (s : State) (p : Nat) (x : Pod) : (s.setPod p x).variant = s.variant := rfl
@[simp] theorem State.setPod_place (s : State) (p : Nat) (x : Pod) : (s.setPod p x).place = s.place := rfl
@[simp] theorem State.setPod_comp (s : State) (p : Nat) (x : Pod) : (s.setPod p x).comp = s.comp := rfl
@[simp] theorem State.setPod_chan (s : State) (p : Nat) (x : Pod) : (s.setPod p x).chan = s.chan := rfl
@[simp] theorem State.setPod_clk (s : State) (p : Nat) (x : Pod) : (s.setPod p x).clk = s.clk := rfl
@[simp] theorem State.setPod_qos (s : State) (p : Nat) (x : Pod) : (s.setPod p x).qos = s.qos := rfl
@[simp] theorem State.setPod_ten (s : State) (p : Nat) (x : Pod) : (s.setPod p x).ten = s.ten := rfl
@[simp] theorem State.setPod_fab (s : State) (p : Nat) (x : Pod) : (s.setPod p x).fab = s.fab := rfl
@[simp] theorem State.setPod_host (s : State) (p : Nat) (x : Pod) : (s.setPod p x).host = s.host := rfl
@[simp] theorem State.setPod_rel (s : State) (p : Nat) (x : Pod) : (s.setPod p x).rel = s.rel := rfl
@[simp] theorem State.setPod_sec (s : State) (p : Nat) (x : Pod) : (s.setPod p x).sec = s.sec := rfl
@[simp] theorem State.setPod_evt (s : State) (p : Nat) (x : Pod) : (s.setPod p x).evt = s.evt := rfl
@[simp] theorem State.setPod_power (s : State) (p : Nat) (x : Pod) : (s.setPod p x).power = s.power := rfl
@[simp] theorem State.setPod_regs (s : State) (p : Nat) (x : Pod) : (s.setPod p x).regs = s.regs := rfl
@[simp] theorem State.setPod_free (s : State) (p : Nat) (x : Pod) : (s.setPod p x).free = s.free := rfl
@[simp] theorem State.setPod_pending (s : State) (p : Nat) (x : Pod) : (s.setPod p x).pending = s.pending := rfl

/-! ### modProg -/

@[simp] theorem State.modProg_variant (s : State) (k : Nat) (f : Program → Program) : (s.modProg k f).variant = s.variant := rfl
@[simp] theorem State.modProg_place (s : State) (k : Nat) (f : Program → Program) : (s.modProg k f).place = s.place := rfl
@[simp] theorem State.modProg_comp (s : State) (k : Nat) (f : Program → Program) : (s.modProg k f).comp = s.comp := rfl
@[simp] theorem State.modProg_chan (s : State) (k : Nat) (f : Program → Program) : (s.modProg k f).chan = s.chan := rfl
@[simp] theorem State.modProg_clk (s : State) (k : Nat) (f : Program → Program) : (s.modProg k f).clk = s.clk := rfl
@[simp] theorem State.modProg_qos (s : State) (k : Nat) (f : Program → Program) : (s.modProg k f).qos = s.qos := rfl
@[simp] theorem State.modProg_ten (s : State) (k : Nat) (f : Program → Program) : (s.modProg k f).ten = s.ten := rfl
@[simp] theorem State.modProg_fab (s : State) (k : Nat) (f : Program → Program) : (s.modProg k f).fab = s.fab := rfl
@[simp] theorem State.modProg_host (s : State) (k : Nat) (f : Program → Program) : (s.modProg k f).host = s.host := rfl
@[simp] theorem State.modProg_rel (s : State) (k : Nat) (f : Program → Program) : (s.modProg k f).rel = s.rel := rfl
@[simp] theorem State.modProg_sec (s : State) (k : Nat) (f : Program → Program) : (s.modProg k f).sec = s.sec := rfl
@[simp] theorem State.modProg_evt (s : State) (k : Nat) (f : Program → Program) : (s.modProg k f).evt = s.evt := rfl
@[simp] theorem State.modProg_power (s : State) (k : Nat) (f : Program → Program) : (s.modProg k f).power = s.power := rfl
@[simp] theorem State.modProg_regs (s : State) (k : Nat) (f : Program → Program) : (s.modProg k f).regs = s.regs := rfl
@[simp] theorem State.modProg_free (s : State) (k : Nat) (f : Program → Program) : (s.modProg k f).free = s.free := rfl
@[simp] theorem State.modProg_pending (s : State) (k : Nat) (f : Program → Program) : (s.modProg k f).pending = s.pending := rfl

/-! ### setCh -/

@[simp] theorem State.setCh_variant (s : State) (n : Nat) (x : Chan) : (s.setCh n x).variant = s.variant := rfl
@[simp] theorem State.setCh_place (s : State) (n : Nat) (x : Chan) : (s.setCh n x).place = s.place := rfl
@[simp] theorem State.setCh_comp (s : State) (n : Nat) (x : Chan) : (s.setCh n x).comp = s.comp := rfl
@[simp] theorem State.setCh_pods (s : State) (n : Nat) (x : Chan) : (s.setCh n x).pods = s.pods := rfl
@[simp] theorem State.setCh_clk (s : State) (n : Nat) (x : Chan) : (s.setCh n x).clk = s.clk := rfl
@[simp] theorem State.setCh_qos (s : State) (n : Nat) (x : Chan) : (s.setCh n x).qos = s.qos := rfl
@[simp] theorem State.setCh_ten (s : State) (n : Nat) (x : Chan) : (s.setCh n x).ten = s.ten := rfl
@[simp] theorem State.setCh_fab (s : State) (n : Nat) (x : Chan) : (s.setCh n x).fab = s.fab := rfl
@[simp] theorem State.setCh_host (s : State) (n : Nat) (x : Chan) : (s.setCh n x).host = s.host := rfl
@[simp] theorem State.setCh_rel (s : State) (n : Nat) (x : Chan) : (s.setCh n x).rel = s.rel := rfl
@[simp] theorem State.setCh_sec (s : State) (n : Nat) (x : Chan) : (s.setCh n x).sec = s.sec := rfl
@[simp] theorem State.setCh_evt (s : State) (n : Nat) (x : Chan) : (s.setCh n x).evt = s.evt := rfl
@[simp] theorem State.setCh_power (s : State) (n : Nat) (x : Chan) : (s.setCh n x).power = s.power := rfl
@[simp] theorem State.setCh_regs (s : State) (n : Nat) (x : Chan) : (s.setCh n x).regs = s.regs := rfl
@[simp] theorem State.setCh_free (s : State) (n : Nat) (x : Chan) : (s.setCh n x).free = s.free := rfl
@[simp] theorem State.setCh_pending (s : State) (n : Nat) (x : Chan) : (s.setCh n x).pending = s.pending := rfl

/-! ### setDesc -/

@[simp] theorem State.setDesc_variant (s : State) (d : Nat) (x : Desc) : (s.setDesc d x).variant = s.variant := rfl
@[simp] theorem State.setDesc_place (s : State) (d : Nat) (x : Desc) : (s.setDesc d x).place = s.place := rfl
@[simp] theorem State.setDesc_comp (s : State) (d : Nat) (x : Desc) : (s.setDesc d x).comp = s.comp := rfl
@[simp] theorem State.setDesc_pods (s : State) (d : Nat) (x : Desc) : (s.setDesc d x).pods = s.pods := rfl
@[simp] theorem State.setDesc_clk (s : State) (d : Nat) (x : Desc) : (s.setDesc d x).clk = s.clk := rfl
@[simp] theorem State.setDesc_qos (s : State) (d : Nat) (x : Desc) : (s.setDesc d x).qos = s.qos := rfl
@[simp] theorem State.setDesc_ten (s : State) (d : Nat) (x : Desc) : (s.setDesc d x).ten = s.ten := rfl
@[simp] theorem State.setDesc_fab (s : State) (d : Nat) (x : Desc) : (s.setDesc d x).fab = s.fab := rfl
@[simp] theorem State.setDesc_host (s : State) (d : Nat) (x : Desc) : (s.setDesc d x).host = s.host := rfl
@[simp] theorem State.setDesc_rel (s : State) (d : Nat) (x : Desc) : (s.setDesc d x).rel = s.rel := rfl
@[simp] theorem State.setDesc_sec (s : State) (d : Nat) (x : Desc) : (s.setDesc d x).sec = s.sec := rfl
@[simp] theorem State.setDesc_evt (s : State) (d : Nat) (x : Desc) : (s.setDesc d x).evt = s.evt := rfl
@[simp] theorem State.setDesc_power (s : State) (d : Nat) (x : Desc) : (s.setDesc d x).power = s.power := rfl
@[simp] theorem State.setDesc_regs (s : State) (d : Nat) (x : Desc) : (s.setDesc d x).regs = s.regs := rfl
@[simp] theorem State.setDesc_free (s : State) (d : Nat) (x : Desc) : (s.setDesc d x).free = s.free := rfl
@[simp] theorem State.setDesc_pending (s : State) (d : Nat) (x : Desc) : (s.setDesc d x).pending = s.pending := rfl

/-! ### modDesc -/

@[simp] theorem State.modDesc_variant (s : State) (d : Nat) (f : Desc → Desc) : (s.modDesc d f).variant = s.variant := rfl
@[simp] theorem State.modDesc_place (s : State) (d : Nat) (f : Desc → Desc) : (s.modDesc d f).place = s.place := rfl
@[simp] theorem State.modDesc_comp (s : State) (d : Nat) (f : Desc → Desc) : (s.modDesc d f).comp = s.comp := rfl
@[simp] theorem State.modDesc_pods (s : State) (d : Nat) (f : Desc → Desc) : (s.modDesc d f).pods = s.pods := rfl
@[simp] theorem State.modDesc_clk (s : State) (d : Nat) (f : Desc → Desc) : (s.modDesc d f).clk = s.clk := rfl
@[simp] theorem State.modDesc_qos (s : State) (d : Nat) (f : Desc → Desc) : (s.modDesc d f).qos = s.qos := rfl
@[simp] theorem State.modDesc_ten (s : State) (d : Nat) (f : Desc → Desc) : (s.modDesc d f).ten = s.ten := rfl
@[simp] theorem State.modDesc_fab (s : State) (d : Nat) (f : Desc → Desc) : (s.modDesc d f).fab = s.fab := rfl
@[simp] theorem State.modDesc_host (s : State) (d : Nat) (f : Desc → Desc) : (s.modDesc d f).host = s.host := rfl
@[simp] theorem State.modDesc_rel (s : State) (d : Nat) (f : Desc → Desc) : (s.modDesc d f).rel = s.rel := rfl
@[simp] theorem State.modDesc_sec (s : State) (d : Nat) (f : Desc → Desc) : (s.modDesc d f).sec = s.sec := rfl
@[simp] theorem State.modDesc_evt (s : State) (d : Nat) (f : Desc → Desc) : (s.modDesc d f).evt = s.evt := rfl
@[simp] theorem State.modDesc_power (s : State) (d : Nat) (f : Desc → Desc) : (s.modDesc d f).power = s.power := rfl
@[simp] theorem State.modDesc_regs (s : State) (d : Nat) (f : Desc → Desc) : (s.modDesc d f).regs = s.regs := rfl
@[simp] theorem State.modDesc_free (s : State) (d : Nat) (f : Desc → Desc) : (s.modDesc d f).free = s.free := rfl
@[simp] theorem State.modDesc_pending (s : State) (d : Nat) (f : Desc → Desc) : (s.modDesc d f).pending = s.pending := rfl

/-! ### send -/

@[simp] theorem State.send_variant (s : State) (x : HostTx) : (s.send x).variant = s.variant := rfl
@[simp] theorem State.send_place (s : State) (x : HostTx) : (s.send x).place = s.place := rfl
@[simp] theorem State.send_comp (s : State) (x : HostTx) : (s.send x).comp = s.comp := rfl
@[simp] theorem State.send_pods (s : State) (x : HostTx) : (s.send x).pods = s.pods := rfl
@[simp] theorem State.send_clk (s : State) (x : HostTx) : (s.send x).clk = s.clk := rfl
@[simp] theorem State.send_qos (s : State) (x : HostTx) : (s.send x).qos = s.qos := rfl
@[simp] theorem State.send_ten (s : State) (x : HostTx) : (s.send x).ten = s.ten := rfl
@[simp] theorem State.send_fab (s : State) (x : HostTx) : (s.send x).fab = s.fab := rfl
@[simp] theorem State.send_host (s : State) (x : HostTx) : (s.send x).host = s.host := rfl
@[simp] theorem State.send_rel (s : State) (x : HostTx) : (s.send x).rel = s.rel := rfl
@[simp] theorem State.send_sec (s : State) (x : HostTx) : (s.send x).sec = s.sec := rfl
@[simp] theorem State.send_evt (s : State) (x : HostTx) : (s.send x).evt = s.evt := rfl
@[simp] theorem State.send_power (s : State) (x : HostTx) : (s.send x).power = s.power := rfl
@[simp] theorem State.send_regs (s : State) (x : HostTx) : (s.send x).regs = s.regs := rfl
@[simp] theorem State.send_free (s : State) (x : HostTx) : (s.send x).free = s.free := rfl
@[simp] theorem State.send_pending (s : State) (x : HostTx) : (s.send x).pending = s.pending := rfl

/-! ### modTable -/

@[simp] theorem State.modTable_variant (s : State) (i : BitVec 16) (f : TableEnt → TableEnt) : (s.modTable i f).variant = s.variant := rfl
@[simp] theorem State.modTable_place (s : State) (i : BitVec 16) (f : TableEnt → TableEnt) : (s.modTable i f).place = s.place := rfl
@[simp] theorem State.modTable_pods (s : State) (i : BitVec 16) (f : TableEnt → TableEnt) : (s.modTable i f).pods = s.pods := rfl
@[simp] theorem State.modTable_chan (s : State) (i : BitVec 16) (f : TableEnt → TableEnt) : (s.modTable i f).chan = s.chan := rfl
@[simp] theorem State.modTable_clk (s : State) (i : BitVec 16) (f : TableEnt → TableEnt) : (s.modTable i f).clk = s.clk := rfl
@[simp] theorem State.modTable_qos (s : State) (i : BitVec 16) (f : TableEnt → TableEnt) : (s.modTable i f).qos = s.qos := rfl
@[simp] theorem State.modTable_ten (s : State) (i : BitVec 16) (f : TableEnt → TableEnt) : (s.modTable i f).ten = s.ten := rfl
@[simp] theorem State.modTable_fab (s : State) (i : BitVec 16) (f : TableEnt → TableEnt) : (s.modTable i f).fab = s.fab := rfl
@[simp] theorem State.modTable_host (s : State) (i : BitVec 16) (f : TableEnt → TableEnt) : (s.modTable i f).host = s.host := rfl
@[simp] theorem State.modTable_rel (s : State) (i : BitVec 16) (f : TableEnt → TableEnt) : (s.modTable i f).rel = s.rel := rfl
@[simp] theorem State.modTable_sec (s : State) (i : BitVec 16) (f : TableEnt → TableEnt) : (s.modTable i f).sec = s.sec := rfl
@[simp] theorem State.modTable_evt (s : State) (i : BitVec 16) (f : TableEnt → TableEnt) : (s.modTable i f).evt = s.evt := rfl
@[simp] theorem State.modTable_power (s : State) (i : BitVec 16) (f : TableEnt → TableEnt) : (s.modTable i f).power = s.power := rfl
@[simp] theorem State.modTable_regs (s : State) (i : BitVec 16) (f : TableEnt → TableEnt) : (s.modTable i f).regs = s.regs := rfl
@[simp] theorem State.modTable_free (s : State) (i : BitVec 16) (f : TableEnt → TableEnt) : (s.modTable i f).free = s.free := rfl
@[simp] theorem State.modTable_pending (s : State) (i : BitVec 16) (f : TableEnt → TableEnt) : (s.modTable i f).pending = s.pending := rfl

/-! ### setBank -/

@[simp] theorem State.setBank_variant (s : State) (b : Nat) (x : Bank) : (s.setBank b x).variant = s.variant := rfl
@[simp] theorem State.setBank_place (s : State) (b : Nat) (x : Bank) : (s.setBank b x).place = s.place := rfl
@[simp] theorem State.setBank_pods (s : State) (b : Nat) (x : Bank) : (s.setBank b x).pods = s.pods := rfl
@[simp] theorem State.setBank_chan (s : State) (b : Nat) (x : Bank) : (s.setBank b x).chan = s.chan := rfl
@[simp] theorem State.setBank_clk (s : State) (b : Nat) (x : Bank) : (s.setBank b x).clk = s.clk := rfl
@[simp] theorem State.setBank_qos (s : State) (b : Nat) (x : Bank) : (s.setBank b x).qos = s.qos := rfl
@[simp] theorem State.setBank_ten (s : State) (b : Nat) (x : Bank) : (s.setBank b x).ten = s.ten := rfl
@[simp] theorem State.setBank_fab (s : State) (b : Nat) (x : Bank) : (s.setBank b x).fab = s.fab := rfl
@[simp] theorem State.setBank_host (s : State) (b : Nat) (x : Bank) : (s.setBank b x).host = s.host := rfl
@[simp] theorem State.setBank_rel (s : State) (b : Nat) (x : Bank) : (s.setBank b x).rel = s.rel := rfl
@[simp] theorem State.setBank_sec (s : State) (b : Nat) (x : Bank) : (s.setBank b x).sec = s.sec := rfl
@[simp] theorem State.setBank_evt (s : State) (b : Nat) (x : Bank) : (s.setBank b x).evt = s.evt := rfl
@[simp] theorem State.setBank_power (s : State) (b : Nat) (x : Bank) : (s.setBank b x).power = s.power := rfl
@[simp] theorem State.setBank_regs (s : State) (b : Nat) (x : Bank) : (s.setBank b x).regs = s.regs := rfl
@[simp] theorem State.setBank_free (s : State) (b : Nat) (x : Bank) : (s.setBank b x).free = s.free := rfl
@[simp] theorem State.setBank_pending (s : State) (b : Nat) (x : Bank) : (s.setBank b x).pending = s.pending := rfl

/-! ### setHctx -/

@[simp] theorem State.setHctx_variant (s : State) (n : Nat) (x : Hctx) : (s.setHctx n x).variant = s.variant := rfl
@[simp] theorem State.setHctx_place (s : State) (n : Nat) (x : Hctx) : (s.setHctx n x).place = s.place := rfl
@[simp] theorem State.setHctx_pods (s : State) (n : Nat) (x : Hctx) : (s.setHctx n x).pods = s.pods := rfl
@[simp] theorem State.setHctx_chan (s : State) (n : Nat) (x : Hctx) : (s.setHctx n x).chan = s.chan := rfl
@[simp] theorem State.setHctx_clk (s : State) (n : Nat) (x : Hctx) : (s.setHctx n x).clk = s.clk := rfl
@[simp] theorem State.setHctx_qos (s : State) (n : Nat) (x : Hctx) : (s.setHctx n x).qos = s.qos := rfl
@[simp] theorem State.setHctx_ten (s : State) (n : Nat) (x : Hctx) : (s.setHctx n x).ten = s.ten := rfl
@[simp] theorem State.setHctx_fab (s : State) (n : Nat) (x : Hctx) : (s.setHctx n x).fab = s.fab := rfl
@[simp] theorem State.setHctx_host (s : State) (n : Nat) (x : Hctx) : (s.setHctx n x).host = s.host := rfl
@[simp] theorem State.setHctx_rel (s : State) (n : Nat) (x : Hctx) : (s.setHctx n x).rel = s.rel := rfl
@[simp] theorem State.setHctx_sec (s : State) (n : Nat) (x : Hctx) : (s.setHctx n x).sec = s.sec := rfl
@[simp] theorem State.setHctx_evt (s : State) (n : Nat) (x : Hctx) : (s.setHctx n x).evt = s.evt := rfl
@[simp] theorem State.setHctx_power (s : State) (n : Nat) (x : Hctx) : (s.setHctx n x).power = s.power := rfl
@[simp] theorem State.setHctx_regs (s : State) (n : Nat) (x : Hctx) : (s.setHctx n x).regs = s.regs := rfl
@[simp] theorem State.setHctx_free (s : State) (n : Nat) (x : Hctx) : (s.setHctx n x).free = s.free := rfl
@[simp] theorem State.setHctx_pending (s : State) (n : Nat) (x : Hctx) : (s.setHctx n x).pending = s.pending := rfl

/-! ### setExtent -/

@[simp] theorem State.setExtent_variant (s : State) (h : Word) (e : Extent) : (s.setExtent h e).variant = s.variant := rfl
@[simp] theorem State.setExtent_place (s : State) (h : Word) (e : Extent) : (s.setExtent h e).place = s.place := rfl
@[simp] theorem State.setExtent_comp (s : State) (h : Word) (e : Extent) : (s.setExtent h e).comp = s.comp := rfl
@[simp] theorem State.setExtent_pods (s : State) (h : Word) (e : Extent) : (s.setExtent h e).pods = s.pods := rfl
@[simp] theorem State.setExtent_chan (s : State) (h : Word) (e : Extent) : (s.setExtent h e).chan = s.chan := rfl
@[simp] theorem State.setExtent_clk (s : State) (h : Word) (e : Extent) : (s.setExtent h e).clk = s.clk := rfl
@[simp] theorem State.setExtent_qos (s : State) (h : Word) (e : Extent) : (s.setExtent h e).qos = s.qos := rfl
@[simp] theorem State.setExtent_fab (s : State) (h : Word) (e : Extent) : (s.setExtent h e).fab = s.fab := rfl
@[simp] theorem State.setExtent_host (s : State) (h : Word) (e : Extent) : (s.setExtent h e).host = s.host := rfl
@[simp] theorem State.setExtent_rel (s : State) (h : Word) (e : Extent) : (s.setExtent h e).rel = s.rel := rfl
@[simp] theorem State.setExtent_sec (s : State) (h : Word) (e : Extent) : (s.setExtent h e).sec = s.sec := rfl
@[simp] theorem State.setExtent_evt (s : State) (h : Word) (e : Extent) : (s.setExtent h e).evt = s.evt := rfl
@[simp] theorem State.setExtent_power (s : State) (h : Word) (e : Extent) : (s.setExtent h e).power = s.power := rfl
@[simp] theorem State.setExtent_regs (s : State) (h : Word) (e : Extent) : (s.setExtent h e).regs = s.regs := rfl
@[simp] theorem State.setExtent_free (s : State) (h : Word) (e : Extent) : (s.setExtent h e).free = s.free := rfl
@[simp] theorem State.setExtent_pending (s : State) (h : Word) (e : Extent) : (s.setExtent h e).pending = s.pending := rfl

/-! ### mergeBlk -/

@[simp] theorem State.mergeBlk_variant (s : State) (h : Word) (o : Nat) (bs : Bytes) : (s.mergeBlk h o bs).variant = s.variant := rfl
@[simp] theorem State.mergeBlk_place (s : State) (h : Word) (o : Nat) (bs : Bytes) : (s.mergeBlk h o bs).place = s.place := rfl
@[simp] theorem State.mergeBlk_comp (s : State) (h : Word) (o : Nat) (bs : Bytes) : (s.mergeBlk h o bs).comp = s.comp := rfl
@[simp] theorem State.mergeBlk_pods (s : State) (h : Word) (o : Nat) (bs : Bytes) : (s.mergeBlk h o bs).pods = s.pods := rfl
@[simp] theorem State.mergeBlk_chan (s : State) (h : Word) (o : Nat) (bs : Bytes) : (s.mergeBlk h o bs).chan = s.chan := rfl
@[simp] theorem State.mergeBlk_clk (s : State) (h : Word) (o : Nat) (bs : Bytes) : (s.mergeBlk h o bs).clk = s.clk := rfl
@[simp] theorem State.mergeBlk_qos (s : State) (h : Word) (o : Nat) (bs : Bytes) : (s.mergeBlk h o bs).qos = s.qos := rfl
@[simp] theorem State.mergeBlk_fab (s : State) (h : Word) (o : Nat) (bs : Bytes) : (s.mergeBlk h o bs).fab = s.fab := rfl
@[simp] theorem State.mergeBlk_host (s : State) (h : Word) (o : Nat) (bs : Bytes) : (s.mergeBlk h o bs).host = s.host := rfl
@[simp] theorem State.mergeBlk_rel (s : State) (h : Word) (o : Nat) (bs : Bytes) : (s.mergeBlk h o bs).rel = s.rel := rfl
@[simp] theorem State.mergeBlk_sec (s : State) (h : Word) (o : Nat) (bs : Bytes) : (s.mergeBlk h o bs).sec = s.sec := rfl
@[simp] theorem State.mergeBlk_evt (s : State) (h : Word) (o : Nat) (bs : Bytes) : (s.mergeBlk h o bs).evt = s.evt := rfl
@[simp] theorem State.mergeBlk_power (s : State) (h : Word) (o : Nat) (bs : Bytes) : (s.mergeBlk h o bs).power = s.power := rfl
@[simp] theorem State.mergeBlk_regs (s : State) (h : Word) (o : Nat) (bs : Bytes) : (s.mergeBlk h o bs).regs = s.regs := rfl
@[simp] theorem State.mergeBlk_free (s : State) (h : Word) (o : Nat) (bs : Bytes) : (s.mergeBlk h o bs).free = s.free := rfl
@[simp] theorem State.mergeBlk_pending (s : State) (h : Word) (o : Nat) (bs : Bytes) : (s.mergeBlk h o bs).pending = s.pending := rfl

/-! ### setGate -/

@[simp] theorem State.setGate_variant (s : State) (g : BitVec 8) (x : Gate) : (s.setGate g x).variant = s.variant := rfl
@[simp] theorem State.setGate_place (s : State) (g : BitVec 8) (x : Gate) : (s.setGate g x).place = s.place := rfl
@[simp] theorem State.setGate_comp (s : State) (g : BitVec 8) (x : Gate) : (s.setGate g x).comp = s.comp := rfl
@[simp] theorem State.setGate_pods (s : State) (g : BitVec 8) (x : Gate) : (s.setGate g x).pods = s.pods := rfl
@[simp] theorem State.setGate_chan (s : State) (g : BitVec 8) (x : Gate) : (s.setGate g x).chan = s.chan := rfl
@[simp] theorem State.setGate_qos (s : State) (g : BitVec 8) (x : Gate) : (s.setGate g x).qos = s.qos := rfl
@[simp] theorem State.setGate_ten (s : State) (g : BitVec 8) (x : Gate) : (s.setGate g x).ten = s.ten := rfl
@[simp] theorem State.setGate_fab (s : State) (g : BitVec 8) (x : Gate) : (s.setGate g x).fab = s.fab := rfl
@[simp] theorem State.setGate_host (s : State) (g : BitVec 8) (x : Gate) : (s.setGate g x).host = s.host := rfl
@[simp] theorem State.setGate_rel (s : State) (g : BitVec 8) (x : Gate) : (s.setGate g x).rel = s.rel := rfl
@[simp] theorem State.setGate_sec (s : State) (g : BitVec 8) (x : Gate) : (s.setGate g x).sec = s.sec := rfl
@[simp] theorem State.setGate_evt (s : State) (g : BitVec 8) (x : Gate) : (s.setGate g x).evt = s.evt := rfl
@[simp] theorem State.setGate_power (s : State) (g : BitVec 8) (x : Gate) : (s.setGate g x).power = s.power := rfl
@[simp] theorem State.setGate_regs (s : State) (g : BitVec 8) (x : Gate) : (s.setGate g x).regs = s.regs := rfl
@[simp] theorem State.setGate_free (s : State) (g : BitVec 8) (x : Gate) : (s.setGate g x).free = s.free := rfl
@[simp] theorem State.setGate_pending (s : State) (g : BitVec 8) (x : Gate) : (s.setGate g x).pending = s.pending := rfl

/-! ### addGate -/

@[simp] theorem State.addGate_variant (s : State) (g : BitVec 8) (n : Word) : (s.addGate g n).variant = s.variant := rfl
@[simp] theorem State.addGate_place (s : State) (g : BitVec 8) (n : Word) : (s.addGate g n).place = s.place := rfl
@[simp] theorem State.addGate_comp (s : State) (g : BitVec 8) (n : Word) : (s.addGate g n).comp = s.comp := rfl
@[simp] theorem State.addGate_pods (s : State) (g : BitVec 8) (n : Word) : (s.addGate g n).pods = s.pods := rfl
@[simp] theorem State.addGate_chan (s : State) (g : BitVec 8) (n : Word) : (s.addGate g n).chan = s.chan := rfl
@[simp] theorem State.addGate_qos (s : State) (g : BitVec 8) (n : Word) : (s.addGate g n).qos = s.qos := rfl
@[simp] theorem State.addGate_ten (s : State) (g : BitVec 8) (n : Word) : (s.addGate g n).ten = s.ten := rfl
@[simp] theorem State.addGate_fab (s : State) (g : BitVec 8) (n : Word) : (s.addGate g n).fab = s.fab := rfl
@[simp] theorem State.addGate_host (s : State) (g : BitVec 8) (n : Word) : (s.addGate g n).host = s.host := rfl
@[simp] theorem State.addGate_rel (s : State) (g : BitVec 8) (n : Word) : (s.addGate g n).rel = s.rel := rfl
@[simp] theorem State.addGate_sec (s : State) (g : BitVec 8) (n : Word) : (s.addGate g n).sec = s.sec := rfl
@[simp] theorem State.addGate_evt (s : State) (g : BitVec 8) (n : Word) : (s.addGate g n).evt = s.evt := rfl
@[simp] theorem State.addGate_power (s : State) (g : BitVec 8) (n : Word) : (s.addGate g n).power = s.power := rfl
@[simp] theorem State.addGate_regs (s : State) (g : BitVec 8) (n : Word) : (s.addGate g n).regs = s.regs := rfl
@[simp] theorem State.addGate_free (s : State) (g : BitVec 8) (n : Word) : (s.addGate g n).free = s.free := rfl
@[simp] theorem State.addGate_pending (s : State) (g : BitVec 8) (n : Word) : (s.addGate g n).pending = s.pending := rfl

/-! ### setHport -/

@[simp] theorem State.setHport_variant (s : State) (p : Nat) (x : HostPort) : (s.setHport p x).variant = s.variant := rfl
@[simp] theorem State.setHport_place (s : State) (p : Nat) (x : HostPort) : (s.setHport p x).place = s.place := rfl
@[simp] theorem State.setHport_comp (s : State) (p : Nat) (x : HostPort) : (s.setHport p x).comp = s.comp := rfl
@[simp] theorem State.setHport_pods (s : State) (p : Nat) (x : HostPort) : (s.setHport p x).pods = s.pods := rfl
@[simp] theorem State.setHport_chan (s : State) (p : Nat) (x : HostPort) : (s.setHport p x).chan = s.chan := rfl
@[simp] theorem State.setHport_clk (s : State) (p : Nat) (x : HostPort) : (s.setHport p x).clk = s.clk := rfl
@[simp] theorem State.setHport_qos (s : State) (p : Nat) (x : HostPort) : (s.setHport p x).qos = s.qos := rfl
@[simp] theorem State.setHport_ten (s : State) (p : Nat) (x : HostPort) : (s.setHport p x).ten = s.ten := rfl
@[simp] theorem State.setHport_fab (s : State) (p : Nat) (x : HostPort) : (s.setHport p x).fab = s.fab := rfl
@[simp] theorem State.setHport_rel (s : State) (p : Nat) (x : HostPort) : (s.setHport p x).rel = s.rel := rfl
@[simp] theorem State.setHport_sec (s : State) (p : Nat) (x : HostPort) : (s.setHport p x).sec = s.sec := rfl
@[simp] theorem State.setHport_evt (s : State) (p : Nat) (x : HostPort) : (s.setHport p x).evt = s.evt := rfl
@[simp] theorem State.setHport_power (s : State) (p : Nat) (x : HostPort) : (s.setHport p x).power = s.power := rfl
@[simp] theorem State.setHport_regs (s : State) (p : Nat) (x : HostPort) : (s.setHport p x).regs = s.regs := rfl
@[simp] theorem State.setHport_free (s : State) (p : Nat) (x : HostPort) : (s.setHport p x).free = s.free := rfl
@[simp] theorem State.setHport_pending (s : State) (p : Nat) (x : HostPort) : (s.setHport p x).pending = s.pending := rfl

/-! ### setGroup -/

@[simp] theorem State.setGroup_variant (s : State) (g : Nat) (x : Group) : (s.setGroup g x).variant = s.variant := rfl
@[simp] theorem State.setGroup_place (s : State) (g : Nat) (x : Group) : (s.setGroup g x).place = s.place := rfl
@[simp] theorem State.setGroup_comp (s : State) (g : Nat) (x : Group) : (s.setGroup g x).comp = s.comp := rfl
@[simp] theorem State.setGroup_pods (s : State) (g : Nat) (x : Group) : (s.setGroup g x).pods = s.pods := rfl
@[simp] theorem State.setGroup_chan (s : State) (g : Nat) (x : Group) : (s.setGroup g x).chan = s.chan := rfl
@[simp] theorem State.setGroup_clk (s : State) (g : Nat) (x : Group) : (s.setGroup g x).clk = s.clk := rfl
@[simp] theorem State.setGroup_qos (s : State) (g : Nat) (x : Group) : (s.setGroup g x).qos = s.qos := rfl
@[simp] theorem State.setGroup_ten (s : State) (g : Nat) (x : Group) : (s.setGroup g x).ten = s.ten := rfl
@[simp] theorem State.setGroup_host (s : State) (g : Nat) (x : Group) : (s.setGroup g x).host = s.host := rfl
@[simp] theorem State.setGroup_rel (s : State) (g : Nat) (x : Group) : (s.setGroup g x).rel = s.rel := rfl
@[simp] theorem State.setGroup_sec (s : State) (g : Nat) (x : Group) : (s.setGroup g x).sec = s.sec := rfl
@[simp] theorem State.setGroup_evt (s : State) (g : Nat) (x : Group) : (s.setGroup g x).evt = s.evt := rfl
@[simp] theorem State.setGroup_power (s : State) (g : Nat) (x : Group) : (s.setGroup g x).power = s.power := rfl
@[simp] theorem State.setGroup_regs (s : State) (g : Nat) (x : Group) : (s.setGroup g x).regs = s.regs := rfl
@[simp] theorem State.setGroup_free (s : State) (g : Nat) (x : Group) : (s.setGroup g x).free = s.free := rfl
@[simp] theorem State.setGroup_pending (s : State) (g : Nat) (x : Group) : (s.setGroup g x).pending = s.pending := rfl

/-! ### setFport -/

@[simp] theorem State.setFport_variant (s : State) (p : Nat) (x : FabPort) : (s.setFport p x).variant = s.variant := rfl
@[simp] theorem State.setFport_place (s : State) (p : Nat) (x : FabPort) : (s.setFport p x).place = s.place := rfl
@[simp] theorem State.setFport_comp (s : State) (p : Nat) (x : FabPort) : (s.setFport p x).comp = s.comp := rfl
@[simp] theorem State.setFport_pods (s : State) (p : Nat) (x : FabPort) : (s.setFport p x).pods = s.pods := rfl
@[simp] theorem State.setFport_chan (s : State) (p : Nat) (x : FabPort) : (s.setFport p x).chan = s.chan := rfl
@[simp] theorem State.setFport_clk (s : State) (p : Nat) (x : FabPort) : (s.setFport p x).clk = s.clk := rfl
@[simp] theorem State.setFport_qos (s : State) (p : Nat) (x : FabPort) : (s.setFport p x).qos = s.qos := rfl
@[simp] theorem State.setFport_ten (s : State) (p : Nat) (x : FabPort) : (s.setFport p x).ten = s.ten := rfl
@[simp] theorem State.setFport_host (s : State) (p : Nat) (x : FabPort) : (s.setFport p x).host = s.host := rfl
@[simp] theorem State.setFport_rel (s : State) (p : Nat) (x : FabPort) : (s.setFport p x).rel = s.rel := rfl
@[simp] theorem State.setFport_sec (s : State) (p : Nat) (x : FabPort) : (s.setFport p x).sec = s.sec := rfl
@[simp] theorem State.setFport_evt (s : State) (p : Nat) (x : FabPort) : (s.setFport p x).evt = s.evt := rfl
@[simp] theorem State.setFport_power (s : State) (p : Nat) (x : FabPort) : (s.setFport p x).power = s.power := rfl
@[simp] theorem State.setFport_regs (s : State) (p : Nat) (x : FabPort) : (s.setFport p x).regs = s.regs := rfl
@[simp] theorem State.setFport_free (s : State) (p : Nat) (x : FabPort) : (s.setFport p x).free = s.free := rfl
@[simp] theorem State.setFport_pending (s : State) (p : Nat) (x : FabPort) : (s.setFport p x).pending = s.pending := rfl

/-! ### setJournal -/

@[simp] theorem State.setJournal_variant (s : State) (c : Nat) (j : Journal) : (s.setJournal c j).variant = s.variant := rfl
@[simp] theorem State.setJournal_place (s : State) (c : Nat) (j : Journal) : (s.setJournal c j).place = s.place := rfl
@[simp] theorem State.setJournal_comp (s : State) (c : Nat) (j : Journal) : (s.setJournal c j).comp = s.comp := rfl
@[simp] theorem State.setJournal_pods (s : State) (c : Nat) (j : Journal) : (s.setJournal c j).pods = s.pods := rfl
@[simp] theorem State.setJournal_chan (s : State) (c : Nat) (j : Journal) : (s.setJournal c j).chan = s.chan := rfl
@[simp] theorem State.setJournal_clk (s : State) (c : Nat) (j : Journal) : (s.setJournal c j).clk = s.clk := rfl
@[simp] theorem State.setJournal_qos (s : State) (c : Nat) (j : Journal) : (s.setJournal c j).qos = s.qos := rfl
@[simp] theorem State.setJournal_ten (s : State) (c : Nat) (j : Journal) : (s.setJournal c j).ten = s.ten := rfl
@[simp] theorem State.setJournal_fab (s : State) (c : Nat) (j : Journal) : (s.setJournal c j).fab = s.fab := rfl
@[simp] theorem State.setJournal_host (s : State) (c : Nat) (j : Journal) : (s.setJournal c j).host = s.host := rfl
@[simp] theorem State.setJournal_rel (s : State) (c : Nat) (j : Journal) : (s.setJournal c j).rel = s.rel := rfl
@[simp] theorem State.setJournal_sec (s : State) (c : Nat) (j : Journal) : (s.setJournal c j).sec = s.sec := rfl
@[simp] theorem State.setJournal_power (s : State) (c : Nat) (j : Journal) : (s.setJournal c j).power = s.power := rfl
@[simp] theorem State.setJournal_regs (s : State) (c : Nat) (j : Journal) : (s.setJournal c j).regs = s.regs := rfl
@[simp] theorem State.setJournal_free (s : State) (c : Nat) (j : Journal) : (s.setJournal c j).free = s.free := rfl
@[simp] theorem State.setJournal_pending (s : State) (c : Nat) (j : Journal) : (s.setJournal c j).pending = s.pending := rfl

/-! ### raise -/

@[simp] theorem State.raise_variant (s : State) (code : BitVec 16) (sev : BitVec 3) (unit : BitVec 5) (inst p0 p1 p2 : Nat) : (s.raise code sev unit inst p0 p1 p2).variant = s.variant := rfl
@[simp] theorem State.raise_place (s : State) (code : BitVec 16) (sev : BitVec 3) (unit : BitVec 5) (inst p0 p1 p2 : Nat) : (s.raise code sev unit inst p0 p1 p2).place = s.place := rfl
@[simp] theorem State.raise_comp (s : State) (code : BitVec 16) (sev : BitVec 3) (unit : BitVec 5) (inst p0 p1 p2 : Nat) : (s.raise code sev unit inst p0 p1 p2).comp = s.comp := rfl
@[simp] theorem State.raise_pods (s : State) (code : BitVec 16) (sev : BitVec 3) (unit : BitVec 5) (inst p0 p1 p2 : Nat) : (s.raise code sev unit inst p0 p1 p2).pods = s.pods := rfl
@[simp] theorem State.raise_chan (s : State) (code : BitVec 16) (sev : BitVec 3) (unit : BitVec 5) (inst p0 p1 p2 : Nat) : (s.raise code sev unit inst p0 p1 p2).chan = s.chan := rfl
@[simp] theorem State.raise_clk (s : State) (code : BitVec 16) (sev : BitVec 3) (unit : BitVec 5) (inst p0 p1 p2 : Nat) : (s.raise code sev unit inst p0 p1 p2).clk = s.clk := rfl
@[simp] theorem State.raise_qos (s : State) (code : BitVec 16) (sev : BitVec 3) (unit : BitVec 5) (inst p0 p1 p2 : Nat) : (s.raise code sev unit inst p0 p1 p2).qos = s.qos := rfl
@[simp] theorem State.raise_ten (s : State) (code : BitVec 16) (sev : BitVec 3) (unit : BitVec 5) (inst p0 p1 p2 : Nat) : (s.raise code sev unit inst p0 p1 p2).ten = s.ten := rfl
@[simp] theorem State.raise_fab (s : State) (code : BitVec 16) (sev : BitVec 3) (unit : BitVec 5) (inst p0 p1 p2 : Nat) : (s.raise code sev unit inst p0 p1 p2).fab = s.fab := rfl
@[simp] theorem State.raise_host (s : State) (code : BitVec 16) (sev : BitVec 3) (unit : BitVec 5) (inst p0 p1 p2 : Nat) : (s.raise code sev unit inst p0 p1 p2).host = s.host := rfl
@[simp] theorem State.raise_rel (s : State) (code : BitVec 16) (sev : BitVec 3) (unit : BitVec 5) (inst p0 p1 p2 : Nat) : (s.raise code sev unit inst p0 p1 p2).rel = s.rel := rfl
@[simp] theorem State.raise_sec (s : State) (code : BitVec 16) (sev : BitVec 3) (unit : BitVec 5) (inst p0 p1 p2 : Nat) : (s.raise code sev unit inst p0 p1 p2).sec = s.sec := rfl
@[simp] theorem State.raise_power (s : State) (code : BitVec 16) (sev : BitVec 3) (unit : BitVec 5) (inst p0 p1 p2 : Nat) : (s.raise code sev unit inst p0 p1 p2).power = s.power := rfl
@[simp] theorem State.raise_regs (s : State) (code : BitVec 16) (sev : BitVec 3) (unit : BitVec 5) (inst p0 p1 p2 : Nat) : (s.raise code sev unit inst p0 p1 p2).regs = s.regs := rfl
@[simp] theorem State.raise_free (s : State) (code : BitVec 16) (sev : BitVec 3) (unit : BitVec 5) (inst p0 p1 p2 : Nat) : (s.raise code sev unit inst p0 p1 p2).free = s.free := rfl
@[simp] theorem State.raise_pending (s : State) (code : BitVec 16) (sev : BitVec 3) (unit : BitVec 5) (inst p0 p1 p2 : Nat) : (s.raise code sev unit inst p0 p1 p2).pending = s.pending := rfl

/-! ### setStack -/

@[simp] theorem State.setStack_variant (s : State) (n : Nat) (x : Stack) : (s.setStack n x).variant = s.variant := rfl
@[simp] theorem State.setStack_place (s : State) (n : Nat) (x : Stack) : (s.setStack n x).place = s.place := rfl
@[simp] theorem State.setStack_comp (s : State) (n : Nat) (x : Stack) : (s.setStack n x).comp = s.comp := rfl
@[simp] theorem State.setStack_pods (s : State) (n : Nat) (x : Stack) : (s.setStack n x).pods = s.pods := rfl
@[simp] theorem State.setStack_chan (s : State) (n : Nat) (x : Stack) : (s.setStack n x).chan = s.chan := rfl
@[simp] theorem State.setStack_clk (s : State) (n : Nat) (x : Stack) : (s.setStack n x).clk = s.clk := rfl
@[simp] theorem State.setStack_qos (s : State) (n : Nat) (x : Stack) : (s.setStack n x).qos = s.qos := rfl
@[simp] theorem State.setStack_ten (s : State) (n : Nat) (x : Stack) : (s.setStack n x).ten = s.ten := rfl
@[simp] theorem State.setStack_fab (s : State) (n : Nat) (x : Stack) : (s.setStack n x).fab = s.fab := rfl
@[simp] theorem State.setStack_host (s : State) (n : Nat) (x : Stack) : (s.setStack n x).host = s.host := rfl
@[simp] theorem State.setStack_sec (s : State) (n : Nat) (x : Stack) : (s.setStack n x).sec = s.sec := rfl
@[simp] theorem State.setStack_evt (s : State) (n : Nat) (x : Stack) : (s.setStack n x).evt = s.evt := rfl
@[simp] theorem State.setStack_power (s : State) (n : Nat) (x : Stack) : (s.setStack n x).power = s.power := rfl
@[simp] theorem State.setStack_regs (s : State) (n : Nat) (x : Stack) : (s.setStack n x).regs = s.regs := rfl
@[simp] theorem State.setStack_free (s : State) (n : Nat) (x : Stack) : (s.setStack n x).free = s.free := rfl
@[simp] theorem State.setStack_pending (s : State) (n : Nat) (x : Stack) : (s.setStack n x).pending = s.pending := rfl

/-! ### setRes -/

@[simp] theorem State.setRes_variant (s : State) (r : Nat) (x : Res) : (s.setRes r x).variant = s.variant := rfl
@[simp] theorem State.setRes_place (s : State) (r : Nat) (x : Res) : (s.setRes r x).place = s.place := rfl
@[simp] theorem State.setRes_comp (s : State) (r : Nat) (x : Res) : (s.setRes r x).comp = s.comp := rfl
@[simp] theorem State.setRes_pods (s : State) (r : Nat) (x : Res) : (s.setRes r x).pods = s.pods := rfl
@[simp] theorem State.setRes_chan (s : State) (r : Nat) (x : Res) : (s.setRes r x).chan = s.chan := rfl
@[simp] theorem State.setRes_clk (s : State) (r : Nat) (x : Res) : (s.setRes r x).clk = s.clk := rfl
@[simp] theorem State.setRes_ten (s : State) (r : Nat) (x : Res) : (s.setRes r x).ten = s.ten := rfl
@[simp] theorem State.setRes_fab (s : State) (r : Nat) (x : Res) : (s.setRes r x).fab = s.fab := rfl
@[simp] theorem State.setRes_host (s : State) (r : Nat) (x : Res) : (s.setRes r x).host = s.host := rfl
@[simp] theorem State.setRes_rel (s : State) (r : Nat) (x : Res) : (s.setRes r x).rel = s.rel := rfl
@[simp] theorem State.setRes_sec (s : State) (r : Nat) (x : Res) : (s.setRes r x).sec = s.sec := rfl
@[simp] theorem State.setRes_evt (s : State) (r : Nat) (x : Res) : (s.setRes r x).evt = s.evt := rfl
@[simp] theorem State.setRes_power (s : State) (r : Nat) (x : Res) : (s.setRes r x).power = s.power := rfl
@[simp] theorem State.setRes_regs (s : State) (r : Nat) (x : Res) : (s.setRes r x).regs = s.regs := rfl
@[simp] theorem State.setRes_free (s : State) (r : Nat) (x : Res) : (s.setRes r x).free = s.free := rfl
@[simp] theorem State.setRes_pending (s : State) (r : Nat) (x : Res) : (s.setRes r x).pending = s.pending := rfl

/-! ### setQclass -/

@[simp] theorem State.setQclass_variant (s : State) (c : Nat) (q : QClass) : (s.setQclass c q).variant = s.variant := rfl
@[simp] theorem State.setQclass_place (s : State) (c : Nat) (q : QClass) : (s.setQclass c q).place = s.place := rfl
@[simp] theorem State.setQclass_comp (s : State) (c : Nat) (q : QClass) : (s.setQclass c q).comp = s.comp := rfl
@[simp] theorem State.setQclass_pods (s : State) (c : Nat) (q : QClass) : (s.setQclass c q).pods = s.pods := rfl
@[simp] theorem State.setQclass_chan (s : State) (c : Nat) (q : QClass) : (s.setQclass c q).chan = s.chan := rfl
@[simp] theorem State.setQclass_clk (s : State) (c : Nat) (q : QClass) : (s.setQclass c q).clk = s.clk := rfl
@[simp] theorem State.setQclass_ten (s : State) (c : Nat) (q : QClass) : (s.setQclass c q).ten = s.ten := rfl
@[simp] theorem State.setQclass_fab (s : State) (c : Nat) (q : QClass) : (s.setQclass c q).fab = s.fab := rfl
@[simp] theorem State.setQclass_host (s : State) (c : Nat) (q : QClass) : (s.setQclass c q).host = s.host := rfl
@[simp] theorem State.setQclass_rel (s : State) (c : Nat) (q : QClass) : (s.setQclass c q).rel = s.rel := rfl
@[simp] theorem State.setQclass_sec (s : State) (c : Nat) (q : QClass) : (s.setQclass c q).sec = s.sec := rfl
@[simp] theorem State.setQclass_evt (s : State) (c : Nat) (q : QClass) : (s.setQclass c q).evt = s.evt := rfl
@[simp] theorem State.setQclass_power (s : State) (c : Nat) (q : QClass) : (s.setQclass c q).power = s.power := rfl
@[simp] theorem State.setQclass_regs (s : State) (c : Nat) (q : QClass) : (s.setQclass c q).regs = s.regs := rfl
@[simp] theorem State.setQclass_free (s : State) (c : Nat) (q : QClass) : (s.setQclass c q).free = s.free := rfl
@[simp] theorem State.setQclass_pending (s : State) (c : Nat) (q : QClass) : (s.setQclass c q).pending = s.pending := rfl

/-! ### setTract -/

@[simp] theorem State.setTract_variant (s : State) (h : Word) (t : Nat) (x : Tract) : (s.setTract h t x).variant = s.variant := rfl
@[simp] theorem State.setTract_comp (s : State) (h : Word) (t : Nat) (x : Tract) : (s.setTract h t x).comp = s.comp := rfl
@[simp] theorem State.setTract_pods (s : State) (h : Word) (t : Nat) (x : Tract) : (s.setTract h t x).pods = s.pods := rfl
@[simp] theorem State.setTract_chan (s : State) (h : Word) (t : Nat) (x : Tract) : (s.setTract h t x).chan = s.chan := rfl
@[simp] theorem State.setTract_clk (s : State) (h : Word) (t : Nat) (x : Tract) : (s.setTract h t x).clk = s.clk := rfl
@[simp] theorem State.setTract_qos (s : State) (h : Word) (t : Nat) (x : Tract) : (s.setTract h t x).qos = s.qos := rfl
@[simp] theorem State.setTract_ten (s : State) (h : Word) (t : Nat) (x : Tract) : (s.setTract h t x).ten = s.ten := rfl
@[simp] theorem State.setTract_fab (s : State) (h : Word) (t : Nat) (x : Tract) : (s.setTract h t x).fab = s.fab := rfl
@[simp] theorem State.setTract_host (s : State) (h : Word) (t : Nat) (x : Tract) : (s.setTract h t x).host = s.host := rfl
@[simp] theorem State.setTract_rel (s : State) (h : Word) (t : Nat) (x : Tract) : (s.setTract h t x).rel = s.rel := rfl
@[simp] theorem State.setTract_sec (s : State) (h : Word) (t : Nat) (x : Tract) : (s.setTract h t x).sec = s.sec := rfl
@[simp] theorem State.setTract_evt (s : State) (h : Word) (t : Nat) (x : Tract) : (s.setTract h t x).evt = s.evt := rfl
@[simp] theorem State.setTract_power (s : State) (h : Word) (t : Nat) (x : Tract) : (s.setTract h t x).power = s.power := rfl
@[simp] theorem State.setTract_regs (s : State) (h : Word) (t : Nat) (x : Tract) : (s.setTract h t x).regs = s.regs := rfl
@[simp] theorem State.setTract_free (s : State) (h : Word) (t : Nat) (x : Tract) : (s.setTract h t x).free = s.free := rfl
@[simp] theorem State.setTract_pending (s : State) (h : Word) (t : Nat) (x : Tract) : (s.setTract h t x).pending = s.pending := rfl

/-! ### modTract -/

@[simp] theorem State.modTract_variant (s : State) (k : Nat) (f : Tract → Tract) : (s.modTract k f).variant = s.variant := rfl
@[simp] theorem State.modTract_comp (s : State) (k : Nat) (f : Tract → Tract) : (s.modTract k f).comp = s.comp := rfl
@[simp] theorem State.modTract_pods (s : State) (k : Nat) (f : Tract → Tract) : (s.modTract k f).pods = s.pods := rfl
@[simp] theorem State.modTract_chan (s : State) (k : Nat) (f : Tract → Tract) : (s.modTract k f).chan = s.chan := rfl
@[simp] theorem State.modTract_clk (s : State) (k : Nat) (f : Tract → Tract) : (s.modTract k f).clk = s.clk := rfl
@[simp] theorem State.modTract_qos (s : State) (k : Nat) (f : Tract → Tract) : (s.modTract k f).qos = s.qos := rfl
@[simp] theorem State.modTract_ten (s : State) (k : Nat) (f : Tract → Tract) : (s.modTract k f).ten = s.ten := rfl
@[simp] theorem State.modTract_fab (s : State) (k : Nat) (f : Tract → Tract) : (s.modTract k f).fab = s.fab := rfl
@[simp] theorem State.modTract_host (s : State) (k : Nat) (f : Tract → Tract) : (s.modTract k f).host = s.host := rfl
@[simp] theorem State.modTract_rel (s : State) (k : Nat) (f : Tract → Tract) : (s.modTract k f).rel = s.rel := rfl
@[simp] theorem State.modTract_sec (s : State) (k : Nat) (f : Tract → Tract) : (s.modTract k f).sec = s.sec := rfl
@[simp] theorem State.modTract_evt (s : State) (k : Nat) (f : Tract → Tract) : (s.modTract k f).evt = s.evt := rfl
@[simp] theorem State.modTract_power (s : State) (k : Nat) (f : Tract → Tract) : (s.modTract k f).power = s.power := rfl
@[simp] theorem State.modTract_regs (s : State) (k : Nat) (f : Tract → Tract) : (s.modTract k f).regs = s.regs := rfl
@[simp] theorem State.modTract_free (s : State) (k : Nat) (f : Tract → Tract) : (s.modTract k f).free = s.free := rfl
@[simp] theorem State.modTract_pending (s : State) (k : Nat) (f : Tract → Tract) : (s.modTract k f).pending = s.pending := rfl

/-! ### setPin -/

@[simp] theorem State.setPin_variant (s : State) (h : Word) (t : Nat) (p : BitVec 8) (n : Nat) : (s.setPin h t p n).variant = s.variant := rfl
@[simp] theorem State.setPin_comp (s : State) (h : Word) (t : Nat) (p : BitVec 8) (n : Nat) : (s.setPin h t p n).comp = s.comp := rfl
@[simp] theorem State.setPin_pods (s : State) (h : Word) (t : Nat) (p : BitVec 8) (n : Nat) : (s.setPin h t p n).pods = s.pods := rfl
@[simp] theorem State.setPin_chan (s : State) (h : Word) (t : Nat) (p : BitVec 8) (n : Nat) : (s.setPin h t p n).chan = s.chan := rfl
@[simp] theorem State.setPin_clk (s : State) (h : Word) (t : Nat) (p : BitVec 8) (n : Nat) : (s.setPin h t p n).clk = s.clk := rfl
@[simp] theorem State.setPin_qos (s : State) (h : Word) (t : Nat) (p : BitVec 8) (n : Nat) : (s.setPin h t p n).qos = s.qos := rfl
@[simp] theorem State.setPin_ten (s : State) (h : Word) (t : Nat) (p : BitVec 8) (n : Nat) : (s.setPin h t p n).ten = s.ten := rfl
@[simp] theorem State.setPin_fab (s : State) (h : Word) (t : Nat) (p : BitVec 8) (n : Nat) : (s.setPin h t p n).fab = s.fab := rfl
@[simp] theorem State.setPin_host (s : State) (h : Word) (t : Nat) (p : BitVec 8) (n : Nat) : (s.setPin h t p n).host = s.host := rfl
@[simp] theorem State.setPin_rel (s : State) (h : Word) (t : Nat) (p : BitVec 8) (n : Nat) : (s.setPin h t p n).rel = s.rel := rfl
@[simp] theorem State.setPin_sec (s : State) (h : Word) (t : Nat) (p : BitVec 8) (n : Nat) : (s.setPin h t p n).sec = s.sec := rfl
@[simp] theorem State.setPin_evt (s : State) (h : Word) (t : Nat) (p : BitVec 8) (n : Nat) : (s.setPin h t p n).evt = s.evt := rfl
@[simp] theorem State.setPin_power (s : State) (h : Word) (t : Nat) (p : BitVec 8) (n : Nat) : (s.setPin h t p n).power = s.power := rfl
@[simp] theorem State.setPin_regs (s : State) (h : Word) (t : Nat) (p : BitVec 8) (n : Nat) : (s.setPin h t p n).regs = s.regs := rfl
@[simp] theorem State.setPin_free (s : State) (h : Word) (t : Nat) (p : BitVec 8) (n : Nat) : (s.setPin h t p n).free = s.free := rfl
@[simp] theorem State.setPin_pending (s : State) (h : Word) (t : Nat) (p : BitVec 8) (n : Nat) : (s.setPin h t p n).pending = s.pending := rfl

/-! ### setWindow -/

@[simp] theorem State.setWindow_variant (s : State) (w : Nat) (x : LayerWindow) : (s.setWindow w x).variant = s.variant := rfl
@[simp] theorem State.setWindow_comp (s : State) (w : Nat) (x : LayerWindow) : (s.setWindow w x).comp = s.comp := rfl
@[simp] theorem State.setWindow_pods (s : State) (w : Nat) (x : LayerWindow) : (s.setWindow w x).pods = s.pods := rfl
@[simp] theorem State.setWindow_chan (s : State) (w : Nat) (x : LayerWindow) : (s.setWindow w x).chan = s.chan := rfl
@[simp] theorem State.setWindow_clk (s : State) (w : Nat) (x : LayerWindow) : (s.setWindow w x).clk = s.clk := rfl
@[simp] theorem State.setWindow_qos (s : State) (w : Nat) (x : LayerWindow) : (s.setWindow w x).qos = s.qos := rfl
@[simp] theorem State.setWindow_ten (s : State) (w : Nat) (x : LayerWindow) : (s.setWindow w x).ten = s.ten := rfl
@[simp] theorem State.setWindow_fab (s : State) (w : Nat) (x : LayerWindow) : (s.setWindow w x).fab = s.fab := rfl
@[simp] theorem State.setWindow_host (s : State) (w : Nat) (x : LayerWindow) : (s.setWindow w x).host = s.host := rfl
@[simp] theorem State.setWindow_rel (s : State) (w : Nat) (x : LayerWindow) : (s.setWindow w x).rel = s.rel := rfl
@[simp] theorem State.setWindow_sec (s : State) (w : Nat) (x : LayerWindow) : (s.setWindow w x).sec = s.sec := rfl
@[simp] theorem State.setWindow_evt (s : State) (w : Nat) (x : LayerWindow) : (s.setWindow w x).evt = s.evt := rfl
@[simp] theorem State.setWindow_power (s : State) (w : Nat) (x : LayerWindow) : (s.setWindow w x).power = s.power := rfl
@[simp] theorem State.setWindow_regs (s : State) (w : Nat) (x : LayerWindow) : (s.setWindow w x).regs = s.regs := rfl
@[simp] theorem State.setWindow_free (s : State) (w : Nat) (x : LayerWindow) : (s.setWindow w x).free = s.free := rfl
@[simp] theorem State.setWindow_pending (s : State) (w : Nat) (x : LayerWindow) : (s.setWindow w x).pending = s.pending := rfl

/-! ### setSide -/

@[simp] theorem State.setSide_variant (s : State) (n : Nat) (x : Side) : (s.setSide n x).variant = s.variant := rfl
@[simp] theorem State.setSide_place (s : State) (n : Nat) (x : Side) : (s.setSide n x).place = s.place := rfl
@[simp] theorem State.setSide_comp (s : State) (n : Nat) (x : Side) : (s.setSide n x).comp = s.comp := rfl
@[simp] theorem State.setSide_pods (s : State) (n : Nat) (x : Side) : (s.setSide n x).pods = s.pods := rfl
@[simp] theorem State.setSide_chan (s : State) (n : Nat) (x : Side) : (s.setSide n x).chan = s.chan := rfl
@[simp] theorem State.setSide_clk (s : State) (n : Nat) (x : Side) : (s.setSide n x).clk = s.clk := rfl
@[simp] theorem State.setSide_qos (s : State) (n : Nat) (x : Side) : (s.setSide n x).qos = s.qos := rfl
@[simp] theorem State.setSide_ten (s : State) (n : Nat) (x : Side) : (s.setSide n x).ten = s.ten := rfl
@[simp] theorem State.setSide_fab (s : State) (n : Nat) (x : Side) : (s.setSide n x).fab = s.fab := rfl
@[simp] theorem State.setSide_host (s : State) (n : Nat) (x : Side) : (s.setSide n x).host = s.host := rfl
@[simp] theorem State.setSide_rel (s : State) (n : Nat) (x : Side) : (s.setSide n x).rel = s.rel := rfl
@[simp] theorem State.setSide_sec (s : State) (n : Nat) (x : Side) : (s.setSide n x).sec = s.sec := rfl
@[simp] theorem State.setSide_evt (s : State) (n : Nat) (x : Side) : (s.setSide n x).evt = s.evt := rfl
@[simp] theorem State.setSide_regs (s : State) (n : Nat) (x : Side) : (s.setSide n x).regs = s.regs := rfl
@[simp] theorem State.setSide_free (s : State) (n : Nat) (x : Side) : (s.setSide n x).free = s.free := rfl
@[simp] theorem State.setSide_pending (s : State) (n : Nat) (x : Side) : (s.setSide n x).pending = s.pending := rfl

/-! ### setBoot -/

@[simp] theorem State.setBoot_variant (s : State) (b : Boot) : (s.setBoot b).variant = s.variant := rfl
@[simp] theorem State.setBoot_place (s : State) (b : Boot) : (s.setBoot b).place = s.place := rfl
@[simp] theorem State.setBoot_comp (s : State) (b : Boot) : (s.setBoot b).comp = s.comp := rfl
@[simp] theorem State.setBoot_pods (s : State) (b : Boot) : (s.setBoot b).pods = s.pods := rfl
@[simp] theorem State.setBoot_chan (s : State) (b : Boot) : (s.setBoot b).chan = s.chan := rfl
@[simp] theorem State.setBoot_clk (s : State) (b : Boot) : (s.setBoot b).clk = s.clk := rfl
@[simp] theorem State.setBoot_qos (s : State) (b : Boot) : (s.setBoot b).qos = s.qos := rfl
@[simp] theorem State.setBoot_ten (s : State) (b : Boot) : (s.setBoot b).ten = s.ten := rfl
@[simp] theorem State.setBoot_fab (s : State) (b : Boot) : (s.setBoot b).fab = s.fab := rfl
@[simp] theorem State.setBoot_host (s : State) (b : Boot) : (s.setBoot b).host = s.host := rfl
@[simp] theorem State.setBoot_rel (s : State) (b : Boot) : (s.setBoot b).rel = s.rel := rfl
@[simp] theorem State.setBoot_sec (s : State) (b : Boot) : (s.setBoot b).sec = s.sec := rfl
@[simp] theorem State.setBoot_evt (s : State) (b : Boot) : (s.setBoot b).evt = s.evt := rfl
@[simp] theorem State.setBoot_regs (s : State) (b : Boot) : (s.setBoot b).regs = s.regs := rfl
@[simp] theorem State.setBoot_free (s : State) (b : Boot) : (s.setBoot b).free = s.free := rfl
@[simp] theorem State.setBoot_pending (s : State) (b : Boot) : (s.setBoot b).pending = s.pending := rfl

/-! ### setFw -/

@[simp] theorem State.setFw_variant (s : State) (k : Nat) (x : FwKind) : (s.setFw k x).variant = s.variant := rfl
@[simp] theorem State.setFw_place (s : State) (k : Nat) (x : FwKind) : (s.setFw k x).place = s.place := rfl
@[simp] theorem State.setFw_comp (s : State) (k : Nat) (x : FwKind) : (s.setFw k x).comp = s.comp := rfl
@[simp] theorem State.setFw_pods (s : State) (k : Nat) (x : FwKind) : (s.setFw k x).pods = s.pods := rfl
@[simp] theorem State.setFw_chan (s : State) (k : Nat) (x : FwKind) : (s.setFw k x).chan = s.chan := rfl
@[simp] theorem State.setFw_clk (s : State) (k : Nat) (x : FwKind) : (s.setFw k x).clk = s.clk := rfl
@[simp] theorem State.setFw_qos (s : State) (k : Nat) (x : FwKind) : (s.setFw k x).qos = s.qos := rfl
@[simp] theorem State.setFw_ten (s : State) (k : Nat) (x : FwKind) : (s.setFw k x).ten = s.ten := rfl
@[simp] theorem State.setFw_fab (s : State) (k : Nat) (x : FwKind) : (s.setFw k x).fab = s.fab := rfl
@[simp] theorem State.setFw_host (s : State) (k : Nat) (x : FwKind) : (s.setFw k x).host = s.host := rfl
@[simp] theorem State.setFw_rel (s : State) (k : Nat) (x : FwKind) : (s.setFw k x).rel = s.rel := rfl
@[simp] theorem State.setFw_evt (s : State) (k : Nat) (x : FwKind) : (s.setFw k x).evt = s.evt := rfl
@[simp] theorem State.setFw_power (s : State) (k : Nat) (x : FwKind) : (s.setFw k x).power = s.power := rfl
@[simp] theorem State.setFw_regs (s : State) (k : Nat) (x : FwKind) : (s.setFw k x).regs = s.regs := rfl
@[simp] theorem State.setFw_free (s : State) (k : Nat) (x : FwKind) : (s.setFw k x).free = s.free := rfl
@[simp] theorem State.setFw_pending (s : State) (k : Nat) (x : FwKind) : (s.setFw k x).pending = s.pending := rfl

/-! ### addPend -/

@[simp] theorem State.addPend_variant (s : State) (p : PendWrite) : (s.addPend p).variant = s.variant := rfl
@[simp] theorem State.addPend_place (s : State) (p : PendWrite) : (s.addPend p).place = s.place := rfl
@[simp] theorem State.addPend_comp (s : State) (p : PendWrite) : (s.addPend p).comp = s.comp := rfl
@[simp] theorem State.addPend_pods (s : State) (p : PendWrite) : (s.addPend p).pods = s.pods := rfl
@[simp] theorem State.addPend_chan (s : State) (p : PendWrite) : (s.addPend p).chan = s.chan := rfl
@[simp] theorem State.addPend_clk (s : State) (p : PendWrite) : (s.addPend p).clk = s.clk := rfl
@[simp] theorem State.addPend_qos (s : State) (p : PendWrite) : (s.addPend p).qos = s.qos := rfl
@[simp] theorem State.addPend_ten (s : State) (p : PendWrite) : (s.addPend p).ten = s.ten := rfl
@[simp] theorem State.addPend_fab (s : State) (p : PendWrite) : (s.addPend p).fab = s.fab := rfl
@[simp] theorem State.addPend_host (s : State) (p : PendWrite) : (s.addPend p).host = s.host := rfl
@[simp] theorem State.addPend_rel (s : State) (p : PendWrite) : (s.addPend p).rel = s.rel := rfl
@[simp] theorem State.addPend_sec (s : State) (p : PendWrite) : (s.addPend p).sec = s.sec := rfl
@[simp] theorem State.addPend_evt (s : State) (p : PendWrite) : (s.addPend p).evt = s.evt := rfl
@[simp] theorem State.addPend_power (s : State) (p : PendWrite) : (s.addPend p).power = s.power := rfl
@[simp] theorem State.addPend_free (s : State) (p : PendWrite) : (s.addPend p).free = s.free := rfl
@[simp] theorem State.addPend_pending (s : State) (p : PendWrite) : (s.addPend p).pending = s.pending := rfl

/-! ### setProgram -/

@[simp] theorem State.setProgram_variant (s : State) (k : Nat) (x : Program) : (s.setProgram k x).variant = s.variant := rfl
@[simp] theorem State.setProgram_place (s : State) (k : Nat) (x : Program) : (s.setProgram k x).place = s.place := rfl
@[simp] theorem State.setProgram_comp (s : State) (k : Nat) (x : Program) : (s.setProgram k x).comp = s.comp := rfl
@[simp] theorem State.setProgram_chan (s : State) (k : Nat) (x : Program) : (s.setProgram k x).chan = s.chan := rfl
@[simp] theorem State.setProgram_clk (s : State) (k : Nat) (x : Program) : (s.setProgram k x).clk = s.clk := rfl
@[simp] theorem State.setProgram_qos (s : State) (k : Nat) (x : Program) : (s.setProgram k x).qos = s.qos := rfl
@[simp] theorem State.setProgram_ten (s : State) (k : Nat) (x : Program) : (s.setProgram k x).ten = s.ten := rfl
@[simp] theorem State.setProgram_fab (s : State) (k : Nat) (x : Program) : (s.setProgram k x).fab = s.fab := rfl
@[simp] theorem State.setProgram_host (s : State) (k : Nat) (x : Program) : (s.setProgram k x).host = s.host := rfl
@[simp] theorem State.setProgram_rel (s : State) (k : Nat) (x : Program) : (s.setProgram k x).rel = s.rel := rfl
@[simp] theorem State.setProgram_sec (s : State) (k : Nat) (x : Program) : (s.setProgram k x).sec = s.sec := rfl
@[simp] theorem State.setProgram_evt (s : State) (k : Nat) (x : Program) : (s.setProgram k x).evt = s.evt := rfl
@[simp] theorem State.setProgram_power (s : State) (k : Nat) (x : Program) : (s.setProgram k x).power = s.power := rfl
@[simp] theorem State.setProgram_regs (s : State) (k : Nat) (x : Program) : (s.setProgram k x).regs = s.regs := rfl
@[simp] theorem State.setProgram_free (s : State) (k : Nat) (x : Program) : (s.setProgram k x).free = s.free := rfl
@[simp] theorem State.setProgram_pending (s : State) (k : Nat) (x : Program) : (s.setProgram k x).pending = s.pending := rfl

/-! ### setReduce -/

@[simp] theorem State.setReduce_variant (s : State) (e : Reduce) : (s.setReduce e).variant = s.variant := rfl
@[simp] theorem State.setReduce_place (s : State) (e : Reduce) : (s.setReduce e).place = s.place := rfl
@[simp] theorem State.setReduce_comp (s : State) (e : Reduce) : (s.setReduce e).comp = s.comp := rfl
@[simp] theorem State.setReduce_pods (s : State) (e : Reduce) : (s.setReduce e).pods = s.pods := rfl
@[simp] theorem State.setReduce_chan (s : State) (e : Reduce) : (s.setReduce e).chan = s.chan := rfl
@[simp] theorem State.setReduce_clk (s : State) (e : Reduce) : (s.setReduce e).clk = s.clk := rfl
@[simp] theorem State.setReduce_qos (s : State) (e : Reduce) : (s.setReduce e).qos = s.qos := rfl
@[simp] theorem State.setReduce_ten (s : State) (e : Reduce) : (s.setReduce e).ten = s.ten := rfl
@[simp] theorem State.setReduce_host (s : State) (e : Reduce) : (s.setReduce e).host = s.host := rfl
@[simp] theorem State.setReduce_rel (s : State) (e : Reduce) : (s.setReduce e).rel = s.rel := rfl
@[simp] theorem State.setReduce_sec (s : State) (e : Reduce) : (s.setReduce e).sec = s.sec := rfl
@[simp] theorem State.setReduce_evt (s : State) (e : Reduce) : (s.setReduce e).evt = s.evt := rfl
@[simp] theorem State.setReduce_power (s : State) (e : Reduce) : (s.setReduce e).power = s.power := rfl
@[simp] theorem State.setReduce_regs (s : State) (e : Reduce) : (s.setReduce e).regs = s.regs := rfl
@[simp] theorem State.setReduce_free (s : State) (e : Reduce) : (s.setReduce e).free = s.free := rfl
@[simp] theorem State.setReduce_pending (s : State) (e : Reduce) : (s.setReduce e).pending = s.pending := rfl

/-! ### took -/

@[simp] theorem State.took_variant (s : State) : (s.took).variant = s.variant := rfl
@[simp] theorem State.took_place (s : State) : (s.took).place = s.place := rfl
@[simp] theorem State.took_comp (s : State) : (s.took).comp = s.comp := rfl
@[simp] theorem State.took_pods (s : State) : (s.took).pods = s.pods := rfl
@[simp] theorem State.took_chan (s : State) : (s.took).chan = s.chan := rfl
@[simp] theorem State.took_clk (s : State) : (s.took).clk = s.clk := rfl
@[simp] theorem State.took_qos (s : State) : (s.took).qos = s.qos := rfl
@[simp] theorem State.took_ten (s : State) : (s.took).ten = s.ten := rfl
@[simp] theorem State.took_fab (s : State) : (s.took).fab = s.fab := rfl
@[simp] theorem State.took_host (s : State) : (s.took).host = s.host := rfl
@[simp] theorem State.took_rel (s : State) : (s.took).rel = s.rel := rfl
@[simp] theorem State.took_sec (s : State) : (s.took).sec = s.sec := rfl
@[simp] theorem State.took_evt (s : State) : (s.took).evt = s.evt := rfl
@[simp] theorem State.took_power (s : State) : (s.took).power = s.power := rfl
@[simp] theorem State.took_regs (s : State) : (s.took).regs = s.regs := rfl
@[simp] theorem State.took_pending (s : State) : (s.took).pending = s.pending := rfl

/-! ## What a read finds at the entry just written -/

@[simp] theorem State.core_set (s : State) (c : Nat) (x : Core) : (s.setCore c x).core c = x := Table.get_put_same _ _ _ _
@[simp] theorem State.pod_set (s : State) (p : Nat) (x : Pod) : (s.setPod p x).pod p = x := Table.get_put_same _ _ _ _
@[simp] theorem State.ch_set (s : State) (n : Nat) (x : Chan) : (s.setCh n x).ch n = x := Table.get_put_same _ _ _ _
@[simp] theorem State.bank_set (s : State) (b : Nat) (x : Bank) : (s.setBank b x).bank b = x := Table.get_put_same _ _ _ _
@[simp] theorem State.hctxOf_set (s : State) (n : Nat) (x : Hctx) : (s.setHctx n x).hctxOf n = x := Table.get_put_same _ _ _ _
@[simp] theorem State.gate_set (s : State) (g : BitVec 8) (x : Gate) : (s.setGate g x).gate g = x := Table.get_put_same _ _ _ _
@[simp] theorem State.hport_set (s : State) (p : Nat) (x : HostPort) : (s.setHport p x).hport p = x := Table.get_put_same _ _ _ _
@[simp] theorem State.group_set (s : State) (g : Nat) (x : Group) : (s.setGroup g x).group g = x := Table.get_put_same _ _ _ _
@[simp] theorem State.fport_set (s : State) (p : Nat) (x : FabPort) : (s.setFport p x).fport p = x := Table.get_put_same _ _ _ _
@[simp] theorem State.journal_set (s : State) (c : Nat) (j : Journal) : (s.setJournal c j).journal c = j := Table.get_put_same _ _ _ _
@[simp] theorem State.stack_set (s : State) (n : Nat) (x : Stack) : (s.setStack n x).stack n = x := Table.get_put_same _ _ _ _
@[simp] theorem State.res_set (s : State) (r : Nat) (x : Res) : (s.setRes r x).res r = x := Table.get_put_same _ _ _ _
@[simp] theorem State.qclass_set (s : State) (c : Nat) (q : QClass) : (s.setQclass c q).qclass c = q := Table.get_put_same _ _ _ _
@[simp] theorem State.tract_set (s : State) (h : Word) (t : Nat) (x : Tract) : (s.setTract h t x).tract h t = x := Table.get_put_same _ _ _ _
@[simp] theorem State.pin_set (s : State) (h : Word) (t : Nat) (p : BitVec 8) (n : Nat) : (s.setPin h t p n).pin h t p = n := Table.get_put_same _ _ _ _
@[simp] theorem State.side_set (s : State) (n : Nat) (x : Side) : (s.setSide n x).side n = x := Table.get_put_same _ _ _ _
@[simp] theorem State.fwKind_set (s : State) (k : Nat) (x : FwKind) : (s.setFw k x).fwKind k = x := Table.get_put_same _ _ _ _

theorem State.core_set_other (s : State) {c j : Nat} (x : Core) (h : j ≠ c) : (s.setCore c x).core j = s.core j := Table.get_put_other _ _ _ h
theorem State.pod_set_other (s : State) {p j : Nat} (x : Pod) (h : j ≠ p) : (s.setPod p x).pod j = s.pod j := Table.get_put_other _ _ _ h
theorem State.ch_set_other (s : State) {n j : Nat} (x : Chan) (h : j ≠ n) : (s.setCh n x).ch j = s.ch j := Table.get_put_other _ _ _ h
theorem State.bank_set_other (s : State) {b j : Nat} (x : Bank) (h : j ≠ b) : (s.setBank b x).bank j = s.bank j := Table.get_put_other _ _ _ h
theorem State.hport_set_other (s : State) {p j : Nat} (x : HostPort) (h : j ≠ p) : (s.setHport p x).hport j = s.hport j := Table.get_put_other _ _ _ h
theorem State.fport_set_other (s : State) {p j : Nat} (x : FabPort) (h : j ≠ p) : (s.setFport p x).fport j = s.fport j := Table.get_put_other _ _ _ h
theorem State.stack_set_other (s : State) {n j : Nat} (x : Stack) (h : j ≠ n) : (s.setStack n x).stack j = s.stack j := Table.get_put_other _ _ _ h

@[simp] theorem State.desc_set (s : State) (d : Nat) (x : Desc) : (s.setDesc d x).desc d = some x := Table.find_set_same _ _ _
@[simp] theorem State.extent_set (s : State) (h : Word) (e : Extent) : (s.setExtent h e).extent h = some e := Table.find_set_same _ _ _

end Sys2Proof.Machine
end

