-- ==== Sys2Proof/Laws/Ops.lean ====
section
/-! SUPPORT. What each shared operation can do, said once: the cases of a guarded operation with its guards, and
what an operation leaves alone. -/

namespace Sys2Proof.Machine

/-! ## Commands -/

/-- A step on a command is that command's meaning on the state with the rest of the queue. -/
theorem step_cons (s : State) (c : Instr) (rest : List Instr) :
    step { s with pending := c :: rest } = exec c { s with pending := rest } := rfl

/-- A guarded command of a host port runs, its guards holding, or changes nothing. -/
theorem State.onPort_cases (s : State) (p : Nat) (f : State → State) :
    (p < s.variant.hostPorts ∧ s.hostRails = true ∧ (s.hport p).perst = false ∧ s.onPort p f = f s) ∨ s.onPort p f = s := by
  unfold State.onPort
  split
  · next h => exact .inl ⟨h.1, h.2.1, by simpa using h.2.2, rfl⟩
  · exact .inr rfl

/-- Work for the active module is done, or starts a wake. -/
theorem State.whenActive_cases (s : State) (f : State → State) :
    (s.active = true ∧ s.whenActive f = f s) ∨ (s.active = false ∧ s.whenActive f = s.wake Wk.internal) := by
  unfold State.whenActive
  cases h : s.active <;> simp

/-- A wake touches the clock block only, and of it neither the count, the gates nor the module's state. -/
theorem State.wake_frame (s : State) (src : BitVec 7) :
    s.wake src = { s with clk := (s.wake src).clk } ∧ (s.wake src).clk.lcnt = s.clk.lcnt ∧
      (s.wake src).clk.gates = s.clk.gates ∧ (s.wake src).clk.mstate = s.clk.mstate := by
  unfold State.wake Clk.wake
  by_cases h : s.clk.mstate = .active
  · simp [h]
  · cases hw : s.clk.waking with
    | none => simp [h]
    | some t => by_cases ht : t = s.now + s.clk.mstate.wakeCounts <;> simp [h, ht]

/-! ## Core instructions -/

/-- An effect of an instruction takes place while no earlier MMA of its core may fault; else it takes place or waits. -/
theorem State.precise_sure {s : State} {c : Nat} (h : (s.core c).unsure = false) (t : State) : s.precise c t = t := by
  simp [State.precise, h]

theorem State.precise_cases (s : State) (c : Nat) (t : State) : s.precise c t = t ∨ s.precise c t = s := by
  unfold State.precise
  split
  · exact .inr rfl
  · exact .inl rfl

/-- An instruction that a core issues runs, faults at its fetch, or leaves the state alone. -/
theorem State.issue_cases (s : State) (c : Nat) (f : Core → State) :
    ((s.core c).ready = true ∧ s.fetchable c = true ∧ s.canIssue c = true ∧ s.issue c f = f (s.core c)) ∨
    ((s.core c).ready = true ∧ s.fetchable c = false ∧
      s.issue c f = s.fault c Fc.bounds ((s.core c).pc.setWidth 64)) ∨
    s.issue c f = s := by
  unfold State.issue
  have hp := s.precise_cases c
  cases h1 : (s.core c).ready <;> cases h2 : s.fetchable c <;> cases h3 : s.canIssue c <;> simp [hp]

/-- A core that is ready, at a PC inside its code whose line it holds, with no earlier MMA that may fault, issues. -/
theorem State.issue_runs {s : State} {c : Nat} (f : Core → State) (h1 : (s.core c).ready = true)
    (h2 : s.fetchable c = true) (h3 : s.canIssue c = true) (h4 : (s.core c).unsure = false) :
    s.issue c f = f (s.core c) := by
  simp [State.issue, State.precise, h1, h2, h3, h4]

/-- A fault changes the pods and nothing else, and of them neither the stores nor the wait queue. -/
theorem State.fault_frame (s : State) (c : Nat) (code : BitVec 8) (addr : DWord) :
    s.fault c code addr = { s with pods := (s.fault c code addr).pods } ∧
      (s.fault c code addr).pods.mem = s.pods.mem ∧ (s.fault c code addr).pods.words = s.pods.words ∧
      (s.fault c code addr).pods.pods = s.pods.pods ∧ (s.fault c code addr).pods.queue = s.pods.queue := by
  unfold State.fault
  split <;> exact ⟨rfl, rfl, rfl, rfl, rfl⟩

/-- Without a program on its pod a core's fault changes nothing. -/
theorem State.fault_idle {s : State} {c : Nat} (code : BitVec 8) (addr : DWord) (h : s.progOf (podOf c) = none) :
    s.fault c code addr = s := by simp [State.fault, h]

/-- A core instruction that names a gate runs if the program's party holds the gate and faults GATE_ACCESS if not. -/
theorem gateOp_runs {s : State} {c : Nat} {g : BitVec 8} (f : Core → State) (h1 : (s.core c).ready = true)
    (h2 : s.fetchable c = true) (h3 : s.canIssue c = true) (h4 : (s.core c).unsure = false) :
    gateOp c g s f = .next (if s.holdsGate c g then f (s.core c) else s.fault c Fc.gateAccess 0) := by
  rw [gateOp, State.issue_runs _ h1 h2 h3 h4]

/-- A chain of three checks passes where each of them does. -/
theorem checks_pass {α : Type} {p q r : Prop} [Decidable p] [Decidable q] [Decidable r] (e1 e2 e3 : BitVec 8) (x y : α) :
    ((if p then .error e1 else if q then .error e2 else if r then .error e3 else .ok x : Except (BitVec 8) α) = .ok y) ↔
      x = y ∧ ¬p ∧ ¬q ∧ ¬r := by
  by_cases hp : p <;> by_cases hq : q <;> by_cases hr : r <;> simp [hp, hq, hr]

/-- A segment check passes exactly where its three conditions hold, and then answers that segment. -/
theorem State.checkSeg_ok {s : State} {c : Nat} {a : DWord} {size align : Nat} {kinds : List (BitVec 2)} {g : Segment} :
    s.checkSeg c a size align kinds = .ok g ↔
      g = s.segOf c (segNum a) ∧ kinds.contains g.kind = true ∧ segOff a % align = 0 ∧
        (a.extractLsb' 48 12 : BitVec 12) = 0 ∧ segOff a + size ≤ g.limit.toNat := by
  unfold State.checkSeg
  rw [checks_pass, eq_comm, and_congr_right_iff]
  rintro rfl
  simp
/-- A load changes at most its core and the count of free values, or raises a fault. -/
theorem loadTo_cases (c : Nat) (a : DWord) (n : Nat) (s : State) (put : Bytes → Core) :
    (∃ e, loadTo c a n s put = s.fault c e a) ∨
    (∃ k, s.localAt c a n n localKinds = .ok k ∧ s.poisonAt k n = false ∧ ∃ v : Nat,
      loadTo c a n s put = State.setCore { s with free := v } c (put (s.loadBytes (podOf c) k n)).retire) := by
  unfold loadTo
  split
  · next e _ => exact .inl ⟨e, rfl⟩
  · next k h =>
    split
    · exact .inl ⟨Fc.poison, rfl⟩
    · next hp =>
      refine .inr ⟨k, h, by simpa using hp, ?_⟩
      simp only
      split
      · exact ⟨s.free + 1, rfl⟩
      · exact ⟨s.free, rfl⟩

/-- A store faults, waits for the matrix unit, or stores and retires. -/
theorem storeFrom_cases (c : Nat) (a : DWord) (bytes : Bytes) (s : State) :
    (∃ e, storeFrom c a bytes s = s.fault c e a) ∨ storeFrom c a bytes s = s ∨
    (∃ k, s.localAt c a bytes.length bytes.length localKinds = .ok k ∧ s.poisonAt k bytes.length = false ∧
      (s.core c).amPending k bytes.length = false ∧
      storeFrom c a bytes s = (s.setCore c (s.core c).retire).storeBytes (podOf c) k bytes) := by
  unfold storeFrom
  split
  · next e _ => exact .inl ⟨e, rfl⟩
  · next k h =>
    split
    · exact .inl ⟨Fc.poison, rfl⟩
    · split
      · exact .inr (.inl rfl)
      · next h1 h2 => exact .inr (.inr ⟨k, h, by simpa using h1, by simpa using h2, rfl⟩)

/-! ## Descriptors -/

/-- Work on a descriptor is done for a started descriptor of that opcode that has its buffer, or nothing happens. -/
theorem State.work_cases (s : State) (d op sub : Nat) (f : Desc → State) :
    (∃ x, s.desc d = some x ∧ x.phase = .started ∧ x.opcode = op ∧ x.subop = sub ∧ s.hasBuf x = true ∧
      s.work d op sub f = f x) ∨ s.work d op sub f = s := by
  unfold State.work
  split
  · exact .inr rfl
  · next x h =>
    split
    · next g => exact .inl ⟨x, h, g.1, g.2.1, g.2.2.1, g.2.2.2, rfl⟩
    · exact .inr rfl

theorem State.work_runs {s : State} {d op sub : Nat} {x : Desc} (f : Desc → State) (h : s.desc d = some x)
    (h1 : x.phase = .started) (h2 : x.opcode = op) (h3 : x.subop = sub) (h4 : s.hasBuf x = true) :
    s.work d op sub f = f x := by simp [State.work, h, h1, h2, h3, h4]

/-- Ending a descriptor changes the descriptor table and nothing else. -/
theorem State.endDesc_frame (s : State) (d : Nat) (st : Status) (d0 d1 : DWord) :
    s.endDesc d st d0 d1 = { s with chan := { s.chan with descs := (s.endDesc d st d0 d1).chan.descs } } := rfl

/-- Accesses that nothing makes wait go ahead; otherwise they wait, their writes held in order (R36). -/
theorem State.withAccess_cases (s : State) (src : Nat) (w : Who) (l : List Acc) (f : State → State) :
    (s.granting src w l = true ∧ s.withAccess src w l f = f (s.granted src w l)) ∨
      (s.granting src w l = false ∧ s.withAccess src w l f = s.waiting src w l) := by
  unfold State.withAccess
  cases h : s.granting src w l <;> simp

/-- The same where plain bytes of blocks are needed: with no husk among them no bank is (R112). -/
theorem State.withBlocks_plain {s : State} {src : Nat} {w : Who} {l : List Acc} {b : List Slot} (f : State → State)
    (h1 : s.granting src w l = true) (h2 : s.husksOf b = []) : s.withBlocks src w l b f = f (s.granted src w l) := by
  simp [State.withBlocks, State.withPlain, h1, h2]

/-- What a requester's reach to an extent can be refused with, in the order of the checks. -/
theorem State.reach_none {s : State} {g : Option Word} {h : Word} {off len : Nat} {u : Use} {wr : Bool} {at_ : Nat} :
    s.reach g h off len u wr at_ = none ↔
      ∃ e gp, s.extent h = some e ∧ g = some gp ∧
        (∀ p, e.pointFor gp = some p → at_ < p) ∧ s.mayUse e gp u at_ = true ∧ off + len ≤ e.size ∧
        ¬(wr = true ∧ e.readOnly = true) := by
  unfold State.reach
  cases he : s.extent h with
  | none => simp
  | some e =>
    cases g with
    | none => simp
    | some gp =>
      cases hp : e.pointFor gp with
      | none =>
        cases hm : s.mayUse e gp u at_ <;> by_cases hz : e.size < off + len <;> cases wr <;> cases hr : e.readOnly <;>
          simp [hp, hm, hz, hr] <;> omega
      | some p =>
        by_cases hq : p ≤ at_ <;> cases hm : s.mayUse e gp u at_ <;> by_cases hz : e.size < off + len <;> cases wr <;>
          cases hr : e.readOnly <;> simp [hp, hq, hm, hz, hr] <;> omega

/-! ## Host ports, gates, events -/

/-- An MSI-X message is dropped with MSI-X off, made pending where masked, dropped with an event where its address is
0, or sent. -/
theorem State.msix_cases (s : State) (p : Nat) (v : BitVec 11) (ch : Nat) :
    ((s.hport p).msixEn = false ∧ s.msix p v ch = s) ∨
    ((s.hport p).masked.contains v.toNat = true ∧ ∃ h : HostPort, v.toNat ∈ h.pend ∧ s.msix p v ch = s.setHport p h) ∨
    (Table.get 0 (s.hport p).vecAddr v.toNat = 0 ∧
      s.msix p v ch = s.raise 0x0101 Sev.notice Uk.hostPort p v.toNat ch 0) ∨
    s.msix p v ch = s.send (.msix p v) := by
  unfold State.msix
  dsimp only
  split
  · next h => exact .inl ⟨by simpa using h, rfl⟩
  · split
    · next h =>
      refine .inr (.inl ⟨h, _, ?_, rfl⟩)
      dsimp only
      split
      · next h => simpa using h
      · simp
    · split
      · next h => exact .inr (.inr (.inl ⟨h, rfl⟩))
      · exact .inr (.inr (.inr rfl))

/-- Additions to a gate leave its count, target and opening time as they are until the count ends. -/
theorem State.addGate_gate (s : State) (g : BitVec 8) (n : Word) :
    (s.addGate g n).gate g = { s.gate g with
      adds := (s.gate g).adds + n, wild := (s.gate g).wild || decide (2 ^ 31 ≤ n.toNat) } := by
  simp [State.addGate]

/-- Two copies that agree give a voted word's value. -/
theorem Tv.vote_all {α : Type} [DecidableEq α] (d v : α) : (Tv.all v).vote d = v := by simp [Tv.vote, Tv.all]

theorem Tv.vote_two {α : Type} [DecidableEq α] (d v : α) (t : Tv α)
    (h : (t.a = v ∧ t.b = v) ∨ (t.a = v ∧ t.c = v) ∨ (t.b = v ∧ t.c = v)) : t.vote d = v := by
  unfold Tv.vote
  rcases h with ⟨h1, h2⟩ | ⟨h1, h2⟩ | ⟨h1, h2⟩
  · simp [h1, h2]
  · simp [h1, h2]
  · by_cases h3 : t.a = t.b
    · simp [h3, h1]
    · by_cases h4 : t.a = t.c
      · rw [h4, h2, h1] at h3; exact absurd rfl h3
      · rw [if_neg h3, if_neg h4, if_pos (h1.trans h2.symm), h1]

/-- An event below MIN_SEV is only counted. -/
theorem Evt.enter_filtered {e : Evt} {a : EvIn} (h : a.sev.toNat < e.minSev.toNat) :
    e.enter a = { e with filtered := e.filtered + 1 } := by
  simp [Evt.enter, h]

/-! ## Tiers, blocks, buffers and journals -/

/-- Counting reads touches the tract table and nothing else (R40). -/
theorem State.touchAll_frame (s : State) (l : List Acc) :
    s.touchAll l = { s with place := { s.place with tracts := (s.touchAll l).place.tracts } } := by
  unfold State.touchAll
  induction l generalizing s with
  | nil => rfl
  | cons a l ih =>
    rw [List.foldl_cons, ih]
    dsimp only
    split
    · rfl
    · split <;> rfl

/-- Granted accesses change the tract table and the line of held writes (R36, R40). -/
theorem State.granted_frame (s : State) (src : Nat) (who : Who) (l : List Acc) :
    s.granted src who l = { s with place := { s.place with tracts := (s.granted src who l).place.tracts,
                                                           line := (s.granted src who l).place.line } } := by
  unfold State.granted
  dsimp only
  rw [State.touchAll_frame]

/-- Replacing a block's word moves its reference in the table store and changes nothing else (R78). -/
theorem State.moveRef_frame (s : State) (old new : Word) : s.moveRef old new = { s with comp := (s.moveRef old new).comp } := by
  unfold State.moveRef
  dsimp only
  split <;> split <;> rfl

/-- Writing a block changes its word, its bytes and the references, and nothing else. -/
theorem State.putBlk_frame (s : State) (h : Word) (blk : Nat) (w : Word) (bytes : Bytes) :
    s.putBlk h blk w bytes = { s with comp := (s.moveRef (s.blkMeta h blk) w).comp
                                      ten := { s.ten with metas := Table.put rawMeta s.ten.metas (extBlkKey h blk) w
                                                          mem := (s.putBlk h blk w bytes).ten.mem } } := by
  unfold State.putBlk
  dsimp only
  rw [State.moveRef_frame]

/-- Giving a buffer touches channels, descriptors and, where it is given to a journal, the journals (R224). -/
theorem State.giveBuf_frame (s : State) (ch : Nat) (who : Option Nat) :
    s.giveBuf ch who = { s with chan := (s.giveBuf ch who).chan, evt := (s.giveBuf ch who).evt } := by
  cases who <;> rfl

/-- So does asking for one. -/
theorem State.askBuf_frame (s : State) (ch : Nat) (who : Option Nat) :
    s.askBuf ch who = { s with chan := (s.askBuf ch who).chan, evt := (s.askBuf ch who).evt } := by
  have key : ∀ t : State, t.grantOne ch = { t with chan := (t.grantOne ch).chan, evt := (t.grantOne ch).evt } := by
    intro t
    unfold State.grantOne
    split
    · exact State.giveBuf_frame _ _ _
    · rfl
  unfold State.askBuf
  generalize ({ s.ch ch with asks := (s.ch ch).asks ++ [(s.now, who)] } : Chan) = x
  dsimp only
  split
  · exact key _
  · rfl

/-- A journal entry touches its channel's journal and buffers (R464, R465). -/
theorem State.jrn_frame (s : State) (ch type units lcnt : Nat) (who : Option (Nat × BitVec 6)) (body : Bytes) :
    s.jrn ch type units lcnt who body = { s with chan := (s.jrn ch type units lcnt who body).chan,
                                                 evt := (s.jrn ch type units lcnt who body).evt } := by
  unfold State.jrn State.jrnAsk
  dsimp only
  split
  · split
    · exact State.askBuf_frame _ _ _
    · rfl
  · rfl

/-- So do the entries of ARMs or commits that meet (R464). -/
theorem State.jrnMeet_frame (s : State) (point : Nat) (l : List (Nat × Nat)) :
    s.jrnMeet point l = { s with chan := (s.jrnMeet point l).chan, evt := (s.jrnMeet point l).evt } := by
  unfold State.jrnMeet
  dsimp only
  split
  · rfl
  · generalize (List.map Prod.fst l).eraseDups = c
    have step : ∀ (z : List ((Nat × Nat) × Nat)) (st : State),
        z.foldl (fun (st : State) e => st.jrn e.1.1 4 1 s.now (s.descOf e.1.2)
          (leBytes 1 point ++ leBytes 1 e.2 ++ leBytes 2 (c.length - 1) ++ leBytes 8 e.1.2)) st =
        { st with chan := (z.foldl (fun (st : State) e => st.jrn e.1.1 4 1 s.now (s.descOf e.1.2)
                    (leBytes 1 point ++ leBytes 1 e.2 ++ leBytes 2 (c.length - 1) ++ leBytes 8 e.1.2)) st).chan
                  evt := (z.foldl (fun (st : State) e => st.jrn e.1.1 4 1 s.now (s.descOf e.1.2)
                    (leBytes 1 point ++ leBytes 1 e.2 ++ leBytes 2 (c.length - 1) ++ leBytes 8 e.1.2)) st).evt } := by
      intro z
      induction z with
      | nil => intro st; rfl
      | cons e z ih =>
        intro st
        rw [List.foldl_cons, ih]
        dsimp only
        rw [State.jrn_frame]
    exact step _ s

/-! ## Reserve and reset -/

/-- Changing a tier's reserve changes the registers of REL only (R406, R418). -/
theorem State.setReserve_frame (s : State) (t : Tier) (n : Nat) :
    s.setReserve t n = { s with rel := (s.setReserve t n).rel } := by
  have key : ∀ (u : State), u.markTier t = { u with rel := (u.markTier t).rel } := by
    intro u
    unfold State.markTier
    split
    · rfl
    · cases t <;> rfl
  unfold State.setReserve
  rw [key]
  cases t <;> rfl

/-- Retirements dropped at a reset give back reserve and change nothing else. -/
theorem State.dropRetires_frame (s : State) (t : Tier) :
    s.dropRetires t = { s with rel := (s.dropRetires t).rel } := by
  unfold State.dropRetires
  dsimp only
  split
  · rfl
  · exact State.setReserve_frame _ _ _

end Sys2Proof.Machine
end

