-- ==== Sys2Proof/Laws/Parity.lean ====
section
/-! SUPPORT. Laws of the layout and the parity code: consecutive blocks lie on distinct stacks, and what a rebuild from
P gives is the slot itself. -/

namespace Sys2Proof.Machine

/-- The XOR of all but one, XORed with the XOR of all, is the one. -/
theorem xorAll_except {w : Nat} (f : Nat → BitVec w) (i : Nat) (l : List Nat) (hn : l.Nodup) (hi : i ∈ l) :
    xorAll (l.map f) ^^^ xorAll ((l.filter (fun k => decide (k ≠ i))).map f) = f i := by
  induction l with
  | nil => cases hi
  | cons a r ih =>
    obtain ⟨ha, hr⟩ := List.nodup_cons.mp hn
    by_cases h : a = i
    · subst h
      have hf : (a :: r).filter (fun k => decide (k ≠ a)) = r := by
        rw [List.filter_cons_of_neg (by simp)]
        exact List.filter_eq_self.mpr (fun k hk => decide_eq_true (fun e => ha (e ▸ hk)))
      rw [hf]
      simp only [List.map_cons, xorAll, List.foldr_cons]
      rw [BitVec.xor_assoc, BitVec.xor_self, BitVec.xor_zero]
    · have hm : i ∈ r := by
        cases hi with
        | head => exact absurd rfl h
        | tail _ m => exact m
      have := ih hr hm
      simp only [List.filter_cons, ne_eq, h, not_false_eq_true, decide_true, if_true, List.map_cons, xorAll,
        List.foldr_cons] at this ⊢
      rw [BitVec.xor_assoc, ← BitVec.xor_assoc _ (f a), BitVec.xor_comm _ (f a), BitVec.xor_assoc,
        ← BitVec.xor_assoc (f a) (f a), BitVec.xor_self, BitVec.zero_xor]
      exact this

/-- A slot rebuilt from P is the slot (R404). -/
theorem rebuiltSlot_eq (s : State) (t : Tier) (n i : Nat) (h : i < groupTracts s.variant t) :
    s.rebuiltSlot t n i = s.dataSlot t n i :=
  xorAll_except _ i _ List.nodup_range (List.mem_range.mpr h)

/-- A metadata word rebuilt from P is the word (R59). -/
theorem rebuiltWord_eq (s : State) (t : Tier) (n i : Nat) (h : i < groupTracts s.variant t) :
    s.rebuiltWord t n i = s.dataWord t n i :=
  xorAll_except _ i _ List.nodup_range (List.mem_range.mpr h)

/-- Places of a run of blocks as long as a stripe that starts at position `j` of stripe `n`. -/
def runPlaces (v : Variant) (t : Tier) (n j : Nat) : List Nat :=
  (dataAt v t n).drop j ++ (dataAt v t (n + 1)).take j

/-- No two of a list are equal. -/
def distinct : List Nat → Bool
  | [] => true
  | a :: r => !(r.contains a) && distinct r

/-- Consecutive blocks lie on distinct stacks, whatever position the run starts at (R22): near tier. -/
theorem near_run_distinct : [Variant.t, .s, .e].all (fun v => (List.range 12).all (fun n => (List.range 12).all (fun j =>
    distinct (runPlaces v .near n j) && (dataAt v .near n).length == groupTracts v .near))) = true := by decide +kernel

/-- Consecutive blocks lie on distinct stacks: deep tier, at the turns of the parity places. -/
theorem deep_run_distinct : [0, 15, 16, 31].all (fun n => (List.range 30).all (fun j =>
    distinct (runPlaces .t .deep n j) && (dataAt .t .deep n).length == 30)) = true := by decide +kernel

end Sys2Proof.Machine
end

