-- ==== Sys2Proof/Tests/Slice0.lean ====
section
/-! SUPPORT. Tests: an ill-formed command for each check of WellFormed, core instruction words of the manual's encoding
tables, single steps with results worked out from the manual, and for every obligation with hypotheses a concrete state and
operands that meet them (`witness_<obligation>`). -/

namespace Sys2Proof.Tests

set_option Elab.async false

open Sys2Proof Sys2Proof.Machine Sys2Proof.Claims

/-! ## Well-formedness refuses -/

theorem wf_pod : (Instr.podReset 100).wf .t = false ∧ (Instr.podReset 99).wf .t = true ∧ (Instr.podReset 50).wf .s = false := by decide
theorem wf_core : (Instr.halt 800).wf .t = false ∧ (Instr.halt 799).wf .t = true := by decide
theorem wf_stack : (Instr.rebuildEnd 48).wf .t = false ∧ (Instr.rebuildEnd 47).wf .t = true ∧ (Instr.rebuildEnd 16).wf .s = false := by decide
theorem wf_host_port : (Instr.hotReset 4).wf .t = false ∧ (Instr.hotReset 2).wf .e = false ∧ (Instr.hotReset 1).wf .e = true := by decide
theorem wf_fab_port : (Instr.sleepReq 16).wf .t = false ∧ (Instr.sleepReq 8).wf .s = false ∧ (Instr.sleepReq 7).wf .s = true := by decide
theorem wf_side : (Instr.inputStuck 7).wf .t = false ∧ (Instr.inputStuck 6).wf .t = true ∧ (Instr.inputStuck 5).wf .e = false := by decide
theorem wf_bank : (Instr.slotFillEnd (.pod 200) 0).wf .t = false ∧ (Instr.slotFillEnd (.egress 8) 0).wf .t = false ∧
    (Instr.slotFillEnd (.egress 7) 0).wf .t = true := by decide
theorem wf_engine : (Instr.encoderBlockEnd 16).wf .t = false ∧ (Instr.encoderBlockEnd 15).wf .t = true := by decide
theorem wf_unit : (Instr.unitResetEnd .mover 64).wf .t = false ∧ (Instr.unitResetEnd .pip 1).wf .t = false ∧
    (Instr.unitResetEnd .egress 7).wf .t = true := by decide
theorem wf_pc : (Instr.pcRetrain 0 32).wf .t = false ∧ (Instr.pcRetrain 16 8).wf .t = false ∧ (Instr.pcRetrain 16 7).wf .t = true := by decide
theorem wf_dram_bank : (Instr.refresh 0 0 64).wf .t = false ∧ (Instr.refresh 0 0 63).wf .t = true := by decide
theorem wf_sector : (Instr.mergeHoldExpiry 0 0 64).wf .t = false ∧ (Instr.mergeHoldExpiry 0 0 63).wf .t = true := by decide
theorem wf_source : (Instr.stackRequestComplete 0 23).wf .t = false ∧ (Instr.stackRequestComplete 0 22).wf .t = true := by decide

/-! ## Core instruction words, written out bit by bit from R131 to R156 -/

/-- Words written out from R131 to R156: the word, and the instruction core `c` finds in it. -/
def sampleWords : List (Word × (Nat → Instr)) :=
  [(0x04221800, fun c => .add c 1 2 3), (0x04221801, fun c => .sub c 1 2 3), (0x04220018, fun c => .clz c 1 2),
   (0x08840100, fun c => .addi c 4 4 0x100), (0x2460BEEF, fun c => .movz c 3 0 0xBEEF), (0x2863BEEF, fun c => .movk c 3 3 0xBEEF),
   (0x40A66008, fun c => .ld c 5 6 3 8), (0x5100C001, fun c => .tld c 2 0 6 1), (0x58221801, fun c => .amoswap c 1 2 3),
   (0x6041FFFF, fun c => .beq c 2 1 0xFFFF), (0x78000010, fun c => .jal c 0x10), (0x80221800, fun c => .vadd c 1 2 3),
   (0x84221902, fun c => .vfma c 1 2 3 4 2), (0x8C221807, fun c => .isrl c 1 2 3), (0x90221A05, fun c => .vcvt c 1 2 3 8 5),
   (0x94220000, fun c => .fsum c 1 2), (0x98221803, fun c => .vins c 1 2 3), (0xA010004F, fun c => .mma c 0 4 0 0 2 false true true true true),
   (0xA4000001, fun c => .trdr c 0 0 0), (0xA8200002, fun c => .spop c 1), (0xB0222000, fun c => .bget c 1 2 4),
   (0xC0000902, fun c => .gcomp c 9), (0xC4000001, fun c => .halt c), (0xC8200020, fun c => .csrr c 1 0x20)]

/-- Words that R130 makes ILLEGAL: an undefined major opcode or func, a reserved field that is not 0. -/
def illegalWords : List Word :=
  [0x00000000, 0xFFFFFFFF, 0x04221818, 0x04221813, 0x2470BEEF, 0x5140C001, 0x58221806, 0x80221841, 0x84221906, 0xA4000011,
   0xA8000004, 0xB0221908, 0xC0000907, 0xC4000101, 0xC8210020]

theorem test_words_decode : sampleWords.all (fun e => decide (decodeCore 5 e.1 = some (e.2 5))) = true := by decide +kernel
theorem test_illegal_words : illegalWords.all (fun w => decide (decodeCore 5 w = none)) = true := by decide +kernel

/-- An Except that reads as this value is it. -/
theorem okOf {α ε : Type} {x : Except ε α} {k : α} (h : x.toOption = some k) : x = .ok k := by
  cases x with
  | error e => cases h
  | ok v => cases h; rfl

/-! ## Worked examples of the manual -/

/-- The example after R177: 10.4, X = 128 and a generator that holds 0: stochastic rounding gives the code 6, nearest 7. -/
theorem test_stochastic_example : rngNext 0 = 0x14057B7EF767814F ∧ rngDraw (rngNext 0) = 0x14057B ∧
    narrow 5 128 (.stoch (rngDraw (rngNext 0))) 0x41266666 = (6, 1) ∧ narrow 5 128 .near 0x41266666 = (7, 1) ∧
    (widen 5 128 6).bits = 0x41000000 ∧ (widen 5 128 7).bits = 0x41400000 := by decide +kernel

/-! ## A pod whose core 3 runs -/

/-- Segments: 0 in the core's scratch, 1 in the pod's shared area, each of 64 KiB. -/
def segs : Table Segment := [(0, { kind := 1, base := 0, limit := 65536 }), (1, { kind := 2, base := 0, limit := 65536 })]

/-- Scalars 1 to 7: a scratch address, a shared one, the last doubleword, vector and tile of segment 0, a number below 0, one
misaligned. -/
def coreRun : Core :=
  { running := true, pc := 64, ibuf := [0]
    s := [(1, 0x1000), (2, 0x1000000000000040), (3, 65528), (4, 65472), (5, 64512), (6, 0xFFFFFFFFFFFFFFF0), (7, 0x1001)] }

/-- A program of one pod, loaded at pod 0. -/
def prog0 : Program :=
  { desc := 0, chan := 2, party := 5, cls := 0, pods := 1, image := 1, page := 0, codeBytes := 4096, entry := 0, args := []
    saveScratch := 0, saveShared := 0, ctx := none, segs := [], state := .running, on := [0] }

def coreAt (x : Core) : State :=
  { State.reset with
    power := { State.reset.power with boot := .ready }
    pods := { cores := [(3, x)], pods := [(0, { state := .running, prog := some 0, party := some 5, segs := segs })]
              programs := [(0, prog0)] } }

def cs : State := coreAt coreRun

theorem witness_ScalarAluResults : Issues cs 3 ∧ (191#16).toNat < 192 ∧ 192 ≤ (192#16).toNat := by unfold Issues; decide +kernel

theorem witness_BranchesAndJumps : Issues cs 3 ∧ (sr cs 3 1 + BitVec.ofInt 64 (0x7FFF#16).toInt).toNat < 2 ^ 32 := by
  unfold Issues; decide +kernel

/-- Where an access of core 3 lands. -/
theorem lands {a : DWord} {n al k : Nat} (h : (cs.localAt 3 a n al [1, 2]).toOption = some k) : LandsAt cs 3 a n al k := okOf h

theorem witness_LoadResults : Issues cs 3 ∧
    LandsAt cs 3 (ea cs 3 3 0 (size 3)) (size 3) (size 3) 851960 ∧ Calm cs 3 851960 (size 3) ∧ Meant cs 851960 (size 3) ∧
    LandsAt cs 3 (ea cs 3 4 0 64) 64 64 851904 ∧ Calm cs 3 851904 64 ∧ Meant cs 851904 64 ∧
    LandsAt cs 3 (ea cs 3 5 0 64) 1024 64 850944 ∧ Calm cs 3 850944 1024 ∧ Meant cs 850944 1024 ∧ (∀ o ∈ (cs.core 3).mu, o.td ≠ 0) := by
  unfold Issues Calm Meant
  refine ⟨?_, lands ?_, ?_, ?_, lands ?_, ?_, ?_, lands ?_, ?_⟩ <;> decide +kernel

theorem witness_StoreResults : Issues cs 3 ∧
    LandsAt cs 3 (ea cs 3 3 0 (size 3)) (size 3) (size 3) 851960 ∧ LandsAt cs 3 (ea cs 3 4 0 64) 64 64 851904 ∧
    LandsAt cs 3 (ea cs 3 5 0 64) 1024 64 850944 ∧ Calm cs 3 851960 (size 3) ∧ Calm cs 3 851904 64 ∧ Calm cs 3 850944 1024 ∧
    (∀ o ∈ (cs.core 3).mu, o.td ≠ 0) ∧ (cs.core 3).amPending 850944 1024 = false ∧ (cs.core 3).amPending 851904 64 = false ∧
    (cs.core 3).amPending 851960 (size 3) = false ∧ Still cs 3 850944 1024 ∧ Still cs 3 851904 64 ∧ Still cs 3 851960 (size 3) := by
  unfold Issues Calm Still
  refine ⟨?_, lands ?_, lands ?_, lands ?_, ?_⟩ <;> decide +kernel

theorem witness_AtomicResults : Issues cs 3 ∧ cs.localAt 3 (sr cs 3 2) 8 8 [2] = .ok 2097216 ∧ Calm cs 3 2097216 8 ∧ Meant cs 2097216 8 ∧
    Still cs 3 2097216 8 := by
  unfold Issues Calm Meant Still
  refine ⟨?_, okOf ?_, ?_⟩ <;> decide +kernel

/-- A fault is the error read. -/
theorem errOf {α ε : Type} {x : Except ε α} {e : ε} (h : (match x with | .ok _ => none | .error e => some e) = some e) : x = .error e := by
  cases x with
  | error e => cases h; rfl
  | ok v => cases h

/-- As `cs`, with the first position of core 3's scratch poisoned. -/
def csPoison : State := { cs with pods := { cs.pods with words := [(193, mkMeta 0 true 0x3F)] } }


/-! ## Vector and matrix instructions -/

theorem witness_LaneResults : Issues cs 3 := by unfold Issues; decide +kernel

/-- A positive value is its significand times its power of two. -/
theorem is32_pos {a : F32} {m : Nat} {e : Int} (h : f32 a = .fin false m e) : Is32 a m e := ⟨false, m, h, rfl⟩

/-- 2^−149, 2^127 and 3: the smallest and a large finite value, and one that has no exact reciprocal. -/
theorem witness_ApproxLaneResults : Issues cs 3 ∧ (f32 0x7F800001).isNan = true ∧
    Is32 0x40400000 12582912 (-22) ∧ (12582912 : Int) ≠ 0 ∧ (f32 (fdiv 0x3F800000 0x40400000).bits).isInf = false := by
  unfold Issues
  exact ⟨by decide +kernel, by decide +kernel, is32_pos (by decide +kernel), by decide, by decide +kernel⟩

/-- 1 + 2^−24, whose sum rounds; and a NaN. -/
theorem witness_AddNearest : Is32 0x3F800000 8388608 (-23) ∧ Is32 0x33800000 8388608 (-47) ∧
    Is32 (fadd 0x3F800000 0x33800000).bits 8388608 (-23) ∧ (f32 0x7F800001).isNan = true :=
  ⟨is32_pos (by decide +kernel), is32_pos (by decide +kernel), is32_pos (by decide +kernel), by decide +kernel⟩

/-- FP32 to BF16 into part 1, to E4M3 into part 3 (the last of each), back, and an undefined pair of formats. -/
theorem witness_ConversionResults : Issues cs 3 ∧ (1#3) ≠ 0 ∧ vcvtOk 0 1 (BitVec.ofNat 6 (1#3).toNat) = true ∧
    vcvtOk 0 2 (BitVec.ofNat 6 (1#3).toNat) = false ∧ vcvtOk 0 1 (BitVec.ofNat 6 (8 * (1#3).toNat)) = true ∧ vcvtOk 0 0 9 = false := by
  unfold Issues; decide +kernel

/-- As `cs`, lane 15 of v2 holding 3 and the rest +0. -/
def csLane : State := coreAt { coreRun with v := [(2, 0x40400000#512 <<< 480)] }

theorem witness_MovesAndReductions : Issues cs 3 ∧ (15#5).toNat < 16 ∧ Issues csLane 3 ∧ Is32 (ln (vr csLane 3 2) 15) 12582912 (-22) ∧
    (∀ k, k < 16 → k ≠ 15 → ln (vr csLane 3 2) k = 0) := by
  unfold Issues
  exact ⟨by decide +kernel, by decide, by decide +kernel, is32_pos (by decide +kernel), by decide +kernel⟩

/-- An INT8 operation that streams its B, one whose A lies in scratch, and others. -/
def mop (k : MatrixKind) (fmt : BitVec 3) (sb : Bool) (a : Option Nat) (started : Bool) : MatrixOp :=
  { kind := k, td := 1, fmt := fmt, a := 0, b := 0, vs := 0, m := false, sb := sb, tb := false, z := true, aAddr := a, pc := 64
    started := started }

/-- Core 3 with an operation in its unit and a stream of one block, read to its last 256 bytes. -/
def csUnit (o : MatrixOp) : State :=
  coreAt { coreRun with mu := [o], stream := some { next := 0, blocks := 0, left := 256, pos := 3840 }
                        obuf := [List.replicate 256 7], taken := 0 }

/-- Core 3 with a streamed operation in its unit and no readable byte, its next block stopped by fault 0x10 or still queued. -/
def csStopped (ph : BankPhase) : State :=
  let s := coreAt { coreRun with mu := [mop .mma 4 true none false], stream := some { next := 0, blocks := 0, left := 0, pos := 4096 } }
  { s with comp := { s.comp with banks := [(0, { queue := [{ owner := 3, addr := 786432, word := 0, phase := ph }] })] } }

theorem witness_MatrixOperationsRun :
    (let has := fun o => ((csUnit o).core 3).mu = [o]
     has (mop .mma 4 false none false) ∧ has (mop .mma 4 false (some 786432) false) ∧
     (csUnit (mop .mma 4 false (some 786432) false)).racy 0 786432 (fmtBytes 4) = false ∧
     Meant (csUnit (mop .mma 4 false (some 786432) false)) 786432 (fmtBytes 4) ∧
     has (mop .mma 4 true none false) ∧
     ((csUnit (mop .mma 4 true none false)).core 3).obuf = [List.replicate 256 7] ∧
     ((csUnit (mop .mma 4 true none false)).core 3).taken + fmtBytes 4 ≤ (List.replicate 256 (7#8)).length ∧
     ((csStopped .queued).core 3).mu = [mop .mma 4 true none false] ∧ ((csStopped .queued).core 3).obuf = [] ∧
     (csStopped .queued).streamStop 3 = none ∧ (csStopped (.stopped 0x10)).streamStop 3 = some 0x10 ∧
     has (mop .tzero 0 false none true) ∧ has (mop .trsc 0 false none true) ∧ has (mop .mma 6 false none true) ∧
     has (mop .mma 5 false none true)) := by
  unfold Meant; decide +kernel

theorem witness_AccessFaults : Issues cs 3 ∧ (6#3).toNat < 7 ∧ cs.localAt 3 (ea cs 3 7 0 (size 1)) (size 1) (size 1) [1, 2] = .error 0x02 ∧
    cs.localAt 3 (ea cs 3 3 1 (size 3)) (size 3) (size 3) [1, 2] = .error 0x03 ∧ cs.localAt 3 (sr cs 3 1) 8 8 [2] = .error 0x04 ∧
    Issues csPoison 3 ∧ LandsAt csPoison 3 (ea csPoison 3 1 0 (size 3)) (size 3) (size 3) 790528 ∧
    csPoison.poisonAt 790528 (size 3) = true ∧ cs.progOf (podOf 3) = some (0, prog0) ∧ ((csStopped .queued).core 3).unsure = true := by
  unfold Issues
  refine ⟨?_, ?_, errOf ?_, errOf ?_, errOf ?_, ?_, okOf ?_, ?_⟩ <;> decide +kernel

/-- An INT-free operation on zeros: its terms are all +0, and their sum is finite whatever the implementation's candidate is. -/
def zeroOp : MatrixOp := mop .mma 1 false none true

/-- A term that is +0. -/
def PlusZero (x : Fv) : Prop := ∃ e, x = .fin false 0 e

theorem plusZero_add {x y : Fv} (hx : PlusZero x) (hy : PlusZero y) : Fv.add x y = .fin false 0 0 := by
  obtain ⟨e, rfl⟩ := hx
  obtain ⟨e', rfl⟩ := hy
  simp [Fv.add, Fv.dy, Dy.add, Dy.at]

theorem plusZero_nearest (p q : Nat) : PlusZero ((wideFmt p q).nearest (.fin false 0 0)) := by
  have h0 : ((wideFmt p q).round .near 0 0).mag = 0 := by simp [Fmt.round]
  simp only [Fmt.nearest, h0, Nat.not_lt_zero, if_false]
  simp [PlusZero, Fmt.decode, Fmt.signed, wideFmt, natOf, bitOf]

theorem plusZero_getD {l : List Fv} (h : ∀ x ∈ l, PlusZero x) (i : Nat) : PlusZero (l.getD i (.fin false 0 0)) := by
  rw [List.getD_eq_getElem?_getD]
  cases hi : l[i]? with
  | none => exact ⟨0, rfl⟩
  | some x => exact h x (List.mem_of_getElem? hi)

theorem plusZero_sumBy (plan : Nat → SumStep) (n : Nat) (l : List Fv) (h : ∀ x ∈ l, PlusZero x) : PlusZero (sumBy plan n l) := by
  have head : ∀ l : List Fv, (∀ x ∈ l, PlusZero x) → PlusZero (l.headD (.fin false 0 0)) := fun l h => by
    cases l with
    | nil => exact ⟨0, rfl⟩
    | cons x r => exact h x (by simp)
  induction n generalizing l with
  | zero => exact head l h
  | succ n ih =>
    rw [sumBy]
    split
    · exact head l h
    · have rest : ∀ i, ∀ x ∈ l.eraseIdx i, PlusZero x := fun i x hx => h x (List.mem_of_mem_eraseIdx hx)
      apply ih
      intro x hx
      rcases List.mem_cons.mp hx with rfl | hx
      · rw [plusZero_add (plusZero_getD h _) (plusZero_getD (rest _) _)]; exact plusZero_nearest _ _
      · exact rest _ x (List.mem_of_mem_eraseIdx hx)

theorem zero_sum_finite (plan : Nat → SumStep) : ∃ n e, Is32 (fsumAny (terms zeroOp 0 15 15) false plan).bits n e := by
  have hn : (terms zeroOp 0 15 15).any Fv.isNan = false := by decide +kernel
  have hz : ∀ x ∈ terms zeroOp 0 15 15, PlusZero x := by
    have : ∀ x ∈ terms zeroOp 0 15 15, x = .fin false 0 x.dy.e := by decide +kernel
    exact fun x hx => ⟨_, this x hx⟩
  obtain ⟨e, he⟩ := plusZero_sumBy plan ((terms zeroOp 0 15 15).length - 1) _ hz
  have hb : (Fv.to32 (.fin false 0 e)).bits = 0 := by simp [Fv.to32, round32, Fmt.round, Fmt.signed, natOf]
  have hf : f32 0 = .fin false 0 (-149) := by decide +kernel
  refine ⟨0, -149, false, 0, ?_, rfl⟩
  simp only [fsumAny, hn, he, hb, hf, Bool.false_eq_true, if_false]
  split
  · exact hf
  · decide +kernel

theorem witness_MatrixAccuracy : zeroOp.kind = .mma ∧ zeroOp.fmt ≠ 4 ∧ zeroOp.fmt ≠ 6 ∧ zeroOp.fmt ≠ 7 ∧
    (∀ x ∈ terms zeroOp 0 15 15, x.isNan = false ∧ x.isInf = false) ∧ ∃ n e, Is32 (cell (zeroOp.result 0 0).1 15 15) n e := by
  refine ⟨by decide, by decide, by decide, by decide, by decide +kernel, ?_⟩
  have h : cell (zeroOp.result 0 0).1 15 15 = (zeroOp.element (lane (tileRow 0 15) 15) 15 15 (mmaPlan 0 (16 * 15 + 15))).bits := by
    show lane (tileRow (ofRows _ 16) 15) 15 = _
    rw [tileRow_ofRows _ _ (by decide), lane_lanes _ _ (by decide)]
  have hv : (List.range 16).any (zeroOp.invalid 15 15) = false := by decide +kernel
  have he : zeroOp.element (lane (tileRow 0 15) 15) 15 15 (mmaPlan 0 (16 * 15 + 15)) =
      fsumAny (terms zeroOp 0 15 15) ((List.range 16).any (zeroOp.invalid 15 15)) (mmaPlan 0 (16 * 15 + 15)) := by
    have hc : ¬ 6 ≤ mmaCode zeroOp.fmt := by decide
    have hz : zeroOp.z = true := rfl
    unfold MatrixOp.element terms
    simp only [if_neg hc, hz, if_true]
  rw [h, he, hv]
  exact zero_sum_finite _

theorem witness_MatrixOperationsIssue : Issues (csUnit (mop .mma 4 true none true)) 3 ∧
    MmaReady (csUnit (mop .mma 4 true none true)) 3 0 0 0 4 false true false 0 ∧ Issues cs 3 ∧
    MmaReady cs 3 1 0 0 4 false false true 790528 ∧ (cs.core 3).mu.length < 2 ∧ mmaOk 0 0 0 7 false false false = false ∧
    mmaOk 0 0 0 4 false true false = true ∧ (cs.core 3).stream = none ∧ (∀ o ∈ (cs.core 3).mu, o.td ≠ 1) ∧
    (∃ o ∈ ((csUnit (mop .mma 4 true none true)).core 3).mu, o.td = 1) := by
  have streams : MmaReady (csUnit (mop .mma 4 true none true)) 3 0 0 0 4 false true false 0 :=
    ⟨by decide +kernel, by decide +kernel, fun h => absurd h (by decide), fun _ => ⟨_, rfl, by decide, by decide⟩⟩
  have inScratch : MmaReady cs 3 1 0 0 4 false false true 790528 :=
    ⟨by decide +kernel, by decide +kernel, fun _ => ⟨okOf (by decide +kernel), by decide +kernel⟩, fun h => absurd h (by decide)⟩
  unfold Issues
  refine ⟨?_, streams, ?_, inScratch, ?_⟩ <;> decide +kernel

/-! ## Streams, block requests, synchronization, system instructions -/

/-- An extent of party 5, and the module's tables that the tests of this group use. -/
def extentOf (k : ExtKind) : Extent := { word := Tv.all { owner := some 5, kind := k, state := .owned }, units := 1 }

/-- Core 3 of a program of party 5, with a segment in extent 1, whose last block is block 31,999. -/
def csBlk (x : Core) : State :=
  let s := coreAt x
  { s with
    pods := { s.pods with pods := [(0, { state := .running, prog := some 0, party := some 5
                                         segs := segs ++ [(2, { kind := 3, base := 0, limit := 65536, handle := 1 })] })] }
    ten := { parties := [(5, { gpid := Tv.all 77, k1 := 0, k2 := 0 })], extents := [(1, extentOf .pinnedNear)], nextHandle := 2 }
    comp := { tables := [(7, { owner := 5, list := [], loadRef := true, refs := 0 })] }
    clk := { lcnt := 1000, gates := [(9, { owner := some 5, c := 4 })] } }

/-- A local address of segment 0 at 4096 × 15, one of segment 2 at the same offset, and a count of 1 for table 7 (with and
without BPUTE's fields). -/
def coreBlk : Core :=
  { coreRun with s := [(1, 0xF000), (2, 0x200000000000F000), (3, 1), (4, 0x70001), (5, 0xFFFFFFFF), (6, 4), (7, 5), (8, 1000)] }

def cb : State := csBlk coreBlk

/-- The open stream of `csUnit`. -/
def lastOperand : Stream := { next := 0, blocks := 0, left := 256, pos := 3840 }

theorem witness_StreamInstructions :
    (let u := csUnit (mop .mma 4 false none true)
     Issues cb 3 ∧ (sr cb 3 3).toNat = 1 ∧ RunIn cb 3 (sr cb 3 1) 1 [1, 2] { kind := 1, limit := 65536 } ∧
     StreamIdle cb 3 ∧ sr cb 3 0 = 0 ∧ (cb.core 3).stream = none ∧
     Issues u 3 ∧ (u.core 3).stream = some lastOperand ∧ 64 ≤ lastOperand.left ∧ lastOperand.pos % 64 = 0 ∧
     (∀ o ∈ (u.core 3).mu, o.sb = true → o.started = true) ∧ (u.core 3).obuf = [List.replicate 256 7] ∧
     (u.core 3).taken + 64 ≤ (List.replicate 256 (7#8)).length) := by
  unfold Issues RunIn StreamIdle; decide +kernel

/-- A request of one block at the last position of the core's scratch segment. -/
def blk (k : BlkKind) : BlkReq :=
  { kind := k, addr := 3 * 262144 + 61440, handle := 1, blk := 15, count := 1, tableId := 7, left := 0, done := false, pc := 64, order := 0, issued := 0 }

/-- As `cb`, with a BPUTE's context 3 named in s4 as well. -/
def cbHctx : State := csBlk { coreBlk with s := [(1, 0xF000), (2, 0x200000000000F000), (4, 0x31000070001)] }

/-- Core 3 of a pod with one request outstanding. -/
def asking (k : BlkKind) : State := csBlk { coreBlk with blks := [blk k] }

theorem witness_BlockRequests :
    (Issues cb 3 ∧ Issues cbHctx 3 ∧ (cbHctx.hctxOf 3).owner = none ∧
     cb.table 7 = some { owner := 5, list := [], loadRef := true, refs := 0 } ∧ (elemShape 0).isSome = true ∧
     mwTag (cb.posWord 847872) = 0x3F ∧ mwPoison (cb.posWord 847872) = false) ∧
    BlkReady cb 3 5 (sr cb 3 1) (sr cb 3 2) (sr cb 3 3) 0xFFFF { kind := 1, limit := 65536 } { kind := 3, limit := 65536, handle := 1 } ∧
    BlkReady cb 3 5 (sr cb 3 1) (sr cb 3 2) (sr cb 3 4) 0xFF1FFFFFFFFF { kind := 1, limit := 65536 } { kind := 3, limit := 65536, handle := 1 } ∧
    BlkReady cbHctx 3 5 (sr cbHctx 3 1) (sr cbHctx 3 2) (sr cbHctx 3 4) 0xFF1FFFFFFFFF { kind := 1, limit := 65536 } { kind := 3, limit := 65536, handle := 1 } ∧
    (∀ k ∈ [BlkKind.get, .put, .pute], ((asking k).core 3).blks = [blk k] ∧ ((asking k).core 3).gwait = [] ∧
      (asking k).granting srcPods (.block 3 0) (blk k).accs = true) ∧
    (asking .put).readOnly 1 = false ∧ (blk .put).addr % 4096 = 0 := by
  unfold Issues BlkReady RunIn
  refine ⟨?_, ?_, ?_, ?_, ?_, ?_⟩ <;> decide +kernel

/-- Core 3 at the first barrier of the mask 8, and one that waits for a gate's count or for LCNT 0. -/
def atBarrier : State := csBlk { coreBlk with wait := .pbar 8 1, pbars := [(8, 1)] }

theorem waits_for_zero : (sr cb 3 0).toNat ≤ (cb.lcntOf 0).toNat := by
  have h : sr cb 3 0 = 0 := by decide +kernel
  rw [h]
  exact Nat.zero_le _

theorem witness_Synchronization :
    Issues cb 3 ∧ MayName cb 3 9 ∧ ¬ MayName cb 3 10 ∧ (cb.gate 9).wild = false ∧ (cb.core 3).blks = [] ∧ (cb.core 3).gwait = [] ∧
    Reached cb 9 ((sr cb 3 6).setWidth 32) ∧ ¬ Reached cb 9 ((sr cb 3 7).setWidth 32) ∧ (sr cb 3 0).toNat ≤ (cb.lcntOf 0).toNat ∧
    ((csBlk { coreBlk with wait := .gwaitc 9 4 }).core 3).wait = .gwaitc 9 4 ∧
    Reached (csBlk { coreBlk with wait := .gwaitc 9 4 }) 9 4 ∧
    ((csBlk { coreBlk with wait := .waitl 0 }).core 3).wait = .waitl 0 ∧ cb.clk.lcnt ≠ 0 ∧ cb.clk.lcnt ≠ BitVec.allOnes 64 ∧
    (atBarrier.core 3).wait = .pbar 8 1 ∧
    (∀ i, i < 8 → (8#8).getLsbD i = true → 1 ≤ Table.get 0 (atBarrier.core (8 * 0 + i)).pbars 8) := by
  have h : ¬ MayName cb 3 10 := by
    rintro ⟨p, h1, _⟩
    have h2 : (cb.gate 10).owner = none := by decide +kernel
    rw [h2] at h1
    cases h1
  have hi : Issues cb 3 := by unfold Issues; decide +kernel
  refine ⟨hi, ⟨5, rfl, by decide +kernel⟩, h, ?_, ?_, ?_, ?_, ?_, waits_for_zero, ?_⟩ <;> (try unfold Reached) <;> decide +kernel

theorem witness_SystemInstructions : Issues cb 3 ∧ (∀ o ∈ (cb.core 3).mu, o.kind = .tzero) ∧ cb.coreParty 3 = some 5 ∧ (cb.core 3).phase < 120 ∧
    (0x070 : BitVec 16) ∉ [(0x020 : BitVec 16), 0x021] ∧ csrs.all (fun p => decide (p.1 ≠ 0x70)) = true ∧
    ((csBlk { coreBlk with ibuf := [1] }).core 3).ibuf.contains (((csBlk { coreBlk with ibuf := [1] }).core 3).pc.toNat / 1024) = false ∧
    decodeCore 3 0xFFFFFFFF = none := by
  unfold Issues; decide +kernel

/-! ## Time, memory, channels and descriptors -/

theorem witness_TimeAndFrame : State.reset.pending = [] ∧ State.reset.power.standby = true ∧ State.reset.comp.taker = none ∧
    ({ State.reset with power := { State.reset.power with standby := false } } : State).pending = [] ∧
    ∃ t, exec (.nop 3) State.reset = .next t := ⟨rfl, by decide +kernel, rfl, rfl, _, rfl⟩

theorem witness_LcntSetOnce : (∃ t, exec (.nop 3) State.reset = .next t) ∧ (∀ f n, Instr.nop 3 ≠ .standbyPowerApplied f n) :=
  ⟨⟨_, rfl⟩, fun _ _ h => nomatch h⟩

theorem witness_MemoryStaysCanonical : MemoryCanonical cb ∧ ∃ t, step { cb with pending := [.nop 3] } = .next t := by
  unfold MemoryCanonical
  exact ⟨by decide +kernel, _, rfl⟩

theorem witness_DecodeOfEncode : encodeCore (.add 5 1 2 3) = some 0x04221800 := by decide +kernel
theorem witness_EncodeOfDecode : decodeCore 5 0xC8200020 = some (.csrr 5 1 0x20) := by decide +kernel

/-- A descriptor's 64 bytes from (byte, value) pairs. -/
def bits (l : List (Nat × Nat)) : BitVec 512 := BitVec.ofNat 512 (l.foldl (fun (a : Nat) e => a + e.2 * 2 ^ (8 * e.1)) 0)

/-- An extent's byte in a slot. -/
def extSlot (lo h off : Nat) : List (Nat × Nat) := [(lo, off), (lo + 8, h), (lo + 12, 0x4000)]

/-- A descriptor of channel 2 and party 5 that has started and holds a buffer. -/
def desc0 (l : List (Nat × Nat)) : Desc :=
  { chan := 2, index := 0, bits := bits l, party := some 5, pasid := none, accept := 0, go := 4, start := some 0, known := 0
    target := 0, phase := .started, bufs := 1 }

/-- A module with a PINNED_NEAR and a TIERED extent of party 5, a table of it, a gate, and a RUNNING channel of it. -/
def base : State :=
  { State.reset with
    power := { State.reset.power with boot := .ready }
    comp := { tables := [(7, { owner := 5, list := [], loadRef := true, refs := 3 })] }
    ten := { parties := [(5, { gpid := Tv.all 77, k1 := 0, k2 := 0 })], extents := [(1, extentOf .pinnedNear), (2, extentOf .tiered)], nextHandle := 3 }
    place := { tracts := [(2 * 2 ^ 20, { cached := true, state := .near })] }
    clk := { lcnt := 1000, gates := [(9, { owner := some 5, c := 4 })] }
    chan := { chans := [(2, { state := .running, party := some 5, held := 1, sqTail := 1 })], next := 10, go := 5 } }

/-- The same with this descriptor, number 3. -/
def withD (x : Desc) : State := { base with chan := { base.chan with descs := [(3, x)] } }

theorem namesOf {s : State} {x : Desc} {lo : Nat} {sl : Slot} (h : (x.slot lo).map s.resolve = some sl) : Names s x lo sl := by
  cases hx : x.slot lo with
  | none => rw [hx] at h; cases h
  | some raw => exact ⟨raw, hx.trans rfl, Option.some.inj (by rw [hx] at h; exact h)⟩

theorem witness_DescriptorAcceptance : MayTake base (2#10).toNat ∧ BitVec.ofNat 8 (bits [(0, 0x30)]).toNat ≠ 0x20 ∧ base.launches < 2048 := by
  unfold MayTake ScannerUp; decide +kernel

/-- A FENCE that is accepted, and one that has ended. -/
def dNew : Desc := { desc0 [(0, 0x30)] with phase := .accepted }
def dEnd : Desc := { desc0 [(0, 0x30)] with phase := .ended }

theorem witness_DescriptorsStartAndComplete :
    (withD dNew).desc 3 = some dNew ∧ dNew.phase = .accepted ∧ dNew.due = some 0 ∧ 0 ≤ (withD dNew).clk.lcnt.toNat ∧ dNew.decided = false ∧
    (withD dNew).clk.mstate = .active ∧ (withD dNew).evt.replay = false ∧ dNew.opcode ≠ 0x20 ∧
    (withD { dNew with decided := true }).desc 3 = some { dNew with decided := true } ∧
    (withD dEnd).desc 3 = some dEnd ∧ dEnd.phase = .ended ∧ ((withD dEnd).ch dEnd.chan).state ≠ .stopped ∧ (withD dEnd).evt.replay = false ∧
    (1 < 2) := by decide +kernel

/-- `base` with channel 2 as given. -/
def withCh (c : Chan) : State := { base with chan := { base.chan with chans := [(2, c)] } }

/-- A descriptor of channel 2 that has asked for a buffer, and one that has ended with one. -/
def asksBuf : State :=
  { withD (desc0 [(0, 1)]) with chan := { (withD (desc0 [(0, 1)])).chan with chans := [(2, { base.ch 2 with asks := [(0, some 3)] })] } }
def dHeld : Desc := { desc0 [(0, 1)] with phase := .ended }

theorem witness_ChannelStates :
    (ScannerUp base ∧ (base.ch 2).state = .running ∧ (base.ch 2).watched = false ∧ (base.ch 2).reading = false ∧
     (base.ch 2).lastRead + (base.ch 2).poll.toNat ≤ base.clk.lcnt.toNat) ∧
    (ScannerUp (withCh { base.ch 2 with watched := true }) ∧ ((withCh { base.ch 2 with watched := true }).ch 2).state = .running ∧
     ((withCh { base.ch 2 with watched := true }).ch 2).watched = true) ∧
    (∀ m ∈ [MState.active, .idle, .doze],
      (let s : State := { withCh { base.ch 2 with reading := true } with clk := { base.clk with mstate := m } }
       ScannerUp s ∧ (s.ch 2).state = .running ∧ (s.ch 2).reading = true ∧ (7 : Word) ≠ (s.ch 2).sqTail ∧ s.clk.mstate = m ∧
         s.clk.waking = none)) ∧
    ((base.ch 3).state = .disabled ∧ (base.ch 3).port.toNat < base.variant.hostPorts ∧ (base.ch 3).state ≠ .running) ∧
    (((withCh { base.ch 2 with state := .draining }).ch 2).state = .draining ∧ (∀ e ∈ base.chan.descs, e.2.chan ≠ 2) ∧
     ((withCh { base.ch 2 with state := .stopped, leaving := true }).ch 2).state = .stopped ∧
     ((withCh { base.ch 2 with state := .stopped, leaving := true }).ch 2).leaving = true) ∧
    ((withCh { base.ch 2 with holdEnd := some 1000 }).ch 2).holdEnd = some 1000 ∧ 1000 ≤ base.clk.lcnt.toNat ∧
    (asksBuf.grantable 2 = true ∧ (asksBuf.ch 2).asks = [(0, some 3)] ∧ asksBuf.desc 3 = some (desc0 [(0, 1)])) ∧
    (withD dHeld).desc 3 = some dHeld ∧ dHeld.chan = 2 ∧ 0 < dHeld.bufs ∧ dHeld.phase = .ended := by
  unfold ScannerUp
  refine ⟨?_, ?_, ?_, ?_, ?_, ?_, ?_, ?_, ?_⟩ <;> decide +kernel

/-- Copies: between the two extents, from the host, to the host, of plain bytes. -/
def dStored : Desc := desc0 ([(0, 1), (56, 4096)] ++ extSlot 24 1 131067904 ++ extSlot 40 2 0)
def dIn : Desc := desc0 ([(0, 1), (24, 0x5000), (56, 4096)] ++ extSlot 40 1 0)
def dOut : Desc := desc0 ([(0, 1), (40, 0x5000), (56, 4096)] ++ extSlot 24 1 0)
def dPlain : Desc := desc0 ([(0, 1), (1, 1), (24, 0x5000), (56, 10)] ++ extSlot 40 1 4090)

/-- A COPY of a husk's plain bytes to the host, and a module where extent 1's first block is a husk of table 7. -/
def dHusk : Desc := desc0 ([(0, 1), (1, 1), (40, 0x5000), (56, 10)] ++ extSlot 24 1 0)
def withHusk : State :=
  { withD dHusk with ten := { (withD dHusk).ten with metas := [(extBlkKey 1 0, mkMeta 7 false 1)] } }

/-- `dStored` while the destination's tract is being promoted. -/
def tractBusy : State := { withD dStored with place := { tracts := [(2 * 2 ^ 20, { cached := true, state := .promoting })] } }

theorem witness_CopyDescriptors :
    (AtUnit (withD dStored) 3 1 0 dStored ∧ Names (withD dStored) dStored 24 (.ext 1 131067904) ∧ Names (withD dStored) dStored 40 (.ext 2 0) ∧
     Clear (withD dStored) dStored (.ext 1 131067904) (.ext 2 0) (4096 * 1) ∧ dStored.field 56 8 = 4096 * 1 ∧
     mwPoison ((withD dStored).blkMeta 1 (131067904 / 4096 + 0)) = false) ∧
    (AtUnit (withD dIn) 3 1 0 dIn ∧ Names (withD dIn) dIn 24 (.host 0x5000 false) ∧ Names (withD dIn) dIn 40 (.ext 1 0) ∧
     Clear (withD dIn) dIn (.host 0x5000 false) (.ext 1 0) 4096 ∧ dIn.cut = false ∧ (0x3F#8 :: zeros 4096).getD (4097 * 0) 0 = 0x3F) ∧
    (AtUnit (withD dOut) 3 1 0 dOut ∧ Names (withD dOut) dOut 24 (.ext 1 0) ∧ Names (withD dOut) dOut 40 (.host 0x5000 false) ∧
     Clear (withD dOut) dOut (.ext 1 0) (.host 0x5000 false) 4096 ∧ dOut.cut = false ∧ mwPoison ((withD dOut).blkMeta 1 0) = false) ∧
    (AtUnit (withD dPlain) 3 1 1 dPlain ∧ Names (withD dPlain) dPlain 24 (.host 0x5000 false) ∧ Names (withD dPlain) dPlain 40 (.ext 1 4090) ∧
     Clear (withD dPlain) dPlain (.host 0x5000 false) (.ext 1 4090) 10 ∧ dPlain.cut = false ∧ dPlain.field 56 8 = 10 ∧
     (∀ b, b < 2 ^ 36 → (withD dPlain).blkMeta 1 b = 0x3F) ∧
     (withD dPlain).plainReady (.desc 4) (plainBlocks (withD dPlain) dPlain (.host 0x5000 false) (.ext 1 4090) 10) = true) ∧
    (AtUnit withHusk 3 1 1 dHusk ∧ Names withHusk dHusk 24 (.ext 1 0) ∧ Names withHusk dHusk 40 (.host 0x5000 false) ∧
     Clear withHusk dHusk (.ext 1 0) (.host 0x5000 false) 10 ∧
     withHusk.plainReady (.desc 4) (plainBlocks withHusk dHusk (.ext 1 0) (.host 0x5000 false) 10) = false) ∧
    (AtUnit tractBusy 3 1 0 dStored ∧ Names tractBusy dStored 24 (.ext 1 131067904) ∧ Names tractBusy dStored 40 (.ext 2 0) ∧
     tractBusy.phaseStatus dStored (.ext 1 131067904) (.ext 2 0) = none ∧
     tractBusy.granting srcMovers (.desc 4) (Slot.accs (.ext 1 131067904) 4096 false ++ Slot.accs (.ext 2 0) 4096 true) = false) := by
  unfold AtUnit Clear
  refine ⟨⟨?_, namesOf ?_, namesOf ?_, ?_⟩, ⟨?_, namesOf ?_, namesOf ?_, ?_⟩, ⟨?_, namesOf ?_, namesOf ?_, ?_⟩,
    ⟨?_, namesOf ?_, namesOf ?_, ?_, ?_, ?_, fun _ _ => rfl, ?_⟩, ⟨?_, namesOf ?_, namesOf ?_, ?_⟩, ?_, namesOf ?_, namesOf ?_, ?_⟩ <;> decide +kernel

/-- An ENCODE of one block, a DECODE of one, and an ENCODE by a party without reach. -/
def dEnc : Desc := desc0 ([(0, 2), (56, 1)] ++ extSlot 24 1 0 ++ extSlot 40 1 4096)
def dDec : Desc := desc0 ([(0, 3), (56, 1)] ++ extSlot 24 1 0 ++ extSlot 40 1 4096)
def dBad (op : Nat) (sub : Nat) : Desc := desc0 ([(0, op), (1, sub), (56, 4096)] ++ extSlot 24 1 0 ++ extSlot 40 2 0)

/-- The same module where extent 2 is degraded to read only, with that descriptor. -/
def badS (op sub : Nat) : State :=
  (withD (dBad op sub)).setExtent 2 { extentOf .tiered with readOnly := true }

theorem witness_CodingDescriptors :
    (AtUnit (withD dEnc) 3 2 0 dEnc ∧ Names (withD dEnc) dEnc 24 (.ext 1 0) ∧ Names (withD dEnc) dEnc 40 (.ext 1 4096) ∧ dEnc.field 56 4 = 1 ∧
     (withD dEnc).phaseStatus dEnc (.ext 1 0) (.ext 1 4096) = none ∧
     (withD dEnc).granting srcMovers (.desc 4) (accsOf 1 0 4096 false) = true ∧ (withD dEnc).comp.taker = none ∧
     (withD dEnc).blkMeta 1 (0 / 4096 + 0) = 0x3F) ∧
    (AtUnit (withD dDec) 3 3 0 dDec ∧ Names (withD dDec) dDec 24 (.ext 1 0) ∧ Names (withD dDec) dDec 40 (.ext 1 4096) ∧
     (withD dDec).phaseStatus dDec (.ext 1 0) (.ext 1 4096) = none ∧ ((withD dDec).bank (1000 + 3 % 8)).queue = [] ∧ dDec.aux = 0 ∧
     0 < dDec.field 56 4) ∧
    (∃ st, (badS 1 0).phaseStatus (dBad 1 0) (.ext 1 0) (.ext 2 0) = some st) ∧ Names (badS 1 0) (dBad 1 0) 24 (.ext 1 0) ∧
    Names (badS 1 0) (dBad 1 0) 40 (.ext 2 0) ∧ AtUnit (badS 1 0) 3 1 0 (dBad 1 0) ∧
    AtUnit (badS 1 1) 3 1 1 (dBad 1 1) ∧ AtUnit (badS 2 0) 3 2 0 (dBad 2 0) ∧ AtUnit (badS 3 0) 3 3 0 (dBad 3 0) := by
  unfold AtUnit
  refine ⟨⟨?_, namesOf ?_, namesOf ?_, ?_⟩, ⟨?_, namesOf ?_, namesOf ?_, ?_⟩, Option.isSome_iff_exists.mp ?_, namesOf ?_, namesOf ?_, ?_⟩ <;>
    decide +kernel

/-- Descriptors on tables, and the record of CAPS at the last place of its page. -/
def dLoad : Desc := desc0 [(0, 0x28), (24, 8), (40, 0x5000)]
def dBuild : Desc := desc0 [(0, 0x28), (1, 1), (24, 8), (26, 1)]
def dDrop : Desc := { desc0 [(0, 0x28), (1, 2), (24, 7)] with aux := 1 }
def dCaps : Desc := desc0 [(0, 0x38), (40, 0x5FC0)]

theorem witness_TableDescriptors :
    (AtUnit (withD dLoad) 3 0x28 0 dLoad ∧ Names (withD dLoad) dLoad 40 (.host 0x5000 false) ∧ dLoad.party = some 5 ∧ dLoad.cut = false ∧
     (withD dLoad).comp.inUse 8 = false ∧ (withD dLoad).comp.inUse 7 = true ∧ listOk (zeros 128) = false ∧
     listOk (List.replicate 128 0x88) = true) ∧
    (AtUnit (withD dBuild) 3 0x28 1 dBuild ∧ dBuild.party = some 5 ∧
     (let s := withD { dBuild with phase := .working }
      s.desc 3 = some { dBuild with phase := .working } ∧ s.counting (dBuild.field 26 1) (fun o => decide (o ≤ 4)) = [] ∧
      s.evt.replay = false ∧ s.freeEngine.1 < 16 ∧ s.comp.inUse 8 = false ∧ (s.hctxOf 1).owner = none ∧ (s.hctxOf 1).aside = [])) ∧
    (AtUnit (withD dDrop) 3 0x28 2 dDrop ∧ dDrop.aux = 1 ∧ (withD dDrop).table 7 = some { owner := 5, list := [], loadRef := true, refs := 3 }) ∧
    AtUnit (withD dCaps) 3 0x38 0 dCaps ∧ Names (withD dCaps) dCaps 40 (.host 0x5FC0 false) ∧ (0x5FC0#64).toNat % 4096 ≤ 4032 ∧
    dCaps.cut = false := by
  unfold AtUnit
  refine ⟨⟨?_, namesOf ?_, ?_⟩, ?_, ?_, ?_, namesOf ?_, ?_⟩ <;> decide +kernel

def dFence : Desc := desc0 [(0, 0x30)]
def dWait (v : Nat) : Desc := desc0 [(0, 0x31), (24, 9), (28, v)]
def dOpen (sub : Nat) : Desc := desc0 [(0, 0x32), (1, sub), (24, 9), (28, 1)]

theorem witness_OrderDescriptors :
    AtUnit (withD dFence) 3 0x30 0 dFence ∧ (∀ e ∈ (withD dFence).chan.descs, e.2.chan = dFence.chan → dFence.go ≤ e.2.go) ∧
    (∃ e ∈ ({ withD dFence with chan := { base.chan with descs := [(1, { dFence with go := 1 }), (3, dFence)] } } : State).chan.descs,
      e.2.chan = dFence.chan ∧ e.2.go < dFence.go) ∧
    AtUnit (withD (dWait 4)) 3 0x31 0 (dWait 4) ∧ Reached (withD (dWait 4)) 9 4 ∧ AtUnit (withD (dWait 5)) 3 0x31 0 (dWait 5) ∧
    ¬ Reached (withD (dWait 5)) 9 5 ∧ AtUnit (withD (dOpen 0)) 3 0x32 0 (dOpen 0) ∧ AtUnit (withD (dOpen 1)) 3 0x32 1 (dOpen 1) ∧
    (dOpen 1).field 26 2 < 32768 := by
  unfold AtUnit Reached; decide +kernel

/-! ## Placement -/

/-- A range request on tract `u` of extent `h`. -/
def rng (op h u : Nat) : Desc := desc0 ([(0, op), (56, 0x1000)] ++ extSlot 24 h (u * 2 ^ 21))

/-- `withD` with these tracts, on die, of extent 2, and one pin of party 5 on tract 1. -/
def place (x : Desc) (l : List (Nat × Tract)) : State :=
  { withD x with place := { tracts := l.map (fun e => (2 * 2 ^ 20 + e.1, { e.2 with cached := true })), pins := [((2 * 2 ^ 20 + 1) * 256 + 5, 1)] } }

def tractsX : List (Nat × Tract) := [(0, { state := .near }), (1, { state := .near }), (2, {})]

theorem rangeAt {s : State} {d op : Nat} {x : Desc} {h : Word} {ts : List Nat} {p : BitVec 8} (off : Nat)
    (hd : AtUnit s d op 0 x) (hs : (x.slot 24 = some (.ext h off) ∧ ts = rangeTracts off (x.field 56 8)) ∧ off + x.field 56 8 ≤ 2 ^ 41)
    (hp : x.party = some p ∧ s.unitDown .placement 0 = false ∧ (∀ u ∈ ts, s.mapped h u = true) ∧
      x.tracts = [] ∧ x.retained = false ∧ x.poisoned = false) : RangeAt s d op x h ts p :=
  ⟨hd, ⟨off, hs.1.1, hs.1.2, hs.2⟩, hp⟩

/-- Requests that a check refuses, and one of each kind that passes. -/
def pinned : State := place (rng 0x13 2 1) tractsX
def promotes : State := place (rng 0x10 2 2) tractsX
def evicts : State := place (rng 0x11 2 0) tractsX

theorem witness_PlacementRequests :
    (RangeAt (withD (rng 0x10 1 0)) 3 0x10 (rng 0x10 1 0) 1 [0] 5 ∧ (withD (rng 0x10 1 0)).placeStatus 0x10 1 [0] 5 = some St.notTiered) ∧
    (RangeAt (withD (rng 0x13 1 0)) 3 0x13 (rng 0x13 1 0) 1 [0] 5 ∧ (withD (rng 0x13 1 0)).placeStatus 0x13 1 [0] 5 = some St.notPinned) ∧
    (RangeAt (withD (rng 0x12 1 3)) 3 0x12 (rng 0x12 1 3) 1 [3] 5 ∧ (withD (rng 0x12 1 3)).placeStatus 0x12 1 [3] 5 = none) ∧
    (RangeAt pinned 3 0x13 (rng 0x13 2 1) 2 [1] 5 ∧ pinned.placeStatus 0x13 2 [1] 5 = none) ∧
    (RangeAt promotes 3 0x10 (rng 0x10 2 2) 2 [2] 5 ∧ promotes.placeStatus 0x10 2 [2] 5 = none ∧
     (([2] : List Nat).filter (fun u => decide ((promotes.tract 2 u).state = .deep))).length ≤
       promotes.poolFree + promotes.leaving (([2] : List Nat).map (tractKey 2))) ∧
    (RangeAt evicts 3 0x11 (rng 0x11 2 0) 2 [0] 5 ∧ evicts.placeStatus 0x11 2 [0] 5 = none) := by
  refine ⟨⟨rangeAt 0 ?_ ?_ ?_, ?_⟩, ⟨rangeAt 0 ?_ ?_ ?_, ?_⟩, ⟨rangeAt (3 * 2 ^ 21) ?_ ?_ ?_, ?_⟩, ⟨rangeAt (2 ^ 21) ?_ ?_ ?_, ?_⟩,
    ⟨rangeAt (2 * 2 ^ 21) ?_ ?_ ?_, ?_⟩, rangeAt 0 ?_ ?_ ?_, ?_⟩ <;> (try unfold AtUnit) <;> decide +kernel

/-- A small near pool with a NEAR tract that nobody pins, and the low watermark at the whole pool. -/
def fullS : State :=
  { base with place := { place (rng 0x10 2 0) [(0, { state := .near })] |>.place with nearUsable := 129, lowPm := 1000 } }

/-- Tract 0 of extent 2 promoting, being written back, awaited, and hot. -/
def copies : State := place (rng 0x10 2 0) [(0, { state := .promoting, promoters := [3] })]
def writes : State := place (rng 0x11 2 0) [(0, { state := .evicting, evicters := [3] })]
def fetches : State := { base with place := { tracts := [(2 * 2 ^ 20, { fetching := true })] } }
def isHot : State :=
  { base with clk := { base.clk with lcnt := 8192 }
              place := { tracts := [(2 * 2 ^ 20, { cached := true, reads := 3, period := 1 })], hotThresh := 3 } }

theorem witness_PlacementEvents :
    (copies.unitDown .placement 0 = false ∧ (copies.tract 2 0).state = .promoting ∧ copies.roomFor (copies.tract 2 0) = true ∧
     copies.mapped 2 0 = true ∧ copies.tractRecovering 2 0 = false ∧ (copies.tract 2 0).promoters = [3] ∧ (copies.tract 2 0).evicters = []) ∧
    (writes.unitDown .placement 0 = false ∧ (writes.tract 2 0).state = .evicting ∧ writes.readOnly 2 = false ∧ writes.mapped 2 0 = true ∧
     writes.tractRecovering 2 0 = false ∧ writes.place.pressure = false ∧ (writes.tract 2 0).evicters = [3] ∧ (writes.tract 2 0).promoters = []) ∧
    (let s := writes.setExtent 2 { extentOf .tiered with readOnly := true }
     (s.tract 2 0).state = .evicting ∧ s.readOnly 2 = true) ∧
    ((fetches.tract 2 0).fetching = true ∧ fetches.unitDown .placement 0 = false ∧
     (fetches.place.tracts.filter (fun e => e.2.cached && decide (e.1 ≠ tractKey 2 0))).length < fetches.cacheShare) ∧
    (fullS.unitDown .placement 0 = false ∧ fullS.belowPm fullS.place.lowPm.toNat = true ∧ fullS.place.pressure = false ∧
     fullS.evictable ≠ [] ∧ fullS.active = true) ∧
    (isHot.tiered 2 = true ∧ isHot.place.hotThresh ≠ 0 ∧ (isHot.tract 2 0).state = .deep ∧
     isHot.place.hotThresh.toNat ≤ (isHot.tract 2 0).reads ∧ isHot.now % 4096 = 0 ∧ (isHot.tract 2 0).moving = false ∧
     (isHot.tract 2 0).spilled = none ∧ (isHot.tract 2 0).period + 1 = isHot.now / 4096) ∧
    isHot.place.lowPm.toNat * isHot.nearPool / 1000 < isHot.poolFree ∧ isHot.active = true ∧ isHot.unitDown .placement 0 = false := by
  refine ⟨?_, ?_, ?_, ?_, ?_, ?_, ?_⟩ <;> decide +kernel

/-- A window program of two entries of extent 2 at K = 1, ONCE, and descriptors on window 4. -/
def wprog : HostData := { bytes := leBytes 48 (2 + 2 ^ 16 + (2 + 2 ^ 64) * 2 ^ 160 + (2 + 2 ^ 32 + 2 ^ 64) * 2 ^ 288), refused := none }
def dInst : Desc := desc0 [(0, 0x14), (24, 4), (40, 0x5000), (56, 48)]
def dRel (q : Nat) : Desc := desc0 [(0, 0x14), (1, 1), (24, 4), (28, q)]
def dRem : Desc := desc0 [(0, 0x14), (1, 2), (24, 4)]

/-- Window 4 as that program makes it, position 0 promoted. -/
def win4 : LayerWindow := { programOf wprog.bytes 5 0 with requested := 1, done := 1, reserved := 1 }
def winS (x : Desc) (w : LayerWindow) : State := { withD x with place := { base.place with windows := [(4, w)] } }

/-- The window with both positions requested; with the next position not begun; the same that waits for its pins. -/
def win4two : LayerWindow := { win4 with depth := 2, requested := 2 }
def win4due : LayerWindow := { win4 with done := 0 }
def win4wait : LayerWindow := { win4due with pinWait := true }
def winDue (w : LayerWindow) : State := winS dRem w

theorem witness_LayerWindows :
    (AtUnit (withD dInst) 3 0x14 0 dInst ∧ Names (withD dInst) dInst 40 (.host 0x5000 false) ∧ wprog.refused = none ∧
      dInst.field 56 4 ≤ wprog.bytes.length ∧ dInst.field 56 4 = 16 * (fieldAt (wprog.bytes.take 48) 0 2 + 1) ∧ dInst.cut = false ∧
      (withD dInst).unitDown .placement 0 = false ∧ (winS dInst win4).window 4 ≠ none ∧ (withD dInst).window 4 = none ∧
      (withD dInst).installStatus 4 5 dInst.accept 48 wprog.bytes (programOf wprog.bytes 5 dInst.cls) = none ∧
      (withD dInst).installStatus 4 6 dInst.accept 48 wprog.bytes (programOf wprog.bytes 6 dInst.cls) ≠ none) ∧
    (AtUnit (winS (dRel 0) win4) 3 0x14 1 (dRel 0) ∧ (winS (dRel 0) win4).window 4 = some win4 ∧ win4.party = 5 ∧ (dRel 0).field 28 4 = 0 ∧
      win4.released = 0 ∧ 0 < win4.requested ∧ win4.held = [] ∧ InExtent win4) ∧
    (AtUnit (winS (dRel 1) win4two) 3 0x14 1 (dRel 1) ∧ (winS (dRel 1) win4two).window 4 = some win4two ∧ win4two.party = 5 ∧
      (dRel 1).field 28 4 = 1 ∧ win4two.released < 1 ∧ 1 < win4two.requested ∧ win4two.held = []) ∧
    (AtUnit (winS (dRel 7) win4) 3 0x14 1 (dRel 7) ∧ (winS (dRel 7) win4).window 4 = some win4 ∧ (dRel 7).field 28 4 = 7 ∧ win4.requested ≤ 7) ∧
    (AtUnit (winS dRem win4) 3 0x14 2 dRem ∧ (winS dRem win4).window 4 = some win4) ∧
    ((winDue win4due).unitDown .placement 0 = false ∧ (winDue win4due).active = true ∧ (winDue win4due).window (4#6).toNat = some win4due ∧
      (winDue win4due).positionDue win4due = true ∧ win4due.entryOf win4due.done = some ⟨none, 2, 0, 1⟩ ∧
      (winDue win4due).pinRefusal 2 [0] 5 = none ∧ win4due.pinWait = false) ∧
    ((winDue win4wait).window (4#6).toNat = some win4wait ∧ (winDue win4wait).positionDue win4wait = true ∧
      win4wait.entryOf win4wait.done = some ⟨none, 2, 0, 1⟩ ∧ (winDue win4wait).pinRefusal 2 [0] 5 = none ∧ win4wait.pinWait = true) ∧
    (let s := { winDue win4due with place := { (winDue win4due).place with pinLimit := [(5, 0)] } }
     s.window (4#6).toNat = some win4due ∧ s.positionDue win4due = true ∧ s.pinRefusal 2 [0] 5 = some 2) := by
  unfold AtUnit InExtent
  refine ⟨⟨?_, namesOf ?_, ?_⟩, ?_, ?_, ?_, ?_, ?_, ?_, ?_⟩ <;> decide +kernel

/-! ## Gates, sleep, shared regions, tenancy -/

/-- `base` without its channel, with that clock. -/
def withClk (k : Clk) : State := { base with clk := k, chan := {} }

/-- A descriptor accepted with start count 1,040, known since count `k`. -/
def waiting (k : Nat) : Desc := { desc0 [(0, 0x30)] with phase := .accepted, start := some 1040, known := k }

/-- A MODE 2 descriptor of gate 9 whose target is `v`. -/
def gated (v : Word) : Desc :=
  { desc0 [(0, 0x30), (15, 128), (12, 9), (8, 7)] with phase := .accepted, start := none, target := v }

/-- Quiet long enough; IDLE long enough; a wake that ends, in IDLE and in DOZE; WAKE_AT come. -/
def idleDue : State := withClk { base.clk with quietFor := 250 }
def dozeDue : State := withClk { base.clk with mstate := .idle, idleFor := 25000 }
def wakeDue (m : MState) : State := withClk { base.clk with mstate := m, waking := some 1000 }
def timerDue : State := withClk { base.clk with lcnt := 8192, wakeAt := 2 }
def asleep (m : MState) : State := { withD (waiting 0) with clk := { base.clk with mstate := m } }

theorem witness_GatesAndSleep :
    (Table.wf {} base.clk.gates = true ∧ (∀ e ∈ base.clk.gates, e.1 < 256 ∧ e.2.wild = false) ∧
     (∀ e ∈ base.clk.gates, ∀ a ∈ e.2.starts, ∀ b ∈ e.2.starts, a.1 = b.1) ∧
     (gated 4).mode = 2 ∧ (gated 4).launchGate = 9 ∧ (gated 4).start = none ∧ (withD (gated 4)).desc 3 = some (gated 4) ∧ Reached base 9 4 ∧
     (withD (gated 5)).desc 3 = some (gated 5) ∧ ¬ Reached base 9 5) ∧
    (let x : Gate := { starts := [(2, 4, 9), (1, 8, 7)] }
     (2, 4, 9) ∈ x.starts ∧ ∀ y ∈ x.starts, y = (2, 4, 9) ∨ y.1 < 2 ∨ (y.1 = 2 ∧ y.2.1 < 4)) ∧
    (idleDue.unitDown .pip 0 = false ∧ idleDue.active = true ∧ idleDue.clk.idleEn = true ∧ idleDue.quiet = true ∧ idleDue.isReady = true ∧
     idleDue.clk.idleDelay.toNat ≤ idleDue.clk.quietFor) ∧
    (dozeDue.unitDown .pip 0 = false ∧ dozeDue.clk.mstate = .idle ∧ dozeDue.clk.idleEn = true ∧ dozeDue.clk.dozeDelay.toNat ≤ dozeDue.clk.idleFor ∧
     dozeDue.clk.dozeEn = true ∧ dozeDue.clk.waking = none ∧ dozeDue.chan.descs = []) ∧
    (2#7) ≠ 0 ∧
    (∀ m ∈ [MState.idle, .doze], (wakeDue m).clk.waking = some 1000 ∧ 1000 ≤ (wakeDue m).now ∧ (wakeDue m).host.waits = [] ∧
      (wakeDue m).host.asks = [] ∧ (wakeDue m).clk.mstate = m) ∧
    (∀ m ∈ [MState.idle, .doze], (asleep m).launchCounts = [(1040, 0)] ∧ (asleep m).clk.mstate = m ∧ 1040 ≤ (asleep m).now + 52) ∧
    (timerDue.clk.wakeAt ≠ 0 ∧ timerDue.now = timerDue.clk.wakeAt.toNat * 4096 ∧ timerDue.power.boot ≠ .d3cold ∧
     (∀ e ∈ timerDue.host.ports, e.2.d3hot = false ∨ e.2.pmeEn = false) ∧
     ({ timerDue with power := { timerDue.power with boot := .d3cold } } : State).power.boot = .d3cold) := by
  unfold Reached
  refine ⟨?_, ?_, ?_, ?_, ?_, ?_, ?_, ?_⟩ <;> decide +kernel

/-- A shared region of party 5 with two version slots, and descriptors on it. -/
def region : Extent := { extentOf .pinnedNear with vslots := 2, slots := [{}, { state := .held, version := 7, blocks := 2, used := true, readers := 1, remote := [(3, 100)] }], current := 7 }
def withR (x : Desc) : State := (withD x).setExtent 4 region
def dPub (aux : Nat) (base_ : Nat) : Desc :=
  { desc0 ([(0, 0x18), (24, 0x5000), (56, base_), (60, 1)] ++ extSlot 40 4 0) with aux := aux }
def dFetch (aux : Nat) : Desc := { desc0 ([(0, 0x19), (40, 0x5000), (60, 2)] ++ extSlot 24 4 0) with aux := aux, aux2 := 7 }

/-- A PUBLISH whose blocks are written, against the current version or not. -/
def dWritten (b : Nat) : Desc := { dPub 1 b with phase := .working }

/-- The module at the end of a count in which that PUBLISH landed. -/
def landedS : State := (withR (dWritten 7)).setExtent 4 { region with landed := [.desc 3] }

theorem witness_SharedRegions :
    (AtUnit (withR (dPub 0 7)) 3 0x18 0 (dPub 0 7) ∧ (withR (dPub 0 7)).regionAt (dPub 0 7) 40 = some 4 ∧
     Names (withR (dPub 0 7)) (dPub 0 7) 24 (.host 0x5000 false) ∧
     ((withR (dPub 0 7)).extent 4 = some region ∧ (withR (dPub 0 7)).wipeHolds region (dPub 0 7).accept = false ∧ (dPub 0 7).cut = false ∧
      region.pick = some 0 ∧ 0 < region.slots.length ∧ (dPub 0 7).field 60 4 = 1 ∧ region.readOnly = false ∧
      (withR (dPub 0 7)).granting srcMovers (.desc 4) (accsOf 4 (4096 * region.slotBase 0) (4096 * 1) true) = true ∧
      region.slotBase 0 + 1 ≤ 2 ^ 36)) ∧
    (∀ b ∈ [7, 6], (withR (dWritten b)).desc 3 = some (dWritten b) ∧ (dWritten b).opcode = 0x18 ∧ (dWritten b).phase = .working ∧
      (withR (dWritten b)).regionAt (dWritten b) 40 = some 4 ∧ (withR (dWritten b)).extent 4 = some region ∧ (dWritten b).aux = 0 + 1 ∧
      (region.current = BitVec.ofNat 32 ((dWritten b).field 56 4) ↔ b = 7)) ∧
    (landedS.ten.extents.filter (fun q => !q.2.landed.isEmpty)) = [((4#32).toNat, { region with landed := [.desc 3] })] ∧
    withR (dWritten 7) = landedS.setExtent 4 { region with landed := [] } ∧
    (AtUnit (withR (dFetch 0)) 3 0x19 0 (dFetch 0) ∧ (withR (dFetch 0)).regionAt (dFetch 0) 24 = some 4 ∧
      Names (withR (dFetch 0)) (dFetch 0) 40 (.host 0x5000 false) ∧ (withR (dFetch 0)).extent 4 = some region ∧
      (withR (dFetch 0)).wipeHolds region (dFetch 0).accept = false ∧ (withR (dFetch 0)).comp.taker = none) ∧
    (AtUnit (withR (dFetch 2)) 3 0x19 0 (dFetch 2) ∧ (withR (dFetch 2)).regionAt (dFetch 2) 24 = some 4 ∧
      Names (withR (dFetch 2)) (dFetch 2) 40 (.host 0x5000 false) ∧ (withR (dFetch 2)).wipeHolds region (dFetch 2).accept = false ∧
      (withR (dFetch 2)).comp.taker = none ∧ (dFetch 2).aux = 1 + 1 ∧ min ((dFetch 2).field 60 4) (region.vslot 1).blocks = 2 ∧
      (dFetch 2).cut = false ∧ (withR (dFetch 2)).granting srcMovers (.desc 4) (accsOf 4 (4096 * region.slotBase 1) (4096 * 2) false) = true ∧
      (∀ i, i < 2 → (withR (dFetch 2)).blkMeta 4 (region.slotBase 1 + i) = 0x3F)) ∧
    (let s := { withR (dFetch 0) with clk := { base.clk with lcnt := 1100100 } }
     s.extent 4 = some region ∧ 1 < region.slots.length ∧
     (region.vslot 1).remote.find? (fun q => decide (q.1 = 3)) = some (3, 100) ∧ 100 + 1100000 ≤ s.now) := by
  unfold AtUnit
  refine ⟨⟨?_, ?_, namesOf ?_, ?_⟩, ?_, ?_, ?_, ⟨?_, ?_, namesOf ?_, ?_⟩, ⟨?_, ?_, namesOf ?_, ?_⟩, ?_⟩ <;> decide +kernel

/-- A command block of the fleet manager: header with SEQUENCE 1, body, and the signature R = the identity point, S = 0,
which passes under the key of the identity point for every message. -/
def cmdBlk (op : Nat) (body : Bytes) : HostData :=
  { bytes := leBytes 64 (0x4D46585A + 2 ^ 32 + op * 2 ^ 40 + body.length * 2 ^ 48 + 2 ^ 256) ++ body ++ leBytes 64 1, refused := none }

/-- A body of `n` bytes from (byte, value) pairs. -/
def bodyB (n : Nat) (l : List (Nat × Nat)) : Bytes := leBytes n (l.foldl (fun (a : Nat) e => a + e.2 * 2 ^ (8 * e.1)) 0)

/-- The descriptor of a command block of 128 + n bytes, and a FIELD module of that FM key in whose queue it is. -/
def dCmd (op n : Nat) : Desc := desc0 [(0, op), (24, 0x5000), (56, 128 + n)]
def fmS (x : Desc) : State :=
  { withD x with
    sec := { base.sec with lc := Tv.all .field, fmKey := Tv.all (some 1) }
    ten := { base.ten with
      parties := [(5, { gpid := Tv.all 77, k1 := 0, k2 := 0 }), (6, { gpid := Tv.all 79, k1 := 0, k2 := 0 })]
      extents := [(1, extentOf .pinnedNear), (2, extentOf .tiered), (4, { region with grants := [⟨79, true, false⟩] }),
        (6, { extentOf .tiered with word := Tv.all { owner := none, kind := .tiered, state := .unassigned } })] ++
        (if x.opcode = 0x41 then [(7, { extentOf .tiered with word := Tv.all { owner := some 5, kind := .tiered, state := .wiping } })] else [])
      nextHandle := 8 } }

/-- The state once the block is verified. -/
def verS (s : State) (x : Desc) (b : Bytes) : State :=
  ({ s with ten := { s.ten with fmSeq := 1, cmdAccepted := s.ten.cmdAccepted + 1 } } : State).setDesc 3 { x with aux := 1, data := b }

theorem verified {op sub : Nat} (b : Bytes)
    (h2 : ((fmS (dCmd op b.length)).verifyCmd (dCmd op b.length) (cmdBlk op b)).toOption = some (cmdBlk op b).bytes)
    (h1 : ((fmS (dCmd op b.length)).desc 3 = some (dCmd op b.length) ∧ (dCmd op b.length).phase = .started ∧ (dCmd op b.length).opcode = op ∧
      (dCmd op b.length).subop = 0 ∧ (fmS (dCmd op b.length)).hasBuf (dCmd op b.length) = true) ∧
      (fmS (dCmd op b.length)).cmdTurn (dCmd op b.length) = true ∧ (dCmd op b.length).aux = 0)
    (h3 : b = ((cmdBlk op b).bytes.drop 64).take (fieldAt (cmdBlk op b).bytes 6 2) ∧ (b.getD 0 0).toNat = sub ∧ bodyOkFor op sub b = true ∧
      BitVec.ofNat 64 (fieldAt (cmdBlk op b).bytes 32 8) = 1) :
    Verified (fmS (dCmd op b.length)) 3 op sub (cmdBlk op b) (dCmd op b.length) b (verS (fmS (dCmd op b.length)) (dCmd op b.length) b) := by
  refine ⟨h1.1, h1.2.1, h1.2.2, (cmdBlk op b).bytes, okOf h2, h3.1, h3.2.1, h3.2.2.1, ?_⟩
  unfold verS; rw [h3.2.2.2]

/-- Bodies: CREATE PINNED_NEAR and TIERED, SET_OWNER of extents 6 and 7, GRANT and REVOKE of region 4, WIPE, BIND PARTY,
UNPARTY, BIND CHANNEL, BIND GATE and its release, WATCH. -/
def bCreate : Bytes := bodyB 16 [(1, 0), (2, 5), (4, 1)]
def bCreateT : Bytes := bodyB 16 [(1, 2), (2, 5), (3, 2), (4, 1)]
def bOwner (h : Nat) : Bytes := bodyB 16 [(2, 5), (4, h)]
def bGrant : Bytes := bodyB 16 [(0, 1), (1, 3), (4, 4), (8, 78)]
def bRevoke (sub : Nat) : Bytes := bodyB 16 [(0, sub), (4, 4)]
def bRevGrant : Bytes := bodyB 16 [(0, 1), (4, 4), (8, 79)]
def bWipe : Bytes := bodyB 16 [(4, 4)]
def bParty : Bytes := bodyB 120 [(2, 9), (8, 78), (16, 9), (48, 65214257807477858952160742653532824286594207062028651690301295382739489275425163888711079064202382477996143616120956023861803462061826570934619620959786377430163730924411864)]
def bUnparty : Bytes := bodyB 16 [(0, 1), (2, 9)]
def bChan : Bytes := bodyB 16 [(0, 2), (2, 5), (12, 3)]
def bGate : Bytes := bodyB 16 [(0, 3), (2, 5), (12, 8)]
def bGateOff : Bytes := bodyB 16 [(0, 3), (2, 5), (3, 1), (12, 9)]
def bWatch : Bytes := bodyB 16 []

/-- The command and the state of a body. -/
def fmB (op : Nat) (b : Bytes) : State := fmS (dCmd op b.length)
def Passes (op sub : Nat) (b : Bytes) : Prop :=
  Verified (fmB op b) 3 op sub (cmdBlk op b) (dCmd op b.length) b (verS (fmB op b) (dCmd op b.length) b)

/-- The agreement key, the shared secret and the key-encryption key. -/
def pagree : Bytes := leBytes 32 36596902583621195739166247413407759983121386827699410342202409047872489809284
def psecret : Bytes := leBytes 32 57215450066251103967007083324467783405731565632178183605642730926281318231770
def pkek : Bytes := leBytes 32 70347510262105228311892766603699158653263174207904614093625492623538955651562
/-- The derivation of the party keys, step by step: agreement key, shared secret, key-encryption key. -/
theorem party_agree : (fmB 0x44 bParty).agreementKey = pagree := by decide +kernel
theorem party_secret : Crypto.x25519 pagree (sliceBytes bParty 16 32) =
    psecret := by decide +kernel
theorem party_kek : Crypto.hkdf512 (bvB 16 (fmB 0x44 bParty).ten.bootNonce) psecret
    (ascii "ZX9 party key" ++ bvB 4 (bodyGpid bParty)) 32 = pkek := by decide +kernel
/-- Its round keys from the last to the first, and the decryption of a block under them. -/
def pkeys : List Nat := [111394293813420354441893479694925807312, 104501267768913643248470451324033915387, 31596421724118164811135636767602423189,
    100064703438868897247406284703505919034, 141951664633986930932152689543239898512, 290412380181039100869169254449519392056,
    330093271554736004443926811155455816827, 7008600086126778694531335506079895880, 298924626093169052249277153880015592184,
    252845457754598350190768045049708088513, 339569072024077206586797907452030967270, 97299014526442156561594713379642660768,
    112474327864939893041838256144781581899, 206732752268793984728304033005718457260, 57482789337993397056045692101177281002]
def pdec (b : Bytes) : Bytes := Crypto.decRounds (Crypto.xorBytes b (leBytes 16 (pkeys.headD 0))) (pkeys.tail.map (leBytes 16))

theorem pkeys_eq : (Crypto.roundKeys pkek).reverse = pkeys.map (leBytes 16) := by decide +kernel
theorem pdec_eq (b : Bytes) : Crypto.aesDec pkek b = pdec b := by
  unfold Crypto.aesDec; rw [pkeys_eq]; rfl

/-- Steps of the unwrapping from counter `hi` down, `m` of them. -/
def part (n : Nat) (a : Bytes) (r : List Bytes) : Nat → Nat → Bytes × List Bytes
  | _, 0 => (a, r)
  | hi, m + 1 =>
    let b := pdec (Crypto.xorBytes a (Crypto.beBytes 8 hi) ++ r.getD ((hi - 1) % n) [])
    part n (b.take 8) (r.set ((hi - 1) % n) (b.drop 8)) (hi - 1) m

theorem unwrap_part (n m hi : Nat) (a : Bytes) (r : List Bytes) :
    Crypto.unwrapSteps pkek n a r (hi + m) = Crypto.unwrapSteps pkek n (part n a r (hi + m) m).1 (part n a r (hi + m) m).2 hi := by
  induction m generalizing a r with
  | zero => rfl
  | succ m ih =>
    show Crypto.unwrapSteps pkek n ((Crypto.aesDec pkek _).take 8) (r.set _ ((Crypto.aesDec pkek _).drop 8)) (hi + m) = _
    rw [pdec_eq]; exact ih _ _

/-- The registers of the unwrapping after eight steps each, as one number. -/
def reg (v : Nat) : Bytes × List Bytes :=
  ((leBytes 72 v).take 8, (List.range 8).map (fun i => ((leBytes 72 v).drop (8 * (i + 1))).take 8))

theorem part_0 : part 8 (reg 65214257807477858952160742653532824286594207062028651690301295382739489275425163888711079064202382477996143616120956023861803462061826570934619620959786377430163730924411864).1 (reg 65214257807477858952160742653532824286594207062028651690301295382739489275425163888711079064202382477996143616120956023861803462061826570934619620959786377430163730924411864).2 48 8 = reg 68010685775616877783986750971996514974684158908038341364096982884937922639652435208154025196736713008298539940866410007087909538283017020157586861244367565430688384675342743 := by decide +kernel
theorem part_1 : part 8 (reg 68010685775616877783986750971996514974684158908038341364096982884937922639652435208154025196736713008298539940866410007087909538283017020157586861244367565430688384675342743).1 (reg 68010685775616877783986750971996514974684158908038341364096982884937922639652435208154025196736713008298539940866410007087909538283017020157586861244367565430688384675342743).2 40 8 = reg 28156410297089208908977193581144500394449187685952112152047027340735830851529984662433292997732199090969358830569138979458914137600588771893884950216032897824458408380322211 := by decide +kernel
theorem part_2 : part 8 (reg 28156410297089208908977193581144500394449187685952112152047027340735830851529984662433292997732199090969358830569138979458914137600588771893884950216032897824458408380322211).1 (reg 28156410297089208908977193581144500394449187685952112152047027340735830851529984662433292997732199090969358830569138979458914137600588771893884950216032897824458408380322211).2 32 8 = reg 110029037036819215814698322583617700510636858897196305060693236372449316019063152211182540614411190457161759965283234882930302273059085500056339130400574449434599150780277378 := by decide +kernel
theorem part_3 : part 8 (reg 110029037036819215814698322583617700510636858897196305060693236372449316019063152211182540614411190457161759965283234882930302273059085500056339130400574449434599150780277378).1 (reg 110029037036819215814698322583617700510636858897196305060693236372449316019063152211182540614411190457161759965283234882930302273059085500056339130400574449434599150780277378).2 24 8 = reg 165515166581375794529501144596706913322231136021242918745725717816712510966885433696793403099636403498005171516573200523073477877573627728666829807166262978387097865047891419 := by decide +kernel
theorem part_4 : part 8 (reg 165515166581375794529501144596706913322231136021242918745725717816712510966885433696793403099636403498005171516573200523073477877573627728666829807166262978387097865047891419).1 (reg 165515166581375794529501144596706913322231136021242918745725717816712510966885433696793403099636403498005171516573200523073477877573627728666829807166262978387097865047891419).2 16 8 = reg 187341845103773466376313873592674673662572324679142973320771336867936917791163528900720641381952411278862112746953401214953145071003175365851243637393006028204633812175246649 := by decide +kernel
theorem part_5 : part 8 (reg 187341845103773466376313873592674673662572324679142973320771336867936917791163528900720641381952411278862112746953401214953145071003175365851243637393006028204633812175246649).1 (reg 187341845103773466376313873592674673662572324679142973320771336867936917791163528900720641381952411278862112746953401214953145071003175365851243637393006028204633812175246649).2 8 8 = reg 72623559221310942801430738009764771896491953760126194178199414665955470676542104303898655138948774 := by decide +kernel

theorem party_unwrap : Crypto.keyUnwrap pkek (sliceBytes bParty 48 72) = some (leBytes 32 17 ++ leBytes 32 34) := by
  have h0 : (sliceBytes bParty 48 72).take 8 = (reg 65214257807477858952160742653532824286594207062028651690301295382739489275425163888711079064202382477996143616120956023861803462061826570934619620959786377430163730924411864).1 ∧ (sliceBytes bParty 48 72).length = 72 ∧
      (List.range 8).map (fun i => ((sliceBytes bParty 48 72).drop (8 * (i + 1))).take 8) = (reg 65214257807477858952160742653532824286594207062028651690301295382739489275425163888711079064202382477996143616120956023861803462061826570934619620959786377430163730924411864).2 := by decide +kernel
  have hu : Crypto.unwrapSteps pkek 8 (reg 65214257807477858952160742653532824286594207062028651690301295382739489275425163888711079064202382477996143616120956023861803462061826570934619620959786377430163730924411864).1 (reg 65214257807477858952160742653532824286594207062028651690301295382739489275425163888711079064202382477996143616120956023861803462061826570934619620959786377430163730924411864).2 48 = reg 72623559221310942801430738009764771896491953760126194178199414665955470676542104303898655138948774 := by
    rw [unwrap_part 8 8 40, part_0, unwrap_part 8 8 32, part_1, unwrap_part 8 8 24, part_2, unwrap_part 8 8 16, part_3,
      unwrap_part 8 8 8, part_4, unwrap_part 8 8 0, part_5]
    rfl
  unfold Crypto.keyUnwrap
  simp only [h0.2.1, h0.1, h0.2.2, show 72 / 8 - 1 = 8 from rfl, show 6 * 8 = 48 from rfl, hu]
  decide +kernel

theorem keys_of {s : State} {g : Word} {eph wr z kek k : Bytes} (h1 : s.keysUsable = true) (h2 : Crypto.x25519 s.agreementKey eph = z)
    (hz : leNat z ≠ 0) (h3 : Crypto.hkdf512 (bvB 16 s.ten.bootNonce) z (ascii "ZX9 party key" ++ bvB 4 g) 32 = kek)
    (h4 : Crypto.keyUnwrap kek wr = some k) (h5 : k.take 32 ≠ k.drop 32) :
    s.partyKeys g eph wr = some (BitVec.ofNat 256 (leNat (k.take 32)), BitVec.ofNat 256 (leNat (k.drop 32))) := by
  unfold State.partyKeys
  simp [h1, h2, hz, h3, h4, h5]

theorem party_shared : Crypto.x25519 (fmB 0x44 bParty).agreementKey (sliceBytes bParty 16 32) = psecret := party_agree ▸ party_secret

theorem party_keys : ∃ k, (fmB 0x44 bParty).partyKeys (bodyGpid bParty) (sliceBytes bParty 16 32) (sliceBytes bParty 48 72) = some k :=
  ⟨_, keys_of (z := psecret) (kek := pkek) (k := leBytes 32 17 ++ leBytes 32 34) (by decide +kernel) party_shared (by decide +kernel)
    party_kek party_unwrap (by decide +kernel)⟩

theorem passes_create : Passes 0x40 0 bCreate := verified _ (by decide +kernel) (by decide +kernel) (by decide +kernel)
theorem passes_createT : Passes 0x40 0 bCreateT := verified _ (by decide +kernel) (by decide +kernel) (by decide +kernel)
theorem passes_owner6 : Passes 0x41 0 (bOwner 6) := verified _ (by decide +kernel) (by decide +kernel) (by decide +kernel)
theorem passes_owner7 : Passes 0x41 0 (bOwner 7) := verified _ (by decide +kernel) (by decide +kernel) (by decide +kernel)
theorem passes_grant : Passes 0x41 1 bGrant := verified _ (by decide +kernel) (by decide +kernel) (by decide +kernel)
theorem passes_revoke : Passes 0x42 0 (bRevoke 0) := verified _ (by decide +kernel) (by decide +kernel) (by decide +kernel)
theorem passes_destroy : Passes 0x42 2 (bRevoke 2) := verified _ (by decide +kernel) (by decide +kernel) (by decide +kernel)
theorem passes_revGrant : Passes 0x42 1 bRevGrant := verified _ (by decide +kernel) (by decide +kernel) (by decide +kernel)
theorem passes_wipe : Passes 0x43 0 bWipe := verified _ (by decide +kernel) (by decide +kernel) (by decide +kernel)
theorem passes_party : Passes 0x44 0 bParty := verified _ (by decide +kernel) (by decide +kernel) (by decide +kernel)
theorem passes_unparty : Passes 0x44 1 bUnparty := verified _ (by decide +kernel) (by decide +kernel) (by decide +kernel)
theorem passes_chan : Passes 0x44 2 bChan := verified _ (by decide +kernel) (by decide +kernel) (by decide +kernel)
theorem passes_gate : Passes 0x44 3 bGate := verified _ (by decide +kernel) (by decide +kernel) (by decide +kernel)
theorem passes_gateOff : Passes 0x44 3 bGateOff := verified _ (by decide +kernel) (by decide +kernel) (by decide +kernel)
theorem passes_watch : Passes 0x45 0 bWatch := verified _ (by decide +kernel) (by decide +kernel) (by decide +kernel)

/-- The extent that a body names, in the command's state. -/
def named (op : Nat) (b : Bytes) : Option Extent := (fmB op b).extent (bodyHandle b)

theorem witness_ExtentCommands :
    ((Passes 0x40 0 bCreate ∧ Passes 0x40 0 bCreateT ∧ Passes 0x41 0 (bOwner 6) ∧ Passes 0x41 0 (bOwner 7) ∧ Passes 0x41 1 bGrant) ∧
     (Passes 0x42 0 (bRevoke 0) ∧ Passes 0x42 2 (bRevoke 2) ∧ Passes 0x42 1 bRevGrant ∧ Passes 0x43 0 bWipe ∧ Passes 0x44 0 bParty) ∧
     Passes 0x44 1 bUnparty ∧ Passes 0x44 2 bChan ∧ Passes 0x44 3 bGate ∧ Passes 0x44 3 bGateOff ∧ Passes 0x45 0 bWatch) ∧
    (∀ b ∈ [bCreate, bCreateT], ((fmB 0x40 b).gpid (bodySlot b)).isSome = true ∧ (fmB 0x40 b).ten.extents.length < 32768 ∧
      (fmB 0x40 b).ten.nextHandle < 0xFFFFFFFF ∧ (fmB 0x40 b).poolKept + 128 * fieldAt b 4 4 ≤ (fmB 0x40 b).nearPool ∧
      (fmB 0x40 b).poolUsed + 128 * fieldAt b 4 4 ≤ (fmB 0x40 b).nearPool ∧ (fmB 0x40 b).variant.deep = true ∧
      128 * fieldAt b 4 4 ≤ (fmB 0x40 b).deepFree) ∧
    ((named 0x41 (bOwner 6)).map (·.state) = some .unassigned ∧ ((fmB 0x41 (bOwner 6)).gpid (bodySlot (bOwner 6))).isSome = true ∧
     (named 0x41 (bOwner 7)).map (·.state) = some .wiping ∧
     (named 0x41 bGrant).map (fun e => (e.vslots, e.state, (e.grants.filter (fun y => decide (y.gpid ≠ bodyGpid bGrant))).length)) = some (2, .owned, 1)) ∧
    (∀ b ∈ [bRevoke 0, bRevoke 2, bRevGrant], (named 0x42 b).map (·.state) = some .owned ∧ (fmB 0x42 b).place.windows = [] ∧
      NoLater (fmB 0x42 b) (dCmd 0x42 16) (bodyHandle b)) ∧
    (named 0x42 bRevGrant).map (fun e => (e.grants.find? (fun y => decide (y.gpid = bodyGpid bRevGrant))).isSome) = some true ∧
    ((named 0x43 bWipe).map (fun e => (e.state, e.wipeDesc, e.wipeRun)) = some (.owned, none, none) ∧ NoOtherWipe (fmB 0x43 bWipe) (bodyHandle bWipe)) ∧
    ((fmB 0x44 bParty).lcState = some .field ∧ (fmB 0x44 bParty).gpid (bodySlot bParty) = none ∧ (fmB 0x44 bParty).slotOf (bodyGpid bParty) = none ∧
     (∃ k, (fmB 0x44 bParty).partyKeys (bodyGpid bParty) (sliceBytes bParty 16 32) (sliceBytes bParty 48 72) = some k) ∧
     (fmB 0x44 bParty).ten.parties.length ≠ 1) ∧
    ((fmB 0x44 bUnparty).slotHolds (bodySlot bUnparty) = false ∧ (fmB 0x44 bChan).gpid (bodySlot bChan) ≠ none ∧ fieldAt bChan 3 1 % 2 = 0) ∧
    (fieldAt bGate 3 1 % 2 = 0 ∧ ((fmB 0x44 bGate).gate 8).owner = none ∧ (fmB 0x44 bGate).gpid (bodySlot bGate) ≠ none ∧
     fieldAt bGateOff 3 1 % 2 = 1 ∧ ((fmB 0x44 bGateOff).gate 9).owner = some (bodySlot bGateOff) ∧
     (verS (fmB 0x44 bGateOff) (dCmd 0x44 16) bGateOff).gateNamed (bodySlot bGateOff) 9 = false) ∧
    (fmB 0x45 bWatch).rel.changed = false ∧
    ({ (fmB 0x45 bWatch) with rel := { (fmB 0x45 bWatch).rel with changed := true } } : State).rel.changed = true := by
  have first := And.intro passes_create (And.intro passes_createT (And.intro passes_owner6 (And.intro passes_owner7 passes_grant)))
  have second := And.intro passes_revoke (And.intro passes_destroy (And.intro passes_revGrant (And.intro passes_wipe passes_party)))
  unfold NoLater NoOtherWipe
  refine ⟨⟨first, second, passes_unparty, passes_chan, passes_gate, passes_gateOff, passes_watch⟩, ?_, ?_, ?_, ?_, ?_,
    ⟨?_, ?_, ?_, party_keys, ?_⟩, ?_⟩ <;> decide +kernel

/-- Extent 1 with that word and these waits, a command of it at work. -/
def withE (e : Extent) : State := { withD (dCmd 0x42 16) with ten := { base.ten with extents := [(1, e)] } }
def inState (st : ExtState) : Extent := { extentOf .pinnedNear with word := Tv.all { owner := some 5, kind := .pinnedNear, state := st } }
def revokingE : Extent := { inState .revoking with revokedAt := some 1, revokeDesc := some 3 }
def ownedE : Extent := { inState .owned with wipeDesc := some 3, wipeRun := some 0 }
def wipingE : Extent := { inState .wiping with wipeRun := some 0 }

/-- A FENCE is not on the extent, a STORED COPY of it is. -/
def dLate : Desc := { desc0 ([(0, 1), (56, 4096)] ++ extSlot 24 1 0 ++ extSlot 40 1 4096) with accept := 2 }
def lateS : State := { withD dLate with ten := { base.ten with extents := [(1, inState .revoking)] } }

theorem witness_RevocationAndWipe :
    ((withE revokingE).extent 1 = some revokingE ∧ revokingE.state = .revoking ∧ revokingE.revokedAt = some 1 ∧
     (withE revokingE).drained 1 1 none = true ∧ revokingE.revokeDesc = some 3 ∧ revokingE.grantWaits = [] ∧ revokingE.wipeHold = false ∧
     revokingE.wipeRun = none ∧ (withE revokingE).desc 3 = some (dCmd 0x42 16) ∧ NoOtherWipe (withE revokingE) 1) ∧
    (ownedE.state = .owned ∧ ownedE.wipeDesc = some 3 ∧ ownedE.readOnly = false ∧
     (let s : State := { withE ownedE with clk := { base.clk with lcnt := 100000 } }
      s.extent 1 = some ownedE ∧ s.wipeDone ownedE = true ∧ s.desc 3 = some (dCmd 0x42 16) ∧ NoOtherWipe s 1)) ∧
    (wipingE.state = .wiping ∧ wipingE.destroying = false ∧ wipingE.readOnly = false ∧ wipingE.setOwnerWaits = [] ∧ wipingE.wipeDesc = none ∧
     (let s : State := { withE wipingE with clk := { base.clk with lcnt := 100000 } }
      s.extent 1 = some wipingE ∧ s.wipeDone wipingE = true ∧ ∀ q ∈ s.ten.extents, q.1 < 2 ^ 32)) ∧
    (lateS.desc 3 = some dLate ∧ dLate.phase ≠ .accepted ∧ lateS.program 3 = none ∧ dLate.opcode ≠ 0x18 ∧ lateS.pods.cores = [] ∧
     lateS.chan.descs.filter (fun e => decide (2 ≤ e.2.accept) && decide (e.2.phase ≠ .ended) && !e.2.decided && !e.2.isFm &&
      lateS.affects none e.2.party && lateS.namesExtent e.1 e.2 1) = [(3, dLate)]) := by
  unfold NoOtherWipe
  refine ⟨?_, ?_, ?_, ?_⟩ <;> decide +kernel

/-! ## Programs -/

theorem okBind {ε α β : Type} {x : Except ε α} {f : α → Except ε β} (h : (x.toOption.bind (fun a => (f a).toOption)).isSome = true) :
    ∃ a b, x = .ok a ∧ f a = .ok b := by
  cases x with
  | error e => cases h
  | ok a => cases hf : f a with
    | error e => simp [Except.toOption, hf] at h
    | ok b => exact ⟨a, b, rfl, hf⟩

theorem okErr {ε α β : Type} {x : Except ε α} {f : α → Except ε β} (h : x.toOption.map (fun a => (f a).toOption.isNone) = some true) :
    ∃ a e, x = .ok a ∧ f a = .error e := by
  cases x with
  | error e => cases h
  | ok a => cases hf : f a with
    | error e => exact ⟨a, e, rfl, hf⟩
    | ok b => simp [Except.toOption, hf] at h

/-- A LAUNCH on `n` pods of the image at page 0 of extent 1: one code word, entry 0, 8 bytes of arguments. -/
def dLaunch (n : Nat) : Desc := { desc0 [(0, 0x20), (24, 1), (32, 0x5000), (56, 8), (58, n)] with phase := .accepted, start := some 0 }
def imageMem : Table Byte :=
  [(2 ^ 48, 0x5A), (2 ^ 48 + 1, 0x58), (2 ^ 48 + 2, 0x50), (2 ^ 48 + 3, 0x47), (2 ^ 48 + 4, 1), (2 ^ 48 + 8, 4), (2 ^ 48 + 16, 8)]
def launchS (n : Nat) : State := { withD (dLaunch n) with ten := { base.ten with mem := imageMem } }
def argHost : HostData := { bytes := zeros 8, refused := none }

/-- Its launch-table entry. -/
def prog1 : Program :=
  { desc := 3, chan := 2, party := 5, cls := 0, pods := 1, image := 1, page := 0, codeBytes := 4, entry := 0, args := []
    saveScratch := 0, saveShared := 0, ctx := none, segs := [] }
def progS (g : Program) : State :=
  { launchS 1 with pods := { programs := [(3, g)], queue := [3], pods := [(0, { state := .running, prog := some 3, party := some 5 })] } }

/-- An image of a kind: SVN 0, key 0, 64 bytes of body, signed so. -/
def image0 (kind : Nat) : Bytes :=
  leBytes 64 (0x5746585A + 2 ^ 32 + kind * 2 ^ 40 + 64 * 2 ^ 96) ++ leBytes 64 1 ++ zeros 64
def imgData (kind : Nat) : HostData := { bytes := image0 kind, refused := none }

/-- `s` with an image of each kind, valid under firmware keys of the identity point, in slot A. -/
def withFw (s : State) : State :=
  { s with sec := { s.sec with fwKeys := [1, 1, 1, 1], fw := [0, 1, 2].map (fun k => (k, { a := ⟨some (image0 k), true⟩ })) } }

theorem fw_ok : ∀ k ∈ [0, 1, 2], (withFw base).fwOk k = true := by decide +kernel

/-- `progS` on pod 0 in that state, and the programs that are loaded there: fresh, restored, a combine program. -/
def onPod0 (st : PodState) (g : Program) : State :=
  { progS g with pods := { (progS g).pods with pods := [(0, { state := st, prog := some 3, party := some 5 })] } }
def loads : Program := { prog1 with state := .loading, on := [0] }
def save8 : PodSave := { words := [], bytes := [], cores := List.replicate 8 {} }
def restores : Program := { loads with restored := true, saved := [save8] }

/-- The code of the program at the state that reads it is one zero word. -/
theorem code_zeros : ∀ g ∈ [loads, restores],
    ((given (onPod0 .loading g) (.program 3) g.codeBlocks).codeOf g).toOption = some (zeros 4) := by decide +kernel

theorem witness_ProgramLaunch :
    (∀ n ∈ [0, 1], (launchS n).desc 3 = some (dLaunch n) ∧ (dLaunch n).opcode = 0x20 ∧ (dLaunch n).phase = .accepted ∧
      (dLaunch n).decided = false ∧ (launchS n).program 3 = none ∧ (launchS n).hasBuf (dLaunch n) = true ∧ (dLaunch n).party = some 5 ∧
      (dLaunch n).field 56 2 ≤ argHost.bytes.length ∧ argHost.refused = none ∧ (dLaunch n).cut = false ∧ (dLaunch n).field 24 4 = 1 ∧
      (dLaunch n).field 28 4 = 0 ∧ Readable (launchS n) srcMovers (.desc 4) (accsOf 1 0 4096 false) (Slot.blocks (.ext 1 0) 4096)) ∧
    Names (launchS 1) (dLaunch 1) 32 (.host 0x5000 false) ∧ Names (launchS 0) (dLaunch 0) 32 (.host 0x5000 false) ∧
    (∃ page g, (given (launchS 1) (.desc 4) (Slot.blocks (.ext 1 0) 4096)).readExt 1 0 4096 = .ok page ∧
      (launchS 1).launchChecks 3 (dLaunch 1) 5 page (argHost.bytes.take 8) = .ok g) ∧
    (∃ page st, (given (launchS 0) (.desc 4) (Slot.blocks (.ext 1 0) 4096)).readExt 1 0 4096 = .ok page ∧
      (launchS 0).launchChecks 3 (dLaunch 0) 5 page (argHost.bytes.take 8) = .error st) ∧
    (∀ r ∈ [false, true], (progS { prog1 with restored := r }).pods.queue = [3] ∧
      (progS { prog1 with restored := r }).program 3 = some { prog1 with restored := r } ∧ (progS { prog1 with restored := r }).active = true ∧
      prog1.pods ≤ (progS { prog1 with restored := r }).freePods.length) ∧
    (∀ g ∈ [loads, restores], (onPod0 .loading g).program 3 = some g ∧ g.state = .loading ∧ g.combine = false ∧
      (∀ p ∈ g.on, ((onPod0 .loading g).pod p).state = .loading) ∧
      Readable (onPod0 .loading g) srcPods (.program 3) g.codeAccs g.codeBlocks ∧ g.on.Nodup ∧ g.args.length ≤ 256 ∧
      (zeros 4).length ≤ 2 ^ 20) ∧
    (∀ g ∈ [loads, restores], (given (onPod0 .loading g) (.program 3) g.codeBlocks).codeOf g = .ok (zeros 4)) ∧
    (loads.restored = false ∧ restores.restored = true ∧ restores.on = [0] ∧ restores.saved = [save8] ∧ save8.cores.length = 8) ∧
    (let g := { loads with combine := true }
     (onPod0 .loading g).program 3 = some g ∧ g.state = .loading ∧ g.combine = true ∧ ∀ p ∈ g.on, ((onPod0 .loading g).pod p).state = .loading) := by
  unfold Readable
  refine ⟨?_, namesOf ?_, namesOf ?_, okBind ?_, okErr ?_, ?_, ?_, fun g hg => okOf (code_zeros g hg), ?_, ?_⟩ <;> decide +kernel

/-- Programs at the end of their quantum, of a save, and of their run; one that runs while its pod is reset. -/
def slices : Program := { prog1 with state := .running, on := [0], ctx := some (2, 0), quantum := 900 }
def saves : Program := { prog1 with state := .saving, on := [0], ctx := some (1, 0) }
def ends_ : Program := { prog1 with state := .ending, on := [0] }
def runs : Program := { prog1 with state := .running, on := [0] }
def resets : State := withFw (onPod0 .resetting runs)

theorem witness_ProgramSlicesAndEnds :
    ((progS slices).program 3 = some slices ∧ slices.state = .running ∧ slices.ctx ≠ none ∧ slices.quantum ≤ (progS slices).now ∧
     (progS slices).pods.queue ≠ []) ∧
    ((onPod0 .saving saves).program 3 = some saves ∧ saves.state = .saving ∧ saves.on.Nodup ∧ (∀ p ∈ saves.on, (onPod0 .saving saves).podIdle p = true) ∧
     saves.ctx = some (1, 0) ∧ (onPod0 .saving saves).granting srcPods (.program 3) (accsOf 1 (4096 * 0) (slotBytes * saves.pods) true) = true) ∧
    ((progS ends_).program 3 = some ends_ ∧ (progS ends_).programOver ends_ = true ∧ (∀ p ∈ ends_.on, (progS ends_).podDone p = true) ∧
     ends_.combine = false ∧ (progS ends_).desc ends_.desc = some (dLaunch 1)) ∧
    (0 < base.variant.pods ∧ (base.pod 0).state ≠ .out) ∧
    (let s := withFw { base with pods := { pods := [(0, { state := .resetting })] } }
     (s.pod 0).state = .resetting ∧ s.sec.activating ≠ some (2, 0) ∧ (s.pod 0).prog = none ∧ (s.pod 0).moving = false ∧ s.fwOk 2 = true) ∧
    ((resets.pod 0).state = .resetting ∧ resets.sec.activating ≠ some (2, 0) ∧ (resets.pod 0).prog = some 3 ∧ resets.program 3 = some runs ∧
     runs.state = .running ∧ runs.combine = false ∧ (resets.pod 0).moving = false ∧ resets.fwOk 2 = true ∧
     Readable resets srcPods (.program 3) runs.codeAccs runs.codeBlocks) ∧
    (given resets (.program 3) runs.codeBlocks).codeOf runs = .ok (zeros 4) := by
  unfold Readable
  refine ⟨?_, ?_, ?_, ?_, ?_, ?_, okOf ?_⟩ <;> decide +kernel

/-! ## The fabric and collectives -/

/-- `base` as DID 1 with port 0 up, with the shared region 4 of GPID 77, and this packet from DID 3 for it. -/
def fabS : State :=
  { base with
    fab := { base.fab with did := some 1, ports := [(0, { state := .up })] }
    ten := { base.ten with extents := base.ten.extents ++ [(4, region)] } }
def pkt (ty flags : Nat) (h : Word) (off tag arg : Nat) (body : Bytes) : Packet :=
  mkPacket { ptype := ty, flags := flags, cls := 63, gpid := 77, handle := h, offset := off, btag := tag, arg := arg } 3 1 100 9 body
def raw4096 : Bytes := List.replicate 4096 0xA5

/-- The state that a packet on port 0 leaves by its arrival. -/
def got (s : State) (p : Packet) : State := s.arrives 0 (fun q => decide (q = p))

theorem arrives {s : State} {p : Packet} {ty : Nat} (h : ((s.fport 0).sealed = true ∧ p.ok = true ∧ s.fab.did = some (BitVec.ofNat 12 p.dst)) ∧
    p.ptype = ty ∧ s.active = true ∧ s.fab.dedup = [] ∧ s.isServing p = false ∧ (got s p).comp.taker = none) : Arrives s (got s p) 0 p ty := by
  obtain ⟨hr, ht, ha, hd, hs, hc⟩ := h
  refine ⟨⟨rfl, hr⟩, ht, ha, ?_, ?_, hs, hc⟩
  · rw [hd]; exact fun _ => by decide
  · rw [hd]; exact fun e he => nomatch he

/-- Requests for `fabS`: a READ without reach, of plain bytes, of a block; a WRITE of a block, of bytes; GATE; PUBLISH and its
COMMIT; VERSION and its end. -/
def rdBad : Packet := pkt pRead 0 9 0 0 16 []
def rdBytes : Packet := pkt pRead 0 1 0 0 16 []
def rdBlock : Packet := pkt pRead 2 1 4096 0 4096 []
def wrBlock : Packet := pkt pWrite 3 1 4096 0x3F 0 raw4096
def wrBytes : Packet := pkt pWrite 0 1 4090 0 0 (zeros 16)
def opens : Packet := pkt pGate 1 0 0 0 (9 + 3 * 2 ^ 32) []
def pubs : Packet := pkt pPublish 1 4 0 0 (2 * 256 + 7 * 2 ^ 32) []
def commits : Packet := pkt pPublish 1 4 0 0 (1 + 2 * 256 + 7 * 2 ^ 32) []
def reads : Packet := pkt pVersion 1 4 0 0 0 []
def readsEnd : Packet := pkt pVersion 1 4 0 0 (1 + 7 * 2 ^ 32) []

/-- `fabS` whose region's slot 0 is being written by that peer. -/
def regionW : Extent := region.setVslot 0 { state := .writing, version := 7, blocks := 2, used := true, writer := some (3, 77) }
def fabW : State := fabS.setExtent 4 regionW

theorem witness_FabricRequests :
    (Arrives fabS (got fabS rdBad) 0 rdBad pRead ∧ rdBad.arg % 8192 = 16 ∧ rdBad.flag 4 = false ∧
     ((got fabS rdBad).reach (some rdBad.gpid) rdBad.handle rdBad.offset 16 .data false fabS.now).isSome = true) ∧
    (Arrives fabS (got fabS rdBytes) 0 rdBytes pRead ∧ rdBytes.arg % 8192 = 16 ∧ rdBytes.flag 4 = false ∧ rdBytes.flag 1 = false ∧
     (got fabS rdBytes).reach (some rdBytes.gpid) rdBytes.handle rdBytes.offset 16 .data false fabS.now = none ∧
     Readable (got fabS rdBytes) ((got fabS rdBytes).pktSource rdBytes) (pktWho rdBytes) (accsOf 1 0 16 false) (Slot.blocks (.ext 1 0) 16)) ∧
    (∃ b, (given (got fabS rdBytes) (pktWho rdBytes) (Slot.blocks (.ext 1 0) 16)).readExt 1 0 16 = .ok b) ∧
    (Arrives fabS (got fabS rdBlock) 0 rdBlock pRead ∧ rdBlock.flag 1 = true ∧ rdBlock.flag 4 = false ∧ rdBlock.offset % 4096 = 0 ∧
     rdBlock.arg % 8192 = 4096 ∧
     (got fabS rdBlock).reach (some rdBlock.gpid) rdBlock.handle rdBlock.offset 4096 .data false fabS.now = none ∧
     Readable (got fabS rdBlock) ((got fabS rdBlock).pktSource rdBlock) (pktWho rdBlock) (accsOf 1 4096 4096 false) [] ∧
     mwPoison ((got fabS rdBlock).blkMeta rdBlock.handle (rdBlock.offset / 4096)) = false) ∧
    (Arrives fabS (got fabS wrBlock) 0 wrBlock pWrite ∧ wrBlock.flag 3 = false ∧ wrBlock.flag 4 = false ∧ wrBlock.flag 1 = true ∧
     wrBlock.offset % 4096 = 0 ∧ (got fabS wrBlock).reach (some wrBlock.gpid) wrBlock.handle wrBlock.offset 4096 .data true fabS.now = none ∧
     (got fabS wrBlock).granting ((got fabS wrBlock).pktSource wrBlock) (pktWho wrBlock) (accsOf 1 4096 4096 true) = true ∧
     (got fabS wrBlock).arriving wrBlock = none ∧ wrBlock.btag < 128) ∧
    (Arrives fabS (got fabS wrBytes) 0 wrBytes pWrite ∧ wrBytes.flag 1 = false ∧ wrBytes.flag 3 = false ∧ wrBytes.flag 4 = false ∧
     (got fabS wrBytes).reach (some wrBytes.gpid) wrBytes.handle wrBytes.offset wrBytes.body.length .data true fabS.now = none ∧
     (got fabS wrBytes).granting ((got fabS wrBytes).pktSource wrBytes) (pktWho wrBytes) (accsOf 1 4090 16 true) = true ∧
     (∀ b, b < 2 ^ 36 → (got fabS wrBytes).blkMeta wrBytes.handle b = 0x3F) ∧ wrBytes.offset + wrBytes.body.length ≤ 2 ^ 48) ∧
    (Arrives fabS (got fabS opens) 0 opens pGate ∧ (got fabS opens).slotOf opens.gpid = some 5 ∧ BitVec.ofNat 8 opens.arg = 9 ∧
     ((got fabS opens).gate 9).owner = some 5) ∧
    (Arrives fabS (got fabS pubs) 0 pubs pPublish ∧ (got fabS pubs).extent pubs.handle = some region ∧ pubs.arg % 2 = 0 ∧
     (got fabS pubs).reach (some pubs.gpid) pubs.handle 0 0 .publish true fabS.now = none ∧ publishStatus region pubs.version pubs.blocks = none ∧
     (got fabS pubs).wipeHolds region fabS.now = false ∧ region.pick = some 0 ∧ 0 < region.slots.length) ∧
    (Arrives fabW (got fabW commits) 0 commits pPublish ∧ (got fabW commits).extent commits.handle = some regionW ∧ commits.arg % 2 = 1 ∧
     (got fabW commits).reach (some commits.gpid) commits.handle 0 0 .publish true fabW.now = none ∧
     (List.range regionW.slots.length).find? (fun k => decide ((regionW.vslot k).state = .writing) &&
       decide ((regionW.vslot k).writer = some (commits.src, commits.gpid)) &&
       decide ((regionW.vslot k).blocks = commits.blocks) && decide ((regionW.vslot k).version = commits.version)) = some 0) ∧
    (Arrives fabS (got fabS reads) 0 reads pVersion ∧ (got fabS reads).extent reads.handle = some region ∧
     (got fabS reads).reach (some reads.gpid) reads.handle 0 0 .fetch false fabS.now = none ∧ reads.arg % 2 = 0 ∧
     (got fabS reads).wipeHolds region fabS.now = false ∧ region.chooseVersion reads.version = some (1, 7) ∧ 1 < region.slots.length) ∧
    (Arrives fabS (got fabS readsEnd) 0 readsEnd pVersion ∧ (got fabS readsEnd).extent readsEnd.handle = some region ∧
     (got fabS readsEnd).reach (some readsEnd.gpid) readsEnd.handle 0 0 .fetch false fabS.now = none ∧ readsEnd.arg % 2 = 1 ∧
     region.holder readsEnd.version = some 1 ∧ (region.vslot 1).remote.find? (fun r => decide (r.1 = readsEnd.src)) = some (3, 100)) := by
  unfold Readable
  refine ⟨⟨arrives ?_, ?_⟩, ⟨arrives ?_, ?_⟩, ⟨zeros 16, okOf ?_⟩, ⟨arrives ?_, ?_⟩, ⟨arrives ?_, ?_⟩,
    ⟨arrives ?_, ?_, ?_, ?_, ?_, ?_, fun _ _ => rfl, ?_⟩, ⟨arrives ?_, ?_⟩, ⟨arrives ?_, ?_⟩, ⟨arrives ?_, ?_⟩, ⟨arrives ?_, ?_⟩,
    arrives ?_, ?_⟩ <;> decide +kernel

/-- A GATE_OPEN of descriptor 3 for DID 2 under TXID 9, sent `n` times, last at count `l`. -/
def dGate : Desc := { desc0 [(0, 0x32)] with phase := .working }
def reqOf (n l : Nat) : PeerReq := { desc := some 3, index := 0, bytes := 0, pkt := pkt pGate 1 0 0 0 9 [], sends := n, last := l }
def reqS (n l : Nat) : State := { withD dGate with fab := { fabS.fab with reqs := [(9, reqOf n l)] } }

/-- A response to it, a HOLD, one to no request; the request sent `n` times and due again; a READ held since count 1,000. -/
def answers : Packet := pkt (pGate + 128) 1 0 0 0 0 []
def holds : Packet := pkt 0x7F 0 0 0 0 0 []
def strays : Packet := mkPacket { ptype := pGate + 128, gpid := 77 } 3 1 100 8 []
def lateReq (n : Nat) : State := { reqS n 900 with clk := { base.clk with lcnt := 13400 } }
def serves : State :=
  { fabS with clk := { base.clk with lcnt := 2250 }, fab := { fabS.fab with serving := [{ pkt := rdBytes, since := 1000, arrived := 1000 }] } }

theorem received {s : State} {p : Packet} (h : (s.fport 0).sealed = true ∧ p.ok = true ∧ s.fab.did = some (BitVec.ofNat 12 p.dst)) :
    Received s (got s p) 0 p := ⟨rfl, h⟩

theorem witness_FabricResponses :
    (Received (reqS 1 900) (got (reqS 1 900) answers) 0 answers ∧ (∀ q ∈ (reqS 1 900).fab.reqs, q.2.sends ≠ 0) ∧
     (reqS 1 900).fab.landing = [] ∧ (reqS 1 900).comp.taker = none ∧
     Table.find (reqS 1 900).fab.reqs answers.txid.toNat = some (reqOf 1 900) ∧ answers.ptype = (reqOf 1 900).pkt.ptype + 128 ∧
     answers.status ≠ St.resend ∧ (reqOf 1 900).pkt.ptype = pGate ∧ (reqOf 1 900).desc = some 3 ∧ (reqS 1 900).desc 3 = some dGate ∧
     dGate.opcode = 0x32 ∧ dGate.phase = .working) ∧
    (Received (reqS 1 900) (got (reqS 1 900) strays) 0 strays ∧ Table.find (reqS 1 900).fab.reqs strays.txid.toNat = none) ∧
    (Received (reqS 1 900) (got (reqS 1 900) holds) 0 holds ∧ holds.ptype = 0x7F ∧
     Table.find (reqS 1 900).fab.reqs holds.txid.toNat = some (reqOf 1 900) ∧ (reqOf 1 900).desc.bind (reqS 1 900).reduceOf = none) ∧
    ((∀ n ∈ [1, 4], Table.find (lateReq n).fab.reqs (9#32).toNat = some (reqOf n 900) ∧ (reqOf n 900).sends ≠ 0 ∧
       (reqOf n 900).last + (lateReq n).fab.e2eWait.toNat ≤ (lateReq n).now) ∧
     (reqOf 1 900).sends < (lateReq 1).fab.tries.toNat ∧ (lateReq 4).fab.tries.toNat ≤ (reqOf 4 900).sends ∧
     (lateReq 4).desc 3 = some dGate) ∧
    (serves.fab.serving.find? (fun q => decide (q.pkt.src = 3) && decide (q.pkt.txid = 9)) = some { pkt := rdBytes, since := 1000, arrived := 1000 } ∧
     1000 + 1250 ≤ serves.now) := by
  refine ⟨⟨received ?_, ?_⟩, ⟨received ?_, ?_⟩, ⟨received ?_, ?_⟩, ?_, ?_⟩ <;> decide +kernel

/-- Plain bytes came out, not a status. -/
def isBytes (p : BlkRead) : Bool := match p with | .bytes _ => true | _ => false
theorem bytesOf {p : BlkRead} (h : isBytes p = true) : ∃ b, p = .bytes b := by
  cases p <;> first | exact ⟨_, rfl⟩ | cases h

/-- A REDUCE of two blocks of extent 1 in group 1, and its entry. -/
def dRed (sub : Nat) : Desc :=
  desc0 [(0, 0x21), (1, sub), (24, 1), (32, 1), (36, 100), (40, 2), (44, 7), (46, 1), (47, 1), (48, 1), (50, 0)]
def red0 : Reduce := { desc := 3, group := 1, k := 0, ready := none, heard := 0 }
def group1 : Group := { valid := true, party := 5, members := 2, rank := 0, dids := [(0, 1), (1, 3)], k := 1 }
def redS (x : Desc) (e : Reduce) : State :=
  { withD x with fab := { fabS.fab with groups := [(1, group1)], reduces := [e] } }
def redRun (sub : Nat) : State :=
  { redS { dRed sub with phase := .working } { red0 with arrived := [2] } with
    pods := { programs := [(3, { combineProgram 3 (dRed sub) 5 with state := .running })] } }

/-- `dRed` while it works, while it is accepted, and once it has been silent too long. -/
def dRedW (sub : Nat) : Desc := { dRed sub with phase := .working }
def redNew : State := redS { dRed 0 with phase := .accepted } red0
def redQuiet : State := { redS (dRedW 0) red0 with clk := { base.clk with lcnt := 0x2000000 } }

/-- Collective packets from DID 3. -/
def ready0 : Packet := pkt pRedReady 1 0 0 0 1 (zeros 24)
def ready1 : Packet := pkt pRedReady 1 0 0 0 (1 + 65536) (zeros 24)
def counts0 : Packet := pkt pRedCounts 1 0 0 0 1 (zeros 1536)
def abort0 : Packet := pkt pRedAbort 1 0 0 0 1 []

theorem witness_Collectives :
    (∀ sub ∈ [0, 1], AtUnit (redS (dRed sub) red0) 3 0x21 sub (dRed sub) ∧ (dRed sub).party = some 5 ∧
      (redS (dRed sub) red0).reduceOf 3 = some red0 ∧ red0.ready = none ∧ red0.summed = [] ∧ red0.sentCounts = false ∧
      ((redS (dRed sub) red0).group 1).chunk (dRed sub) ((redS (dRed sub) red0).group 1).rank.toNat ≠ []) ∧
    (∀ sub ∈ [0, 1], (redRun sub).desc 3 = some (dRedW sub) ∧ (dRedW sub).phase = .working ∧ (dRedW sub).opcode = 0x21 ∧ (dRedW sub).subop = sub ∧
      (redRun sub).reduceOf 3 = some { red0 with arrived := [(dRedW sub).redBlocks + 0] } ∧ 0 < (dRedW sub).redBlocks ∧
      (redRun sub).combineRuns 3 = true ∧ (redRun sub).table (dRedW sub).redTable = some { owner := 5, list := [], loadRef := true, refs := 3 } ∧
      (redRun sub).readOnly (dRedW sub).redDst.1 = false) ∧
    (∀ sub ∈ [0, 1],
      (redRun sub).granting srcMovers (.desc 4) (accsOf (dRedW sub).redSrc.1 (4096 * (dRedW sub).redSrc.2) (4096 * (dRedW sub).redBlocks) false ++
        accsOf (dRedW sub).redDst.1 (4096 * (dRedW sub).redDst.2) (8192 * (dRedW sub).redBlocks) true) = true ∧
      isBytes ((redRun sub).slotPlain ((dRedW sub).dstBlk ((dRedW sub).redBlocks + 0))) = true ∧
      isBytes ((redRun sub).slotPlain ((dRedW sub).srcBlk 0)) = true) ∧
    (ForReduce redNew (got redNew ready0) 0 ready0 pRedReady red0 ∧
     ready0.src = (((got redNew ready0).group ready0.group).did ((got redNew ready0).group ready0.group).next).toNat ∧ ready0.body.length = 24 ∧
     (got redNew ready0).desc red0.desc = some { dRed 0 with phase := .accepted }) ∧
    (let a := got redNew ready1
     Arrives redNew a 0 ready1 pRedReady ∧ a.groupOk ready1 = true ∧
     ready1.src = ((a.group ready1.group).did (a.group ready1.group).next).toNat ∧ ready1.body.length = 24 ∧
     a.reduceAt ready1.group ready1.index = none ∧ (a.group ready1.group).k ≤ ready1.index ∧
     (a.group ready1.group).ready.any (fun r => decide (r.1 = ready1.index)) = false) ∧
    (ForReduce redNew (got redNew counts0) 0 counts0 pRedCounts red0 ∧
     ((got redNew counts0).group counts0.group).others.find?
       (fun r => decide ((((got redNew counts0).group counts0.group).did r).toNat = counts0.src)) = some 1 ∧
     counts0.body.length = 1536 ∧ (got redNew counts0).desc red0.desc = some { dRed 0 with phase := .accepted } ∧ 1 ∉ red0.counted) ∧
    (let s := redS (dRedW 0) red0
     ForReduce s (got s abort0) 0 abort0 pRedAbort red0 ∧
     ((got s abort0).group abort0.group).others.any (fun r => decide ((((got s abort0).group abort0.group).did r).toNat = abort0.src)) = true ∧
     (got s abort0).desc red0.desc = some (dRedW 0) ∧ (dRedW 0).phase ≠ .ended) ∧
    (redQuiet.fab.reduceWait ≠ 0 ∧
     redQuiet.fab.reduces.filter (fun f => decide (f.group = 1 ∧ f.heard + redQuiet.fab.reduceWait.toNat ≤ redQuiet.now)) = [red0] ∧
     redQuiet.desc red0.desc = some (dRedW 0) ∧ (dRedW 0).phase = .working) := by
  unfold AtUnit
  refine ⟨?_, ?_, ?_, ⟨⟨arrives ?_, ?_⟩, ?_⟩, ⟨arrives ?_, ?_⟩, ⟨⟨arrives ?_, ?_⟩, ?_⟩, ⟨⟨arrives ?_, ?_⟩, ?_⟩, ?_⟩ <;> decide +kernel

/-! ## Banks, encoders and the memory path -/

/-- A table of one-bit codes for symbol 0 and the husk of a block of zeros under it, in the store of pod 0. -/
def list1 : Bytes := 1 :: List.replicate 127 0
def husk1 : Table Byte :=
  [(0, 16), (2, 7), (4, 128), (6, 8), (7, 128), (9, 8), (10, 128), (12, 8), (13, 128), (15, 8), (16, 128), (18, 8), (19, 128), (21, 8), (22,
   128), (24, 8), (25, 128), (27, 8), (28, 128), (30, 8), (31, 128), (33, 8), (34, 128), (36, 8), (37, 128), (39, 8), (40, 128), (42, 8), (43,
   128), (45, 8), (46, 128), (48, 8), (49, 128), (51, 8), (52, 121), (53, 170), (54, 181), (55, 97), (56, 9), (60, 115), (61, 235), (62, 219),
   (63, 123)]
def qHusk (owner : Nat) : BankBlock := { owner := owner, addr := 0, word := mkMeta 7 false 9 }
def qRaw (owner : Nat) : BankBlock := { owner := owner, addr := 0, word := 0x3F }

/-- A slot of table 7 with that list, arrays and CRC, and once filled. -/
def slotOf (l : Bytes) (k : Canon) (c : Nat) : BankSlot := { id := 7, filling := false, used := 0, list := l, arrays := k, crc := c }
def slot7 : BankSlot := slotOf list1 (canon list1) (crc32c list1)

/-- A module with this bank: its queue and slot. -/
def slotS (k : Nat) (l : List BankBlock) (sl : BankSlot) (x : Desc) : State :=
  { withD x with
    comp := { tables := [(7, { owner := 5, list := list1, loadRef := true, refs := 3 })], banks := [(k, { queue := l, slots := [sl] })] }
    pods := { mem := husk1 } }
def bankS (k : Nat) (l : List BankBlock) (x : Desc) : State := slotS k l (slotOf list1 ⟨[], [], []⟩ 0) x

/-- A husk in its buffer, checked: its bank finds it whatever its bytes and its slot's contents are. -/
def inBuffer (q : BankBlock) (d : Bytes) : BankBlock := { q with phase := .checked, data := d }

theorem husk_next (d l : Bytes) (k : Canon) (c : Nat) : (let s := slotS 0 [inBuffer (qHusk 0) d] (slotOf l k c) dDec
    (s.bank 0).queue.find? (fun r => decide (r.phase = .checked) && (s.bank 0).ready r.word && s.oldestOf r)) = some (inBuffer (qHusk 0) d) := by
  have hb : (slotS 0 [inBuffer (qHusk 0) d] (slotOf l k c) dDec).bank 0 = { queue := [inBuffer (qHusk 0) d], slots := [slotOf l k c] } := rfl
  have ho : (slotS 0 [inBuffer (qHusk 0) d] (slotOf l k c) dDec).oldestOf (inBuffer (qHusk 0) d) = true := by
    unfold State.oldestOf State.coreQueue
    rw [show (inBuffer (qHusk 0) d).owner / 4 = 0 from Nat.zero_div 4, hb]
    simp [inBuffer, qHusk]
  have hr : Bank.ready { queue := [inBuffer (qHusk 0) d], slots := [slotOf l k c] } (inBuffer (qHusk 0) d).word = true := by
    simp only [Bank.ready, slotOf, inBuffer, qHusk, List.any_cons]
    exact Bool.or_eq_true_iff.mpr (.inr (Bool.or_eq_true_iff.mpr (.inl (show (decide ((7 : BitVec 16) = mwId (mkMeta 7 false 9)) && !false) = true by decide +kernel))))
  simp only [hb, List.find?_cons, ho, hr, show (inBuffer (qHusk 0) d).phase = .checked from rfl, decide_true, Bool.and_self]

/-- The husk with its bytes, in a bank whose slot is filled. -/
def qDone : BankBlock := inBuffer (qHusk 0) (Store.read husk1 0 (64 * 9))
def doneS : State := slotS 0 [qDone] slot7 dDec

theorem husk_decodes : ∃ v, (doneS.bank 0).decode qDone = .bytes v := bytesOf (by decide +kernel)

/-- A DECODE of one block to the host, and an encoder job of one block of extent 1 for descriptor 3 or core 0. -/
def dDecH : Desc := { desc0 ([(0, 3), (40, 0x5000), (56, 1)] ++ extSlot 24 1 0) with phase := .working }
def job (d c : Option Nat) : EncJob :=
  { desc := d, core := c, index := 0, bytes := zeros 4096, toPod := false, dst := 2 ^ 36 + 1, tableId := 7, elem := 0, hctx := none, order := 0 }
def dJob : Desc := { dEnc with phase := .working, jobs := 1 }
def encS (j : EncJob) : State :=
  { bankS 0 [] dJob with comp := { (bankS 0 [] dJob).comp with engines := [(0, [j])] } }
def crcS (l : List (Nat × CrcStage)) : State := { base with comp := { base.comp with recovering := l } }

/-- Egress bank 0 with a husk of the DECODE, whose block is a husk, raw or poisoned now. -/
def egressS (l : Table Word) : State := { bankS 1000 [qHusk 3] dDec with ten := { base.ten with metas := l } }

/-- A husk of pod 0's first position that waits at egress bank 0 for descriptor 3's COPY, and that bank. -/
def qPod : BankBlock := { owner := 0, addr := Slot.key (.pod 0 0), word := mkMeta 7 false 9, reader := some (.desc 4) }
def podS : State := bankS 1000 [qPod] dHusk

theorem witness_BanksAndEncoders :
    (base.bankDown (.pod 0) = false ∧ base.bankDown (.egress 0) = false) ∧
    (let s := bankS 0 [qHusk 0] dDec
     s.bankDown (.pod 0) = false ∧ s.turn 0 = some (qHusk 0) ∧ mwTag (qHusk 0).word ≠ 0x3F ∧
     ((s.bank 0).queue.filter (fun r => decide (r.phase = .checked))).length < 2) ∧
    (∀ l ∈ [[], [(extBlkKey 1 0, mkMeta 7 true 9)], [(extBlkKey 1 0, mkMeta 7 false 9)]],
      (egressS l).bankDown (.egress 0) = false ∧ ((egressS l).bank (1000 + 0)).ingests = some (qHusk 3) ∧
      (egressS l).bankSource (qHusk 3) = some (.ext 1 0)) ∧
    ((egressS []).slotWord (.ext 1 0) = 0x3F ∧ (egressS [(extBlkKey 1 0, mkMeta 7 true 9)]).slotWord (.ext 1 0) = mkMeta 7 true 9 ∧
     (egressS [(extBlkKey 1 0, mkMeta 7 false 9)]).slotWord (.ext 1 0) = mkMeta 7 false 9) ∧
    (podS.bankDown (.egress 0) = false ∧ (podS.bank (1000 + 0)).ingests = some qPod ∧ podS.bankSource qPod = some (.pod 0 0)) ∧
    (doneS.bankDown (.pod 0) = false ∧ mwTag qDone.word ≠ 0x3F) ∧
    ((doneS.bank 0).queue.find? (fun r => decide (r.phase = .checked) && (doneS.bank 0).ready r.word && doneS.oldestOf r) = some qDone ∧
      ∃ v, (doneS.bank 0).decode qDone = .bytes v) ∧
    (let s := bankS 0 [qRaw 0] dDec
     s.bankDown (.pod 0) = false ∧
     (s.bank 0).queue.find? (fun r => decide (r.phase = .checked) && (s.bank 0).ready r.word && s.oldestOf r) = none ∧ s.turn 0 = some (qRaw 0) ∧
     mwTag (qRaw 0).word = 0x3F ∧ s.oldestOf (qRaw 0) = true) ∧
    (let s := bankS 1000 [qRaw 3] dDecH
     s.bankDown (.egress 0) = false ∧ (s.bank (1000 + 0)).next [] (s.bank (1000 + 0)).queue = some (qRaw 3) ∧ (qRaw 3).reader = none ∧
     s.desc (qRaw 3).owner = some dDecH ∧ s.srcAt dDecH (qRaw 3).addr = some (.ext 1 0) ∧
     s.dstAt dDecH (qRaw 3).addr = some (.host 0x5000 false) ∧ s.blkMeta 1 0 = 0x3F ∧
     s.granting srcMovers (.desc dDecH.go) (accsOf 1 0 4096 false) = true) ∧
    (dDecH.cut = false ∧ dDecH.stop = none ∧ dDecH.poisoned = false ∧ dDecH.bad = none ∧ dDecH.field 56 4 = dDecH.done + 1) ∧
    (let q := inBuffer qPod []
     let s := bankS 1000 [q] dHusk
     s.bankDown (.egress 0) = false ∧ (s.bank (1000 + 0)).next [] (s.bank (1000 + 0)).queue = some q ∧ q.reader = some (.desc 4) ∧
     s.alive (.desc 4) = true) ∧
    (∀ j ∈ [job (some 3) none, job none (some 0)], (encS j).unitDown .encoder 0 = false ∧
      j.toPod = false ∧ BitVec.ofNat 32 (j.dst / 2 ^ 36) = (1 : Word) ∧ j.dst % 2 ^ 36 = 1 ∧
      (encS j).granting srcMovers ((encS j).whoOf j) (accsOf 1 (4096 * 1) 4096 true) = true ∧ (encS j).readOnly 1 = false ∧
      (encS j).desc 3 = some dJob) ∧
    (∀ j, Table.get [] (encS j).comp.engines 0 = [j]) ∧
    (dJob.jobs = 1 ∧ dJob.phase = .working ∧ dJob.stop = none ∧ dJob.poisoned = false ∧ dJob.bad = none) ∧
    (base.extent 1 = some (extentOf .pinnedNear) ∧ 5 < (extentOf .pinnedNear).blocks ∧ mwPoison (base.blkMeta 1 5) = false ∧
     base.recoverStage (extBlkKey 1 5) = none) ∧
    (crcS [(extBlkKey 1 5, .reread)]).recoverStage (extBlkKey 1 5) = some .reread ∧
    (crcS [(extBlkKey 1 5, .rebuild)]).recoverStage (extBlkKey 1 5) = some .rebuild ∧ (extentOf .pinnedNear).owner = some 5 := by
  refine ⟨?_, ?_, ?_, ?_, ?_, ?_, ⟨husk_next _ _ _ _, husk_decodes⟩, ?_, ?_, ?_, ?_, ?_, fun _ => rfl, ?_, ?_, ?_, ?_⟩ <;> decide +kernel

/-! ## Stack controllers, repair, resets -/

/-- Near stack 1 as given, in a ready module. -/
def stkS (x : Stack) : State := { base with rel := { base.rel with stks := [(1, { x with state := .ready })] } }
def req1 (w : Bool) : StackReq :=
  { source := 2, slot := 40, write := w, sectors := 1, for_ := .other, maint := false, cls := 63, party := 5, deadline := none }
def ent1 (w st : Bool) : StkEnt := { req := req1 w, arrive := 0, count := 0, cls := 63, guar := false, started := st }
def merge1 : MergeEnt := { slot := 40, sector := 3, data := 0, mask := 1, source := 2, merged := 990 }

theorem no_triggers (f k : Nat) : ((stkS { retraining := [7], fails := [(7, f)] }).stack k).trig = [] := by
  show (Table.get {} [(1, ({ retraining := [7], fails := [(7, f)], state := .ready } : Stack))] k).trig = []
  unfold Table.get
  by_cases h : k = 1
  · subst h; rfl
  · have : Table.find [(1, ({ retraining := [7], fails := [(7, f)], state := .ready } : Stack))] k = none := by
      simp [Table.find]; omega
    rw [this]

/-- A request of maintenance work, one at a stack whose slots are all taken, a stack long after its last training and scrub. -/
def reqMaint : StackReq := { req1 false with maint := true }
def stkFull : State := { stkS {} with qos := { base.qos with res := [(1, { bg := [(5, 5000)] })] } }
def stkLater : State := { stkS {} with clk := { base.clk with lcnt := 0x10000000000 } }
def retrains (f : Nat) : State := stkS { retraining := [7], fails := [(7, f)] }
def flushes : State := stkS { merge := [{ merge1 with flushing := true }] }

/-- A boundary. -/
def atBoundary : State := { base with clk := { base.clk with lcnt := 8192 } }

/-- Stack 1's class of a request of party 5. -/
def classAt (s : State) : Nat := s.regulatedAs (s.sized 1 (s.tied (req1 true))).cls (some 5)

theorem witness_StackControllers :
    (ReadyStack (stkS {}) 1 ∧ ((stkS {}).stack 1).waits = [] ∧ (queueOf (stkS {}) 1 2).length < 256 ∧ reqMaint.unregulated = true ∧
     (req1 true).unregulated = false ∧ (stkS {}).slotFree 1 ((stkS {}).guaranteed 1 (classAt (stkS {}))) 5 = true) ∧
    (ReadyStack stkFull 1 ∧ (stkFull.stack 1).waits = [] ∧ (queueOf stkFull 1 2).length < 256 ∧
     stkFull.slotFree 1 (stkFull.guaranteed 1 (classAt stkFull)) 5 = false) ∧
    (stkS { queues := [(2, [ent1 false false])] }).chosen 1 2 = some (ent1 false false) ∧
    (∀ r ∈ [req1 false, reqMaint],
      (let e := { ent1 false true with req := r }
       queueOf (stkS { queues := [(2, [e])] }) 1 2 = [e] ∧ e.started = true ∧ e.delayed = false ∧
         ((stkS { queues := [(2, [e])] }).stack 1).waits = [])) ∧
    (7 < pcsOf 1 ∧ 63 < 64) ∧
    (ReadyStack stkLater 1 ∧ (stkLater.stack 1).lostMask.getLsbD 7 = false ∧ 7 ∉ (stkLater.stack 1).retraining ∧ stkLater.stackWiping 1 = false ∧
     stkLater.retrainDue 1 7 = true) ∧
    (∀ f ∈ [0, 2], ((retrains f).stack 1).state = .ready ∧ 7 ∈ ((retrains f).stack 1).retraining ∧
      (Table.get 0 ((retrains f).stack 1).fails 7 < 2 ↔ f = 0) ∧ ((retrains f).stack 1).lostMask = 0) ∧
    (∀ f k, ((retrains f).stack k).trig = []) ∧
    ((stkLater.stack 1).scrubEn = true ∧ (stkLater.stack 1).retraining = [] ∧
     (stkLater.stack 1).scrubAt + (stkLater.stack 1).scrubStep 1 ≤ stkLater.now) ∧
    ((stkS {}).ten.isSealed = false ∧ ((stkS {}).stack 1).merge = []) ∧
    ((flushes.stack 1).state = .ready ∧ (flushes.stack 1).mergeWait = [] ∧
     (flushes.stack 1).merge.find? (fun f => decide (f.slot = 40) && decide (f.sector = 3) && f.flushing) = some { merge1 with flushing := true }) ∧
    (atBoundary.power.standby = true ∧ atBoundary.now % 4096 = 0 ∧ atBoundary.regs.shadows = [] ∧ atBoundary.rel.rebuilds = [] ∧
     atBoundary.rel.retires = [] ∧ atBoundary.rel.reclaim = [] ∧ Table.wf {} atBoundary.qos.classes = true) := by
  unfold ReadyStack queueOf
  refine ⟨?_, ?_, ?_, ?_, ?_, ?_, ?_, no_triggers, ?_, ?_, ?_, ?_⟩ <;> decide +kernel

/-- A stripe being retired, a rebuild under way, a tract whose move is done, a controller in reset `n` times within the hour, one
past its bound, a mover in reset. -/
def retiring : Retire := { tier := .near, stripe := 9, got := true, begun := true }
def rebuilding : Rebuild := { stack := 1, pc := none, begun := true, start := 5 }
def withRel (r : Rel) : State := { base with rel := r }
def moves : State := { base with place := { tracts := [(2 * 2 ^ 20, { cached := true, state := .near, moving := true })] } }
def inReset (n : Nat) : State :=
  withRel { base.rel with
    stks := [(1, { resetting := some 990, state := .reset, heldWrites := [ent1 true false], resetAt := List.replicate n 990 })] }
def pastBound : State := { inReset 1 with clk := { base.clk with lcnt := 100000000 } }
def moverDown : State := withFw (withRel { base.rel with unitResets := [⟨.mover, 0, 900, 2⟩] })

theorem witness_RepairAndResets :
    (40 ∈ ((stkS { remapping := [40] }).stack 1).remapping ∧ ((stkS { remapping := [40] }).stack 1).state = .ready) ∧
    (∃ q ∈ (withRel { base.rel with retires := [retiring] }).rel.retires, q.tier = .near ∧ q.stripe = 9 ∧ q.begun = true ∧ q.ended = false) ∧
    ((withRel { base.rel with rebuilds := [rebuilding] }).rel.rebuilds.find? (fun q => decide (q.stack = 1) && q.begun && !q.ended) =
       some rebuilding ∧ rebuilding.lacks = 0) ∧
    ((moves.tract 2 0).moving = true ∧ (moves.tract 2 0).spilled = none ∧ (moves.tract 2 0).state = .near ∧ moves.rel.reclaim = []) ∧
    ReadyStack (stkS { queues := [(2, [ent1 true false])] }) 1 ∧
    (∀ n ∈ [1, 3], ((inReset n).stack 1).resetting = some 990 ∧ 990 ≤ (inReset n).now ∧ (inReset n).now - 990 ≤ resetBound 1 ∧
      ((inReset n).stack 1).state ≠ .failed ∧
      ((((inReset n).stack 1).resetAt.filter (fun u => decide ((inReset n).now < u + 90000000000))).length < 3 ↔ n = 1)) ∧
    ((pastBound.stack 1).resetting = some 990 ∧ 990 ≤ pastBound.now ∧ resetBound 1 < pastBound.now - 990 ∧ (pastBound.stack 1).state ≠ .failed) ∧
    0 < unitCount .placement ∧
    (moverDown.rel.unitResets.find? (fun q => decide (q.unit = .mover) && decide (q.inst = 0)) = some ⟨.mover, 0, 900, 2⟩ ∧
     moverDown.unitImageOk .mover = true ∧ moverDown.sec.activating ≠ some (1, 0)) := by
  unfold ReadyStack
  refine ⟨?_, ?_, ?_, ?_, ?_, ?_, ?_, ?_, ?_⟩ <;> decide +kernel

/-! ## The fabric's links and routes -/

/-- Flits of an end whose key is 0 at position 0, FSEQ 0, ACK 0xFFF, no packet end, payload of zeros: an IDLE and a DATA flit. -/
def idleBits : BitVec 2048 := BitVec.ofNat 2048 0x9bbf5795e9429cef3cc08d0cb4a65fa05aa090142ebed72878d56aa9e126869c2410b7b0c65fa306e507faf51ee5544bc0788b76662452fb29f55eac70600a625e2262f3cadd507183b558bf34ed57f3bdeb21bb79d505a837f50de5a86872e2964214a186d39c2c34e8fc37b1f4d866bbc26243126017930eb78763f3e03728abe10aba29fc2ce5c5bdb05f24da856ecd77faabad1d5e54661cbce62da6cec0b049afbca0679141e0ac9560372da821738fc4d01f3a0cabe31d7c61307fbb81e1cb4147f7360c472459e8417be14a4d28b14add8e3506758ef5a2d1742aa637ca036072189df3bad3c54e076e6b604d3d40a7ce0000ffff000000000fff0000
def dataBits : BitVec 2048 := BitVec.ofNat 2048 0xbf8d1972bdee2e308609c7b546dde40f5aa090142ebed72878d56aa9e126869c2410b7b0c65fa306e507faf51ee5544bc0788b76662452fb29f55eac70600a625e2262f3cadd507183b558bf34ed57f3bdeb21bb79d505a837f50de5a86872e2964214a186d39c2c34e8fc37b1f4d866bbc26243126017930eb78763f3e03728abe10aba29fc2ce5c5bdb05f24da856ecd77faabad1d5e54661cbce62da6cec0b049afbca0679141e0ac9560372da821738fc4d01f3a0cabe31d7c61307fbb81e1cb4147f7360c472459e8417be14a4d28b14add8e3506758ef5a2d1742aa637ca036072189df3bad3c54e076e6b604d3d40a7ce0000ffff000000000fff4000

/-- A certificate of the key of the identity point, signed under the key of that point; its id. -/
def keyNo : Nat := 10150412949427457230
def certB (kind part serial : Nat) : Bytes :=
  leBytes 24 (0x5443585A + 2 ^ 32 + kind * 2 ^ 40 + part * 2 ^ 48 + serial * 2 ^ 64 + keyNo * 2 ^ 128) ++ leBytes 32 1 ++ zeros 72 ++ leBytes 64 1
def certFlit (i : Nat) (c : Bytes) : BitVec 1824 := BitVec.ofNat 1824 (leNat (leBytes 1 2 ++ leBytes 1 i ++ c))

/-- Hellos of this end (UID 0) and of the partner (UID 8). -/
def hello0 : Hello := { part := 1, port := 0, uid := 0, nonce := 0, eph := 9, idKey := 1, bits := 1 }
def hello8 : Hello := { part := 1, port := 2, uid := 8, nonce := 0, eph := 9, idKey := 1, bits := 0x101 }

/-- Port 0 as given, under the root key of that point. -/
def portS (x : FabPort) : State :=
  { base with fab := { base.fab with ports := [(0, x)] }, sec := { base.sec with rootKeys := [1] } }
def auth0 (peer : Option Hello) (certs : List Bytes) : FabPort := { state := .auth, own := some hello0, peer := peer, certs := certs, ephKey := 5 }

theorem partner_passes : (portS (auth0 (some hello8) [certB 1 0 0])).partnerOk hello8 (certB 1 0 0)
    (sliceBytes (bvB 228 (certFlit 1 (certB 2 1 8))) 2 192) = true := by decide +kernel
theorem sig_passes : Crypto.ed25519Verify (bvB 32 hello8.idKey) (helloText hello0 hello8) (bvB 64 (1 : BitVec 512)) = true := by decide +kernel
theorem sig_fails : Crypto.ed25519Verify (bvB 32 hello8.idKey) (helloText hello0 hello8) (bvB 64 (0 : BitVec 512)) = false := by decide +kernel
theorem secret_nonzero : leNat (Crypto.x25519 (bvB 32 (auth0 (some hello8) []).ephKey) (bvB 32 hello8.eph)) ≠ 0 := by decide +kernel
theorem keys_some : ∃ k, linkKeys (bvB 32 (auth0 (some hello8) []).ephKey) hello0 hello8 = some k := by
  unfold linkKeys
  rw [if_neg secret_nonzero]
  exact ⟨_, rfl⟩

def upS : State := portS { state := .up }
theorem good_flit (bits : BitVec 2048) (type : Nat)
    (h : ((upS.fport 0).state = .up ∧ flitType bits = type ∧ upS.fab.waiting = [] ∧ (upS.fport 0).linkWait = []) ∧
      crc32c ((bvB 256 bits).take 252) = fieldAt (bvB 256 bits) 252 4)
    (ht : (Crypto.gcmTag (bvB 32 (upS.fport 0).rxKey) (flitNonce (upS.fport 0).rxPos) ((bvB 256 bits).take 12) (sliceBytes (bvB 256 bits) 12 228)).take 12 =
      sliceBytes (bvB 256 bits) 240 12)
    (hf : flitForm (bvB 256 bits) = true ∧ fieldAt (bvB 256 bits) 2 2 / 4096 % 2 = 0 ∧
      (BitVec.ofNat 12 (fieldAt (bvB 256 bits) 2 2) - (upS.fport 0).acked).toNat = 0 ∧ 0 ≤ (upS.fport 0).unacked.length ∧
      ∀ v, v < 4 → fieldAt (bvB 256 bits) (4 + v) 1 = 0 ∧ (upS.fport 0).credit v ≤ vcFlits v) : GoodFlit upS 0 bits type 0 :=
  ⟨h.1.1, h.1.2.1, h.1.2.2.1, h.1.2.2.2, h.2, ht, hf⟩

theorem idle_good : GoodFlit upS 0 idleBits 0 0 := good_flit _ _ (by decide +kernel) (by decide +kernel) (by decide +kernel)
theorem data_good : GoodFlit upS 0 dataBits 1 0 := good_flit _ _ (by decide +kernel) (by decide +kernel) (by decide +kernel)

/-- A port whose lanes trained, one whose attempt's time is over, and one whose partner is verified. -/
def trainS : State := portS { state := .training }
def trainLate : State := { trainS with clk := { base.clk with lcnt := 250000000 } }
def verified0 : FabPort := { auth0 (some hello8) [] with verified := true }
def authS (peer : Option Hello) (certs : List Bytes) : State := portS (auth0 peer certs)
def waitsS (st : PortState) : State := portS { state := st, backoff := some 900 }

theorem witness_FabricLinks :
    ((trainS.fport 0).state = .training ∧ trainS.now ≤ (trainS.fport 0).trainFrom + 250000000 ∧ (trainS.fport 0).maxSpeed = false ∧
     (trainS.fport 0).allowX2 = true ∧ trainS.isReady = true ∧ trainS.keysUsable = true ∧
     ({ trainS with power := { trainS.power with boot := .training } } : State).isReady = false) ∧
    ((trainLate.fport 0).state = .training ∧ (trainLate.fport 0).trainFrom + 250000000 ≤ trainLate.now) ∧
    (InHello (authS none []) 0 { auth0 none [] with rxSeq := 1 } ∧ (auth0 none []).peer = none ∧
      fieldAt (bvB 228 (0x101 : BitVec 1824)) 0 1 = 1 ∧ fieldAt (bvB 228 (0x101 : BitVec 1824)) 1 1 = 1) ∧
    (InHello (authS (some hello8) []) 0 { auth0 (some hello8) [] with rxSeq := 1 } ∧
      fieldAt (bvB 228 (certFlit 0 (certB 1 0 0))) 0 1 = 2 ∧ fieldAt (bvB 228 (certFlit 0 (certB 1 0 0))) 1 1 = 0) ∧
    (InHello (authS (some hello8) [certB 1 0 0]) 0 { auth0 (some hello8) [certB 1 0 0] with rxSeq := 1 } ∧
      fieldAt (bvB 228 (certFlit 1 (certB 2 1 8))) 0 1 = 2 ∧ fieldAt (bvB 228 (certFlit 1 (certB 2 1 8))) 1 1 = 1) ∧
    ((authS (some hello8) [certB 1 0 0]).partnerOk hello8 (certB 1 0 0) (sliceBytes (bvB 228 (certFlit 1 (certB 2 1 8))) 2 192) = true ∧
      (authS (some hello8) [certB 1 0 0]).partnerOk hello8 (certB 1 0 0) (zeros 192) = false) ∧
    (InHello (portS verified0) 0 { verified0 with rxSeq := 1 } ∧ verified0.own = some hello0 ∧ verified0.peer = some hello8 ∧
      verified0.verified = true) ∧
    (Crypto.ed25519Verify (bvB 32 hello8.idKey) (helloText hello0 hello8) (bvB 64 (1 : BitVec 512)) = true ∧
      (∃ k, linkKeys (bvB 32 verified0.ephKey) hello0 hello8 = some k) ∧
      Crypto.ed25519Verify (bvB 32 hello8.idKey) (helloText hello0 hello8) (bvB 64 (0 : BitVec 512)) = false) ∧
    (∀ st ∈ [PortState.auth, .down], MayTrain (waitsS st) 0 ∧ ((waitsS st).fport 0).backoff = some 900 ∧ 900 ≤ (waitsS st).now ∧
      ((waitsS st).fport 0).state = st) ∧
    (∀ st ∈ [PortState.up, .sleep, .auth], MayTrain (portS { state := st }) 0 ∧ ((portS { state := st }).fport 0).backoff = none ∧
      ((portS { state := st }).fport 0).state = st) ∧
    (∀ b ∈ [true, false], ((portS { state := .up, asked := b }).fport 0).state = .up ∧ ((portS { state := .up, asked := b }).fport 0).sleepEn = true ∧
      ((portS { state := .up, asked := b }).fport 0).asked = b) ∧
    (((portS { state := .sleep }).fport 0).state = .sleep ∧ (portS { state := .sleep }).fab.waiting = []) ∧
    GoodFlit upS 0 idleBits 0 0 ∧ GoodFlit upS 0 dataBits 1 0 ∧
    (BitVec.ofNat 12 (fieldAt (bvB 256 dataBits) 0 2) = (upS.fport 0).rxSeq ∧ fieldAt (bvB 256 dataBits) 0 2 / 4096 % 4 = 0 ∧
      Table.get 0 (upS.fport 0).rxFill 0 + ((upS.fport 0).rxVc 0).held < vcFlits 0 ∧ (joined upS 0 dataBits 0).2 = 0) ∧
    (crc32c ((bvB 256 (1 : BitVec 2048)).take 252) ≠ fieldAt (bvB 256 (1 : BitVec 2048)) 252 4 ∧ flitType 1 = 0 ∧ flitType 0x4001 ≠ 0 ∧
      crc32c ((bvB 256 (0x4001 : BitVec 2048)).take 252) ≠ fieldAt (bvB 256 (0x4001 : BitVec 2048)) 252 4) := by
  unfold InHello MayTrain
  refine ⟨?_, ?_, ?_, ?_, ?_, ⟨partner_passes, ?_⟩, ?_, ⟨sig_passes, keys_some, sig_fails⟩, ?_, ?_, ?_, ?_, idle_good, data_good, ?_, ?_⟩ <;>
    decide +kernel

/-- LSAs of this module (UID 0, no DID), a module 8 linked to it, and a distant one; routes to DID 3 by port 0. -/
def lsa0 : Lsa := { uid := 0, did := none, part := 1, seq := 1, stamp := 0, links := [⟨8, 0, 2, 0⟩] }
def lsa8 : Lsa := { uid := 8, did := some 3, part := 1, seq := 1, stamp := 0, links := [⟨0, 2, 0, 0⟩] }
def netS (count : DWord) (did : Option (BitVec 12)) : State :=
  { base with
    clk := { base.clk with lcnt := count }
    fab := { base.fab with
      did := did, ports := [(0, { state := .up, peerUid := 8, credits := [(0, 9), (1, 9), (2, 9)] })]
      lsas := [{ lsa0 with did := did }, lsa8], routes := [(3, ⟨[0], some (0, false), none⟩)], routesValid := true } }

/-- A packet for DID 3. -/
def thru (life : Nat) : Packet := mkPacket { ptype := pGate, flags := 1, cls := 63, gpid := 77 } 7 3 life 9 []

/-- The LSA of an end, and a DID_ASSIGN of DID 5 to this module. -/
def lsaBody (u : Nat) : Bytes := leBytes 24 (u + 2 ^ 80 + 2 ^ 96)
def assign5 : Bytes := leBytes 18 (5 * 2 ^ 128)

/-- `thru` waits since count 900 and no minimal port has credits any longer, but the escape port has on VC 2. -/
def wait0 : FabWait := { vc := 0, port := none, pkt := thru 100, since := 900, spent := none }
def blockedS : State :=
  { netS 1000 (some 1) with
    fab := { (netS 1000 (some 1)).fab with
      waiting := [wait0], ports := [(0, { state := .up, peerUid := 8, credits := [(2, 9)] })] } }

theorem witness_FabricRouting :
    ((netS 250000000 none).isReady = true ∧ (netS 250000000 none).lsaOf (netS 250000000 none).sec.uid = some lsa0 ∧
      lsa0.stamp + 250000000 ≤ (netS 250000000 none).now) ∧
    ((∀ u ∈ [9, 8], ((netS 1000 none).fport 0).sealed = true ∧ readLsa (lsaBody u) (netS 1000 none).now =
      some { uid := BitVec.ofNat 64 u, did := none, part := 1, seq := 1, stamp := 1000, links := [] }) ∧
      (netS 1000 none).fab.did = none ∧ (netS 1000 none).lsaOf 9 = none ∧ (netS 1000 none).lsaOf 8 = some lsa8) ∧
    ((netS 1000000000 none).lsaOf 8 = some lsa8 ∧ 8 ≠ (netS 1000 none).sec.uid ∧ lsa8.stamp + 1000000000 ≤ (netS 1000000000 none).now) ∧
    (let s := netS 125000000 none
     s.isReady = true ∧ s.coordinator = s.sec.uid.toNat ∧ s.fab.changed + 125000000 ≤ s.now ∧
     (s.dbLsas.filter (fun l => decide (l.did = none))).map (fun l => l.uid.toNat) = [s.sec.uid.toNat] ∧ s.freeDid [] = some 0) ∧
    (((netS 1000 none).fport 0).sealed = true ∧ assign5.length = 18 ∧ fieldAt assign5 16 2 < 4096 ∧
     fieldAt assign5 8 8 = (netS 1000 none).sec.uid.toNat ∧ fieldAt assign5 0 8 = (netS 1000 none).coordinator) ∧
    ((netS 1000 (some 1)).isReady = true ∧ (netS 1000 (some 1)).fab.waiting = [] ∧ lsa8 ∈ (netS 1000 (some 1)).dbLsas ∧ lsa8.did = some 3 ∧
      lsa8.uid ≠ (netS 1000 (some 1)).sec.uid ∧ (∀ m ∈ (netS 1000 (some 1)).dbLsas, m.did = some 3 → m = lsa8)) ∧
    (let s := netS 1000 (some 1)
     (s.fport 0).sealed = true ∧ s.fab.did ≠ some (BitVec.ofNat 12 (thru 100).dst) ∧ (thru 100).ok = true ∧ (thru 100).hops < 64 ∧
     s.minimalPorts (thru 100).dst = [0] ∧ (s.fport 0).fits 0 (thru 100) = true ∧ max 1 (20 + (s.fport 0).delay) < (thru 100).life ∧
     (thru 20).life ≤ max 1 (20 + (s.fport 0).delay) ∧ (thru 20).ok = true ∧ (s.fport 0).fits 0 (thru 20) = true) ∧
    (64 ≤ ((thru 100).put 9 1 64).hops ∧ ((thru 100).put 9 1 64).ok = true) ∧
    (blockedS.fab.waiting = [wait0] ∧ wait0.vc < 2 ∧ wait0.since + blockedS.fab.escWait.toNat ≤ blockedS.now ∧ blockedS.hopNow wait0 = none ∧
     blockedS.escapeHop (thru 100) = some (0, thru 100) ∧ (blockedS.fport 0).fits 2 (thru 100) = true) := by
  refine ⟨?_, ?_, ?_, ?_, ?_, ?_, ?_, ?_, ?_⟩ <;> decide +kernel

/-! ## Host ports and windows -/

/-- Host port 0 as given. -/
def hpS (x : HostPort) : State := { base with host := { base.host with ports := [(0, x)] } }
def link3 : HostLink := { gen := 3, width := 4, cxl := 2, cache := true, mem := true }

/-- A COPY from the host through a translated address, under way. -/
def dAts : Desc := { desc0 ([(0, 1), (24, 0x5000), (37, 0x20), (56, 4096)] ++ extSlot 40 1 0) with phase := .working }

/-- A port that trains, one that is up, one in D3hot, one whose link retrains, one with a window, one with a masked vector, and
that read under way. -/
def trainsP : State := hpS { training := true, memEn := true }
def upP : State := hpS { up := true }
def hotP : State := hpS { up := true, d3hot := true }
def keptP : State := hpS { kept := true, training := true }
def winP : State := { upP with host := { upP.host with wins := [(2, { en := true })] } }
def maskP : State := hpS { up := true, msixEn := true, masked := [4], pend := [4], vecAddr := [(4, 0xFEE00000)] }
def atsP : State :=
  { withD dAts with host := (hpS { up := true, atsEn := true }).host, clk := { base.clk with lcnt := 0x1000000 } }

theorem witness_HostPorts :
    (OnPort trainsP 0 ∧ (trainsP.hport 0).training = true ∧ (trainsP.hport 0).up = false ∧ (trainsP.hport 0).allows link3 = true ∧
     (trainsP.hport 0).allows { link3 with cxl := 0, cache := false, mem := false, gen := 1 } = true) ∧
    (OnPort upP 0 ∧ upP.regs.shadows = [] ∧ (upP.hport 0).up = true ∧ (keptP.hport 0).kept = true ∧ keptP.regs.shadows = []) ∧
    (upP.winOn 0 = none ∧ (upP.hport 0).d3hot = false ∧ winP.winOn 0 = some 2 ∧ (winP.hport 0).up = true ∧ (winP.hport 0).d3hot = false ∧
     (hotP.hport 0).up = true ∧ (hotP.hport 0).d3hot = true ∧ hotP.regs.shadows = []) ∧
    (upP.active = true ∧ ((hpS { up := true, atsEn := true }).hport 0).atsEn = true) ∧
    ((4#11).toNat ∈ (maskP.hport 0).masked ∧ (4#11).toNat ∈ (maskP.hport 0).pend ∧ (maskP.hport 0).msixEn = true ∧
     (maskP.hport 0).d3hot = false ∧ Table.get 0 (maskP.hport 0).vecAddr (4#11).toNat ≠ 0) ∧
    (atsP.desc 3 = some dAts ∧ (atsP.ch dAts.chan).port.toNat = 0 ∧ dAts.cut = false ∧ (atsP.hport 0).up = true ∧ (atsP.hport 0).atsEn = true ∧
     dAts.phase = .working ∧ dAts.jobs = 0 ∧ dAts.peers = [] ∧ dAts.opcode ≠ 0x20 ∧ dAts.translates = true ∧
     dAts.accept + (atsP.hport 0).cplTo.toNat ≤ atsP.now) := by
  unfold OnPort
  refine ⟨?_, ?_, ?_, ?_, ?_, ?_⟩ <;> decide +kernel

/-- Window 2 maps port 0 from address 0 onto extent 1. -/
def win2 : ZWin := { en := true, party := 5, handle := 1 }
def zS (dir : List DirEnt) : State :=
  { base with host := { base.host with
      ports := [(0, { up := true, memEn := true, hdmEn := true, link := some link3 })], wins := [(2, win2)], dir := dir } }
def line0 (excl : Bool) (snooped : List Nat) : DirEnt :=
  { port := 0, dpa := 64, handle := 1, off := 64, epoch := 0, excl := excl, holders := [6], snooped := snooped, order := 1 }

/-- BEGIN_NATIVE and END_NATIVE of window 2. -/
def dNat (sub : Nat) : Desc := desc0 [(0, 0x33), (1, sub), (24, 2)]
def natS (sub : Nat) : State := { withD (dNat sub) with host := (zS []).host }

/-- GO waits: at an admissible mapping, at one that is not, and during a switch. -/
def goS (wins : Table ZWin) (sw : Bool) : State :=
  { zS [] with host := { (zS []).host with wins := wins, goWait := true, switching := sw } }
def badWins : Table ZWin := [(2, { win2 with handle := 99 })]

theorem witness_WindowMode :
    WindowLine (zS []) 0 100 2 win2 1 64 ∧
    ((1 : BitVec 64) ≠ BitVec.allOnes 64 ∧ ((zS []).hport 0).d3hot = false ∧ (zS []).active = true) ∧
    (∀ excl ∈ [false, true], (zS [line0 excl [6]]).host.dir = [line0 excl [6]] ∧ (line0 excl [6]).port = 0 ∧
      (line0 excl [6]).dpa = 100 &&& ~~~ 63#39 ∧ (line0 excl [6]).holders = [6] ∧ (zS [line0 excl [6]]).host.waits = [] ∧
      (zS [line0 excl [6]]).blkMeta 1 (64 / 4096) = 0x3F ∧ (zS [line0 excl [6]]).readOnly 1 = false ∧ 6 ∈ (line0 excl [6]).snooped ∧
      (line0 excl [6]).excl = excl) ∧
    ((goS [(2, win2)] false).host.goWait = true ∧ (goS [(2, win2)] false).host.switching = false ∧
     (goS [(2, win2)] false).badWin (goS [(2, win2)] false).shadowWins = none ∧
     (goS badWins false).host.goWait = true ∧ (goS badWins false).badWin (goS badWins false).shadowWins = some 2 ∧
     (goS badWins true).host.switching = true ∧ (goS badWins true).host.goWait = true) ∧
    (let s := { zS [] with host := { (zS []).host with switching := true } }
     s.host.switching = true ∧ s.epochDrained = true) ∧
    (∀ sub ∈ [0, 1], AtUnit (natS sub) 3 0x33 sub (dNat sub) ∧ (dNat sub).aux = 0 ∧ (natS sub).zwinHeld (dNat sub) = true ∧
      (natS sub).host.dir = [] ∧ (natS sub).host.waits = [] ∧
      (∀ e ∈ (natS sub).chan.descs, e.2.chan = (dNat sub).chan → (dNat sub).go ≤ e.2.go)) := by
  unfold WindowLine AtUnit
  refine ⟨?_, ?_, ?_, ?_, ?_, ?_⟩ <;> decide +kernel

/-! ## Security -/

/-- A command block: header with SEQUENCE 1 and this UID, body, and `n` signatures that pass under the key of the identity point. -/
def secBlk (op uid : Nat) (body : Bytes) (n : Nat) : HostData :=
  { bytes := leBytes 64 (0x434C585A + 2 ^ 32 + op * 2 ^ 40 + body.length * 2 ^ 48 + uid * 2 ^ 64 + 2 ^ 256) ++ body ++
      (List.replicate n (leBytes 64 1)).flatten, refused := none }

/-- A ready module of a life-cycle state, that FM key and the root and firmware keys of the identity point, which runs a
command of `n` bytes; image slots B of every kind hold STAGED images. The record can be written unless `bad`. -/
def secS (bad : Bool) (lc : LcState) (key : Option (BitVec 256)) (n : Nat) : State :=
  { base with
    power := { base.power with flashBad := bad }
    sec := { base.sec with
      lc := Tv.all lc, fmKey := Tv.all key, rootKeys := [1, 1, 1, 1], fwKeys := [1, 1, 1, 1], cmdBusy := true, runBytes := n, runData := 192
      fw := [(0, { b := ⟨some (image0 0), true⟩ }), (1, { b := ⟨some (image0 1), true⟩ }), (2, { b := ⟨some (image0 2), true⟩ })] } }

/-- The state once FM_SEQ holds the SEQUENCE, where the operation has one. -/
def secU (s : State) (op : Nat) : State := if s.needFm op then { s with ten := { s.ten with fmSeq := 1 } } else s

/-- The checks of a command, together. -/
abbrev SecPasses (s : State) (op : Nat) (h : HostData) (b : Bytes) : Prop :=
  ((s.sec.cmdBusy = true ∧ s.unitDown .pip 0 = false ∧ s.sec.activating = none ∧ s.sec.resetDue = none ∧ h.refused = none) ∧
    (64 ≤ s.sec.runBytes ∧ s.sec.runBytes ≤ h.bytes.length) ∧ fieldAt (h.bytes.take s.sec.runBytes) 5 1 = op) ∧
  (s.secForm (h.bytes.take s.sec.runBytes) false = none ∧ s.secAllowed op = true) ∧ s.secSigned (h.bytes.take s.sec.runBytes) = true ∧
  b = secBody (h.bytes.take s.sec.runBytes) ∧ BitVec.ofNat 64 (fieldAt (h.bytes.take s.sec.runBytes) 32 8) = 1

theorem secVerified {s : State} {op : Nat} {h : HostData} {b : Bytes} (c : SecPasses s op h b) : SecVerified s op h b (secU s op) := by
  obtain ⟨⟨⟨a1, a2, a3, a4, a5⟩, ⟨b1, b2⟩, b3⟩, ⟨c1, c2⟩, d, e, f⟩ := c
  exact ⟨⟨a1, a2, a3, a4, a5, b1, b2, b3⟩, c1, c2, d, e, by unfold secU; rw [f]⟩

/-- Bodies. -/
def bProv (sig : Nat) : Bytes := leBytes 40 1 ++ leBytes 64 sig
def bStage : Bytes := leBytes 4 2 ++ fwDigest (image0 2)

/-- The command passes in that state, whether or not the record can be written. -/
def Runs (lc : LcState) (key : Option (BitVec 256)) (op : Nat) (body : Bytes) (n : Nat) : Prop :=
  ∀ bad : Bool, SecVerified (secS bad lc key (64 + body.length + 64 * n)) op (secBlk op 0 body n) body
    (secU (secS bad lc key (64 + body.length + 64 * n)) op)

theorem secRuns {lc : LcState} {key : Option (BitVec 256)} {op : Nat} {body : Bytes} {n : Nat}
    (c : ∀ bad : Bool, SecPasses (secS bad lc key (64 + body.length + 64 * n)) op (secBlk op 0 body n) body) : Runs lc key op body n :=
  fun bad => secVerified (c bad)

theorem runs_provision : Runs .blank none 1 (bProv 1) 1 := secRuns (by decide +kernel)
theorem runs_badTicket : Runs .blank none 1 (bProv 0) 1 := secRuns (by decide +kernel)
theorem runs_enterField : Runs .provisioned (some 1) 2 [] 1 := secRuns (by decide +kernel)
theorem runs_leaveField : Runs .field (some 1) 3 [] 1 := secRuns (by decide +kernel)
theorem runs_release : Runs .field (some 1) 4 [] 1 := secRuns (by decide +kernel)
theorem runs_return : Runs .blank none 5 (leBytes 8 0) 1 := secRuns (by decide +kernel)
theorem runs_stage : Runs .field (some 1) 6 bStage 1 := secRuns (by decide +kernel)
theorem runs_svn : Runs .field (some 1) 7 (leBytes 8 2) 1 := secRuns (by decide +kernel)
theorem runs_revokeRoot : Runs .blank none 8 (leBytes 8 0x10000) 1 := secRuns (by decide +kernel)
theorem runs_revokeFw : Runs .blank none 8 (leBytes 8 0x30100) 1 := secRuns (by decide +kernel)
theorem runs_reset : Runs .blank none 9 [] 0 := secRuns (by decide +kernel)
theorem runs_activate (k : Nat) (h : k < 3) : Runs .field (some 1) 10 (leBytes 8 k) 1 := by
  match k, h with
  | 0, _ | 1, _ | 2, _ => exact secRuns (by decide +kernel)

theorem witness_SecurityCommands :
    ((SecRuns (secS false .blank none 64) 9 (secBlk 9 0 [] 0) ∧
      SecRuns (secS false .blank none 64) 2 (secBlk 2 0 [] 0) ∧ (secS false .blank none 64).secForm ((secBlk 2 0 [] 0).bytes.take 64) false = some St.malformed ∧
      SecRuns (secS false .blank none 128) 2 (secBlk 2 0 [] 1) ∧ (secS false .blank none 128).secForm ((secBlk 2 0 [] 1).bytes.take 128) false = none) ∧
      ((secS false .blank none 128).secAllowed 2 = false ∧ SecRuns (secS false .blank none 64) 9 (secBlk 9 7 [] 0) ∧
      (secS false .blank none 64).secForm ((secBlk 9 7 [] 0).bytes.take 64) false = none ∧ (secS false .blank none 64).secAllowed 9 = true) ∧
      (secS false .blank none 64).secSigned ((secBlk 9 7 [] 0).bytes.take 64) = false) ∧
    (SecCmd 9 (secBlk 9 7 [] 0) noData 0 (.reset (secBlk 9 7 [] 0) 0) ∧ ∀ bad lc key n, (secS bad lc key n).power.flashBad = bad) ∧
    ((Runs .blank none 1 (bProv 1) 1 ∧ ∀ bad : Bool, (secU (secS bad .blank none 232) 1).ticketOk (bProv 1) = true) ∧
      Runs .blank none 1 (bProv 0) 1 ∧ ∀ bad : Bool, (secU (secS bad .blank none 232) 1).ticketOk (bProv 0) = false) ∧
    (Runs .provisioned (some 1) 2 [] 1 ∧ Runs .field (some 1) 3 [] 1 ∧ Runs .field (some 1) 4 [] 1 ∧ Runs .blank none 5 (leBytes 8 0) 1) ∧
    (Runs .field (some 1) 6 bStage 1 ∧ (imgData 2).refused = none ∧ image0 2 = (imgData 2).bytes.take 192 ∧ 192 = 128 + fwBody (image0 2) ∧
      (secU (secS false .field (some 1) 196) 6).fwValid (fieldAt bStage 0 1) (image0 2) = true ∧ fwDigest (image0 2) = sliceBytes bStage 4 64) ∧
    (Runs .field (some 1) 7 (leBytes 8 2) 1 ∧ fieldAt (leBytes 8 2) 0 1 < 3 ∧ fieldAt (leBytes 8 2) 1 1 = 0) ∧
    (Runs .blank none 8 (leBytes 8 0x10000) 1 ∧ lastKey 0 (fieldAt (leBytes 8 0x10000) 2 1) = false ∧ fieldAt (leBytes 8 0x10000) 2 1 = 1) ∧
    (Runs .blank none 8 (leBytes 8 0x30100) 1 ∧ fieldAt (leBytes 8 0x30100) 1 1 = 1 ∧ lastKey 0 (fieldAt (leBytes 8 0x30100) 2 1) = false) ∧
    (∀ k, k < 3 → Runs .field (some 1) 10 (leBytes 8 k) 1 ∧
      ((secU (secS false .field (some 1) 136) 10).fwKind k).slot true = { image := some (image0 k), staged := true } ∧
      (((secU (secS false .field (some 1) 136) 10).fwKind k).slot false).staged = false) ∧
    ((∀ k, k < 3 → (secU (secS false .field (some 1) 136) 10).fwValid k (image0 k) = true ∧ fieldAt (leBytes 8 k) 0 1 = k) ∧
      0 < (secS false .field (some 1) 136).variant.pods ∧ ((secS false .field (some 1) 136).pod 0).state ≠ .out) ∧
    Runs .blank none 9 [] 0 ∧
    (base.unitDown .pip 0 = false ∧ ({ base.sec with building := some (3, 900) } : Sec).building = some (3, 900) ∧
      ({ base.sec with resetDue := some 2 } : Sec).resetDue = some 2 ∧ 900 + 250000 ≤ State.now { base with clk := { base.clk with lcnt := 250900 } }) ∧
    (let s := { secS false .returned none 64 with clk := { base.clk with lcnt := 250000000 } }
     s.power.boot = .ready ∧ s.lcState = some .returned ∧ s.sec.dbgLock.vote true = false ∧ s.power.readyAt + 250000000 ≤ s.now) := by
  refine ⟨⟨by unfold SecRuns; decide +kernel, ?_, by decide +kernel⟩, ⟨by unfold SecCmd; simp, fun _ _ _ _ => rfl⟩,
    ⟨⟨runs_provision, by decide +kernel⟩, runs_badTicket, by decide +kernel⟩, ⟨runs_enterField, runs_leaveField, runs_release, runs_return⟩,
    ⟨runs_stage, ?_⟩, ⟨runs_svn, ?_⟩, ⟨runs_revokeRoot, ?_⟩, ⟨runs_revokeFw, ?_⟩, fun k h => ⟨runs_activate k h, ?_⟩, by decide +kernel, runs_reset, ?_⟩
  · unfold SecRuns; decide +kernel
  rotate_right 2
  · match k, h with
    | 0, _ | 1, _ | 2, _ => decide +kernel
  all_goals decide +kernel

/-! ## Power, events, registers -/

/-- `base` with the power part given. -/
def pwS (p : Power) : State := { base with power := p }
def rampS (k n : Nat) : State := { pwS { base.power with boot := .ramp k n } with clk := { base.clk with lcnt := 500000 } }
def bootS (b : Boot) : State := pwS { base.power with boot := b }

theorem witness_StartUpPhases :
    (base.power.standby = true ∧ ({ base.power with standby := false } : Power).standby = false) ∧
    ((bootS .inputWait).power.boot = .inputWait ∧ (bootS .d3cold).power.boot = .d3cold ∧ (bootS .stagger).power.boot = .stagger) ∧
    ((bootS .stagger).power.goodAt + 6250000 * ((bootS .stagger).sec.uid.toNat % 8) ≤ (bootS .stagger).now) ∧
    (∀ k, k < 7 → ∀ n, n < 2 → (rampS k n).power.boot = .ramp k n ∧ (rampS k n).power.railAt + 500000 ≤ (rampS k n).now) ∧
    ((bootS .training).power.boot = .training ∧ base.variant.hasStack 0 = true ∧ (bootS .wiping).power.boot = .wiping ∧
      (bootS .selfTest).power.boot = .selfTest ∧ (bootS .selfTest).power.testFails = 0 ∧
      (pwS { base.power with boot := .selfTest, testFails := 1 }).power.testFails ≠ 0) ∧
    (∀ n, ((bootS .wiping).stack n).trig = []) ∧
    ((bootS .tested).power.boot = .tested ∧ (∀ e ∈ (bootS .tested).fab.ports, e.2.state ≠ .auth) ∧ (bootS .tested).regs.shadows = [] ∧
      (let s := { bootS .tested with regs := { base.regs with shadows := [⟨Blk.lch.num, 4, 0, 9, 0xFF⟩] } }
       s.regs.shadows = [⟨Blk.lch.num, 4, 0, 9, 0xFF⟩] ∧ s.power.boot = .tested)) := by
  refine ⟨?_, ?_, ?_, ?_, ?_, fun _ => rfl, ?_⟩ <;> decide +kernel

/-- Four host ports, all in D3hot or none. -/
def d3S (on : Bool) : State := { base with host := { base.host with ports := (List.range 4).map (fun p => (p, { d3hot := on })) } }
/-- Stopped with cause `c`, the input good since, or gone since, count `n`. -/
def stopS (c n : Nat) : State :=
  { pwS { base.power with boot := .stopped c, inRange := some n, goneAt := some n } with clk := { base.clk with lcnt := 25000000 } }

theorem witness_StopsAndThrottling :
    (OnMain (d3S true) ∧ OnMain (d3S false) ∧ (d3S true).allD3hot = true ∧ (d3S false).allD3hot = false ∧ (d3S true).power.standby = true ∧
      (d3S false).power.standby = true) ∧
    (OnMain (pwS { base.power with tDie := 115 }) ∧ 115 ≤ (pwS { base.power with tDie := 115 }).power.tDie.toNat ∧
      OnMain (pwS { base.power with flowLow := 125000000 }) ∧ 125000000 ≤ (pwS { base.power with flowLow := 125000000 }).power.flowLow) ∧
    (base.power.boot ≠ .unpowered ∧ ∀ c, base.power.boot ≠ .stopped c) ∧
    (∀ c n, (stopS c n).power.boot = .stopped c ∧ (stopS c n).power.inRange = some n ∧ (stopS c n).power.goneAt = some n) ∧
    (0 + 25000000 ≤ (stopS 2 0).now ∧ (stopS 2 1).now < 1 + 25000000) ∧
    (base.power.standby = true ∧ (∀ e ∈ base.host.ports, e.2.up = false) ∧ base.variant.hasStack 1 = true) := by
  have run (p : Power) (h : p.boot = .ready) : OnMain (pwS p) := by
    unfold OnMain pwS
    simp [h]
  exact ⟨⟨run base.power rfl, run base.power rfl, by decide +kernel⟩, ⟨run _ rfl, by decide +kernel, run _ rfl, by decide +kernel⟩,
    ⟨by decide +kernel, (run base.power rfl).2.2.2⟩, fun _ _ => ⟨rfl, rfl, rfl⟩, by decide +kernel, by decide +kernel⟩

/-- Sideband input `n` as given, at count 300,000,000. -/
def sdS (n : Nat) (x : Side) : State :=
  { pwS { base.power with sides := [(n, x)] } with clk := { base.clk with lcnt := 300000000 } }

theorem witness_SidebandInputs :
    ((sdS 4 {}).hasSide 4 = true ∧ (sdS 4 {}).power.standby = true ∧ ((sdS 4 {}).side 4).present = false ∧
      ((sdS 4 { masked := true }).side 4).masked = true ∧
      (((sdS 4 { until_ := some 300000001 }).side 4).until_ = some 300000001 ∧ (sdS 4 { until_ := some 300000001 }).now < 300000001) ∧
      (∀ u, ((sdS 4 {}).side 4).until_ = some u → u ≤ (sdS 4 {}).now)) ∧
    (((sdS 0 { until_ := some 300000000 }).side 0).until_ = some 300000000 ∧ 300000000 ≤ (sdS 0 { until_ := some 300000000 }).now ∧
      ((sdS 0 { until_ := some 300000000, present := true }).side 0).present ≠ ((sdS 0 { until_ := some 300000000, present := true }).side 0).level) ∧
    (let x := (sdS 2 { level := true, present := true, since := 50000000 }).side 2
     x.masked = false ∧ x.level = true ∧ x.present = true ∧ x.since + 250000000 ≤ (sdS 2 { level := true, present := true, since := 50000000 }).now) ∧
    (∀ p ∈ [true, false], let x := (sdS 0 { masked := true, exam := 300000000, examInt := 50000000, present := p }).side 0
      x.masked = true ∧ x.exam ≤ 300000000 ∧ x.present = p) := by
  refine ⟨⟨?_, ?_, ?_, ?_, ?_, fun _ h => nomatch h⟩, ?_, ?_, ?_⟩ <;> decide +kernel

/-- A record, and the recorder as given. -/
def rec0 (sev : BitVec 3) : EvRec := { code := 0x0100, sev := sev, unit := 1, inst := 0, seq := 7, secs := 0, cyc := 0, rep := 0, p0 := 5, p1 := 0, p2 := 0 }
def evS (e : Evt) : State := { base with evt := e, clk := { base.clk with lcnt := 300000000 } }
def fullGen (sev : BitVec 3) : List (EvRec × Bool) := List.replicate 2064384 (rec0 sev, false)

/-- The next event of `rec0 1`, and one of an earlier and of a later instance. -/
def ev0 (i : Nat) : EvIn := { code := 0x0100, sev := 1, unit := 1, inst := i, now := 300000001, p0 := 5, p1 := 0, p2 := 0 }
/-- The recorder as given, where flash can be written or not. -/
def flS (bad : Bool) (e : Evt) : State := { evS e with power := { base.power with flashBad := bad } }
/-- A queue that holds a FATAL record, and one with a full area behind it. -/
def evFatal : Evt := { queue := [rec0 1, rec0 Sev.fatal] }
def evFull (sev : BitVec 3) : Evt := { queue := [rec0 1], gen := fullGen sev }

theorem witness_EventRecords :
    (let e : Evt := { opened := some (rec0 1, 300000000) }
     (e.opened = some (rec0 1, 300000000) ∧ (rec0 1).code = (ev0 0).code ∧ (rec0 1).sev = (ev0 0).sev ∧ (rec0 1).unit = (ev0 0).unit) ∧
     (rec0 1).inst = BitVec.ofNat 8 (ev0 0).inst ∧ (rec0 1).p0 = BitVec.ofNat 32 (ev0 0).p0 ∧ (ev0 0).now < 300000000 + 25000000 ∧
     e.minSev ≤ (ev0 0).sev ∧ (rec0 1).rep < 0xFFFE) ∧
    ((evS { arrived := [ev0 2, ev0 3] }).evt.arrived = [ev0 2, ev0 3] ∧
      256 * (ev0 2).unit.toNat + (ev0 2).inst % 256 < 256 * (ev0 3).unit.toNat + (ev0 3).inst % 256) ∧
    ((evS { opened := some (rec0 1, 275000000) }).evt.opened = some (rec0 1, 275000000) ∧ 275000000 + 25000000 ≤ (evS {}).now) ∧
    (∀ bad, (flS bad evFatal).power.standby = true ∧ (flS bad evFatal).unitDown .pip 0 = false ∧ (flS bad evFatal).power.flashBad = bad ∧
      (flS bad evFatal).evt.hold = none ∧ (flS bad evFatal).evt.queue ≠ []) ∧
    (evFatal.queue.find? (fun q => decide (q.sev = Sev.fatal)) = some (rec0 Sev.fatal) ∧
      (∀ bad, 64 ≤ ((flS bad { opSecs := 64 }).evt.opSecs - (flS bad { opSecs := 64 }).evt.checkpoint.getD 0).toNat)) ∧
    ((flS false { queue := [rec0 1] }).evt.queue = rec0 1 :: [] ∧ (∀ q ∈ [rec0 1], q.sev ≠ Sev.fatal) ∧
      ((evS {}).evt.commitAt.filter (fun t => decide ((evS {}).now < t + 25000000))).length < 100 ∧ (evS {}).evt.gen.length < 2064384) ∧
    ((flS false (evFull 2)).evt.queue = rec0 1 :: [] ∧ 2064384 ≤ (flS false (evFull 2)).evt.gen.length ∧
      ∀ q ∈ (flS false (evFull 2)).evt.gen, (rec0 1).sev < q.1.sev) ∧
    (2064384 ≤ (flS false (evFull 1)).evt.gen.length ∧ (∃ b, (flS false (evFull 1)).evt.gen = [] ++ (rec0 1, false) :: b) ∧ (rec0 1).sev ≤ (rec0 1).sev) ∧
    (let s := { evS {} with regs := { base.regs with shadows := [⟨Blk.evt.num, 4, 0, 0x10000, 0x00010000⟩] } }
     s.regs.shadows = [⟨Blk.evt.num, 4, 0, 0x10000, 0x00010000⟩] ∧ s.unitDown .pip 0 = false) ∧
    ((evS { hold := some 50000000 }).evt.hold = some 50000000 ∧ 50000000 + 250000000 ≤ (evS { hold := some 50000000 }).now) ∧
    ((evS { gen := [(rec0 1, false)] }).evt.stored 7 = some (rec0 1, false) ∧ (evS { gen := [(rec0 1, true)] }).evt.stored 7 = some (rec0 1, true) ∧
      (evS {}).evt.stored 7 = none) := by
  have full (sev : BitVec 3) : 2064384 ≤ (fullGen sev).length := Nat.le_of_eq List.length_replicate.symm
  have less : ∀ q ∈ fullGen 2, (rec0 1).sev < q.1.sev := fun q h => by
    rw [List.eq_of_mem_replicate h]
    decide
  refine ⟨?_, ?_, ?_, fun _ => ⟨rfl, rfl, rfl, rfl, List.cons_ne_nil _ _⟩, ⟨?_, ?_⟩, ?_, ⟨rfl, full 2, less⟩,
    ⟨full 1, ⟨_, List.replicate_succ⟩, ?_⟩, ?_, ?_, ?_⟩
  all_goals decide +kernel

theorem optSat {α : Type} {o : Option α} {p : α → Bool} (h : o.any p = true) : ∃ e, o = some e ∧ p e = true := by
  cases o with
  | none => cases h
  | some e => exact ⟨e, rfl, h⟩

/-- Channel 2, whose journal is `j`, with these JRN values waiting: extent 3, PINNED_DEEP, is its party's. -/
def jrnS (j : Journal) (en : Bool) (h p n : Word) : State :=
  { base with
    ten := { base.ten with extents := base.ten.extents ++ [(3, extentOf .pinnedDeep)] }
    evt := { base.evt with journals := [(2, j)] }
    regs := { base.regs with shadows := [⟨Blk.evt.num, 0x5C, 2, h, 0xFFFFFFFF⟩, ⟨Blk.evt.num, 0x60, 2, p, 0xFFFFFFFF⟩,
      ⟨Blk.evt.num, 0x64, 2, n, 0xFFFFFFFF⟩, ⟨Blk.evt.num, 0x58, 2, if en then 0x80000000 else 0, 0x80000000⟩] } }
def repS (lc : LcState) (on : Bool) (chans : Table Chan) : State :=
  { base with
    sec := { base.sec with lc := Tv.all lc }, chan := { base.chan with chans := chans }
    evt := { base.evt with journals := [(2, { handle := 3, pages := 16 })] }
    regs := { base.regs with shadows := [⟨Blk.evt.num, 0x74, 0, if on then 1 else 0, 1⟩] } }

/-- Replay of a journal in extent 1 whose one page holds the ACCEPT entry of GO 0 of channel 2. -/
def replayS : State :=
  { base with
    ten := { base.ten with mem := [(2 ^ 48 + 40, 128), (2 ^ 48 + 4096, 3), (2 ^ 48 + 4097, 3), (2 ^ 48 + 4098, 2), (2 ^ 48 + 4128, 0x30)] }
    evt := { base.evt with replay := true, journals := [(2, { handle := 1, pages := 16, active := true })] } }

/-- A journal whose one full page waits to be written. -/
def jFull : Journal := { active := true, handle := 3, pages := 16, full := [zeros 4096] }

theorem witness_JournalAndReplay :
    (JrnWaits (jrnS {} true 3 0 16) 2 true 3 0 16 ∧ JrnWaits (jrnS {} true 3 0 15) 2 true 3 0 15 ∧ JrnWaits (jrnS {} false 3 0 16) 2 false 3 0 16 ∧
      JrnWaits (jrnS { active := true } false 3 0 16) 2 false 3 0 16) ∧
    ((jrnS {} true 3 0 16).jrnOk 2 3 0 16 = true ∧ (jrnS {} true 3 0 15).jrnOk 2 3 0 15 = false) ∧
    (∀ x en h p n, (jrnS x en h p n).evt.replay = false ∧ (jrnS x en h p n).unitDown .pip 0 = false) ∧
    (∀ en h p n, ((jrnS {} en h p n).journal 2).active = false ∧ ((jrnS { active := true } en h p n).journal 2).active = true) ∧
    (((jrnS jFull false 3 0 16).journal 2).active = true ∧ ((jrnS jFull false 3 0 16).journal 2).full = zeros 4096 :: [] ∧ (zeros 4096).length = 4096 ∧
      2 ≤ ((jrnS jFull false 3 0 16).journal 2).pages.toNat ∧ (jrnS jFull false 3 0 16).readOnly ((jrnS jFull false 3 0 16).journal 2).handle = false) ∧
    (∀ on : Bool, (repS .field on []).lcState ≠ some .provisioned ∧ (repS .provisioned on []).lcState = some .provisioned ∧
      (∀ c ∈ (repS .provisioned on []).chan.chans, c.2.state = .disabled) ∧
      (∃ c ∈ (repS .provisioned on [(2, { state := .running })]).chan.chans, c.2.state ≠ .disabled)) ∧
    (∀ lc on cs, (repS lc on cs).regs.shadows = [⟨Blk.evt.num, 0x74, 0, if on then 1 else 0, 1⟩] ∧ (repS lc on cs).unitDown .pip 0 = false ∧
      (repS lc on cs).evt.journals = [(2, { handle := 3, pages := 16 })]) ∧
    ((∃ e, replayS.nextReplay = some e ∧ (decide (fieldAt e 2 2 = 2) && decide (fieldAt e 8 8 = 0)) = true) ∧ replayS.evt.replay = true ∧
      (replayS.ch 2).state = .running ∧ replayS.unitDown .scanner 0 = false ∧ replayS.active = true ∧ replayS.chan.descs.length < 32768 ∧
      replayS.evt.replayBase = none) := by
  unfold JrnWaits
  exact ⟨⟨rfl, rfl, rfl, rfl⟩, by decide +kernel, fun _ _ _ _ _ => ⟨rfl, rfl⟩, fun _ _ _ _ => ⟨rfl, rfl⟩,
    ⟨rfl, rfl, List.length_replicate, by decide +kernel, by decide +kernel⟩, by decide +kernel, fun _ _ _ => ⟨rfl, rfl, rfl⟩,
    optSat (by decide +kernel), by decide +kernel⟩

/-- `base` with one write waiting. -/
def regS (b : Blk) (off inst : Nat) (v m : Word) : State := { base with regs := { base.regs with shadows := [⟨b.num, off, inst, v, m⟩] } }
/-- Host port 0 up, its BAR0 closed or not; asleep or active. -/
def barS (off act : Bool) : State :=
  { hpS { up := true, regsOff := off } with clk := { base.clk with mstate := if act then .active else .idle } }
/-- The two writes of group 1 that apply together. -/
def grpWrites : List PendWrite := [⟨Blk.fab.num, 0x54, 1, 1, 0xFFF⟩, ⟨Blk.fab.num, 0x50, 1, 0x80050002, 0x80FF1FFF⟩]

theorem witness_RegisterWrites :
    (∀ off act : Bool, ((barS off act).hport 0).up = true ∧ ((barS off act).hport 0).d3hot = false ∧ ((barS off act).hport 0).regsOff = off ∧
      (barS off act).active = act ∧ (barS off act).regs.shadows = []) ∧
    (regBlock 0x010014 = some .clk ∧ Blk.clk.defines (regOff 0x010014) = true ∧ (barS false true).reachable .clk = true ∧
      (barS false true).regBits .clk (regOff 0x010014) ≠ 0 ∧ (7 : BitVec 4) ≠ 0xF) ∧
    (regBlock 0x000000 = some .ident ∧ Blk.ident.defines (regOff 0x000000) = true ∧ (barS false true).reachable .ident = true ∧
      (barS false true).regBits .ident (regOff 0x000000) = 0) ∧
    (base.isReady = true ∧ base.active = true ∧ base.unitDown .pip 0 = false ∧ base.sec.cmdBusy = false ∧ (1 : Word).getLsbD 0 = true ∧
      (regS .clk 0x14 0 5 0xFFFFFFFF).regs.shadows = [⟨Blk.clk.num, 0x14, 0, 5, 0xFFFFFFFF⟩]) ∧
    (let s := { regS .tier 0x14 0 5 0xFFFF with clk := { base.clk with mstate := .idle } }
     s.hasPend .tier = true ∧ Blk.tier.alwaysOn = false ∧ s.active = false) ∧
    (({ base with regs := { base.regs with shadows := grpWrites } } : State).groupBusy 1 = false ∧
      ({ redS (dRed 0) red0 with regs := { base.regs with shadows := grpWrites } } : State).groupBusy 1 = true ∧
      ({ redS (dRed 0) red0 with regs := { base.regs with shadows := grpWrites } } : State).isReady = true) := by
  refine ⟨?_, ?_, ?_, ?_, ?_, ?_⟩ <;> decide +kernel

end Sys2Proof.Tests
end

section
/-! PROOFS. Register writes and their applies (R16, R18, R358, R494 to R505): what one pass over the shadows does to the
writes that wait there, what an apply of each block comes to for one pending write, and statement O60. -/

namespace Sys2Proof.Machine

open Sys2Proof.Claims

/-! ## One pass over the shadows (R498 to R500) -/

/-- The state with nothing left waiting in the shadows. -/
def State.noPend (s : State) : State := { s with regs := { s.regs with shadows := [] } }

theorem State.noPend_of_nil {s : State} (h : s.regs.shadows = []) : s.noPend = s := by
  unfold State.noPend
  rw [← h]

theorem PendWrite.part_whole {p : PendWrite} {m : Word} (hm : p.mask &&& m = p.mask) (h0 : p.mask ≠ 0#32) :
    p.part m = some p := by
  simp [PendWrite.part, hm, h0]

theorem PendWrite.part_none {p : PendWrite} {m : Word} (hm : p.mask &&& m = 0#32) : p.part m = none := by
  simp [PendWrite.part, hm]

/-- A list of which every member is kept as it is stays as it is. -/
theorem filterMap_eq_self {α : Type} {f : α → Option α} {l : List α} (h : ∀ a ∈ l, f a = some a) : l.filterMap f = l := by
  induction l with
  | nil => rfl
  | cons a l ih =>
    rw [List.filterMap_cons_some (h a List.mem_cons_self), ih fun x hx => h x (List.mem_cons_of_mem a hx)]

/-- Bits that lie within a mask have none in its complement. -/
theorem and_not_of_and_eq {x m : Word} (h : x &&& m = x) : x &&& ~~~m = 0#32 := by
  calc x &&& ~~~m = x &&& (m &&& ~~~m) := by rw [← BitVec.and_assoc, h]
    _ = 0#32 := by simp

/-- Bits that lie outside a mask lie within its complement. -/
theorem and_not_of_and_zero {x m : Word} (h : x &&& m = 0#32) : x &&& ~~~m = x := by
  calc x &&& ~~~m = (x &&& m) ||| (x &&& ~~~m) := by rw [h, BitVec.zero_or]
    _ = x &&& (m ||| ~~~m) := BitVec.and_or_distrib_left.symm
    _ = x := by rw [BitVec.or_not_self, BitVec.and_allOnes]

/-- All the bits of a word lie within the mask of ones. -/
theorem and_ones (m : Word) : m &&& 0xFFFFFFFF#32 = m := BitVec.and_allOnes

/-- A pass that names every bit that waits takes all the writes, in order of arrival. -/
theorem State.applyPend_all {s : State} {sel : PendWrite → Word} (f : State → PendWrite → State)
    (h : ∀ p ∈ s.regs.shadows, p.mask &&& s.selNow sel p = p.mask ∧ p.mask ≠ 0#32) :
    s.applyPend sel f = s.regs.shadows.foldl f s.noPend := by
  have taken : s.regs.shadows.filterMap (fun p => p.part (s.selNow sel p)) = s.regs.shadows :=
    filterMap_eq_self fun p hp => PendWrite.part_whole (h p hp).1 (h p hp).2
  have left : s.regs.shadows.filterMap (fun p => p.part (~~~ (s.selNow sel p))) = [] :=
    List.filterMap_eq_nil_iff.mpr fun p hp => PendWrite.part_none (and_not_of_and_eq (h p hp).1)
  simp only [State.applyPend, taken, left]
  rfl

/-- A pass that names no bit that waits changes nothing. -/
theorem State.applyPend_none {s : State} {sel : PendWrite → Word} (f : State → PendWrite → State)
    (h : ∀ p ∈ s.regs.shadows, p.mask &&& s.selNow sel p = 0#32 ∧ p.mask ≠ 0#32) : s.applyPend sel f = s := by
  have taken : s.regs.shadows.filterMap (fun p => p.part (s.selNow sel p)) = [] :=
    List.filterMap_eq_nil_iff.mpr fun p hp => PendWrite.part_none (h p hp).1
  have left : s.regs.shadows.filterMap (fun p => p.part (~~~ (s.selNow sel p))) = s.regs.shadows :=
    filterMap_eq_self fun p hp => PendWrite.part_whole (and_not_of_and_zero (h p hp).1) (h p hp).2
  simp only [State.applyPend, taken, left]
  rfl

theorem State.applyPend_nil {s : State} (sel : PendWrite → Word) (f : State → PendWrite → State)
    (h : s.regs.shadows = []) : s.applyPend sel f = s :=
  State.applyPend_none f (by simp [h])

theorem Blk.ofNum_num (b : Blk) : Blk.ofNum b.num = some b := by cases b <;> rfl

theorem State.selNow_of_mayApply {s : State} {b : Blk} (sel : PendWrite → Word) {p : PendWrite} (hb : p.block = b.num)
    (may : s.mayApply b = true) : s.selNow sel p = sel p := by
  simp [State.selNow, hb, Blk.ofNum_num, may]

/-- A pass that names every bit of the one write that waits takes it. -/
theorem State.applyPend_takes {s : State} {b : Blk} {p : PendWrite} (sel : PendWrite → Word) (f : State → PendWrite → State)
    (hs : s.regs.shadows = [p]) (hb : p.block = b.num) (may : s.mayApply b = true) (h0 : p.mask ≠ 0#32)
    (hm : p.mask &&& sel p = p.mask) : s.applyPend sel f = f s.noPend p := by
  have all : ∀ q ∈ s.regs.shadows, q.mask &&& s.selNow sel q = q.mask ∧ q.mask ≠ 0#32 := by
    simp [hs, State.selNow_of_mayApply sel hb may, hm, h0]
  rw [State.applyPend_all f all, hs, List.foldl_cons, List.foldl_nil]

/-- A pass that names no bit of the one write that waits leaves it there. -/
theorem State.applyPend_leaves {s : State} {b : Blk} {p : PendWrite} (sel : PendWrite → Word) (f : State → PendWrite → State)
    (hs : s.regs.shadows = [p]) (hb : p.block = b.num) (may : s.mayApply b = true) (h0 : p.mask ≠ 0#32)
    (hm : p.mask &&& sel p = 0#32) : s.applyPend sel f = s :=
  State.applyPend_none f (by simp [hs, State.selNow_of_mayApply sel hb may, hm, h0])

/-! ## Fields of a pending write -/

/-- A field that the mask names is the value's. -/
theorem PendWrite.bits_of_has {w lo : Nat} {p : PendWrite} (old : BitVec w) (h : p.has lo = true) :
    p.bits lo old = (p.value >>> lo).setWidth w := if_pos h

/-- A field at bit 0 that the mask names is the low bits of the value. -/
theorem PendWrite.bits_zero {w : Nat} {p : PendWrite} (old : BitVec w) (h : p.has 0 = true) :
    p.bits 0 old = p.value.setWidth w := by
  simp [PendWrite.bits, h]

theorem PendWrite.num_zero (p : PendWrite) (w : Nat) (h : w ≠ 0) : p.num 0 w = p.value.toNat % 2 ^ w := by
  have width : 0 + w - 1 - 0 + 1 = w := by omega
  rw [PendWrite.num, bitsOf, width, Nat.pow_zero, Nat.div_one]

/-- A field of `w` bits clamped within limits that the field can hold is stored as it is. -/
theorem PendWrite.toNat_clampTo {w lo hi : Nat} (p : PendWrite) (hw : w ≠ 0) (hlo : lo < 2 ^ w) (hhi : hi < 2 ^ w) :
    (BitVec.ofNat w (clampTo lo hi (p.num 0 w))).toNat = max lo (min hi (p.value.toNat % 2 ^ w)) := by
  rw [BitVec.toNat_ofNat, clampTo, PendWrite.num_zero p w hw, Nat.mod_eq_of_lt (by omega)]

/-! ## A host's write at BAR0 (R16, R358, R496, R503) -/

theorem exec_registerWrite (port : Nat) (addr : BitVec 24) (be : BitVec 4) (value : Word) (s : State) :
    exec (.registerWrite port addr be value) s =
      .next (s.barWrite port (.write port addr be value) (fun s => s.regWrite port addr be value)) := rfl

theorem exec_scratchWrite (port : Nat) (n : BitVec 2) (value : RegData) (s : State) :
    exec (.scratchWrite port n value) s =
      .next (s.barWrite port (.scratch port n value.be value.value) (fun s => s.scratchSet port n value.be value.value)) := rfl

section
variable {s : State} {port : Nat} (up : (s.hport port).up = true) (d0 : (s.hport port).d3hot = false)
include up d0

/-- While the module sleeps a write is held and wakes it. -/
theorem State.barWrite_asleep (a : HostAsk) (f : State → State) (act : s.active = false) :
    s.barWrite port a f = State.wake { s with host := { s.host with asks := s.host.asks ++ [a] } } 0x02 := by
  simp [State.barWrite, State.hostReq, up, d0, act, Wk.host]

theorem State.barWrite_closed (a : HostAsk) (f : State → State) (act : s.active = true)
    (off : (s.hport port).regsOff = true) : s.barWrite port a f = s.sendUr port := by
  simp [State.barWrite, State.hostReq, up, d0, act, off]

theorem State.barWrite_open (a : HostAsk) (f : State → State) (act : s.active = true)
    (off : (s.hport port).regsOff = false) : s.barWrite port a f = f s := by
  simp [State.barWrite, State.hostReq, up, d0, act, off]

end

/-- An answer UR is sent and counted; the register file stays as it is. -/
theorem State.sendUr_spec (s : State) (p : Nat) :
    ((s.sendUr p).hport p).urSent = (s.hport p).urSent + 1 ∧
      (s.sendUr p).chan.hostTx = s.chan.hostTx ++ [.ur p] ∧ (s.sendUr p).regs = s.regs := by
  have sent : ((s.logAer p .unsupportedRequest).send (.ur p)).hport p = (s.logAer p .unsupportedRequest).hport p := rfl
  refine ⟨?_, rfl, rfl⟩
  rw [State.sendUr, State.hport_set, sent, State.logAer, State.hport_set]

section
variable {s : State} {addr : BitVec 24} {b : Blk} (hb : regBlock addr = some b) (def_ : b.defines (regOff addr) = true)
  (reach : s.reachable b = true)
include hb def_ reach

theorem State.regWrite_partial (port : Nat) {be : BitVec 4} (value : Word) (hbe : be ≠ 0xF) :
    s.regWrite port addr be value = s.raise 0x0100 Sev.notice Uk.hostPort port addr.toNat be.toNat 0 := by
  have hbe' : be ≠ 15#4 := hbe
  simp [State.regWrite, hb, def_, reach, hbe']

theorem State.regWrite_whole (port : Nat) (value : Word) :
    s.regWrite port addr 0xF value = s.shadowWrite b (regOff addr) value := by
  simp [State.regWrite, hb, def_, reach]

end

theorem State.shadowWrite_readOnly {s : State} {b : Blk} {off : Nat} (value : Word) (h : s.regBits b off = 0#32) :
    s.shadowWrite b off value = s := by
  simp [State.shadowWrite, h]

theorem State.shadowWrite_writable {s : State} {b : Blk} {off : Nat} (value : Word) (h : s.regBits b off ≠ 0#32) :
    s.shadowWrite b off value = s.addPend ⟨b.num, off, s.regInst b off, value, s.regBits b off⟩ := by
  simp [State.shadowWrite, h]

/-- A write to a shadow that holds none joins the writes that wait, as the last. -/
theorem State.addPend_fresh {s : State} {p : PendWrite} (h : ∀ q ∈ s.regs.shadows, p.same q = false) :
    s.addPend p = { s with regs := { s.regs with shadows := s.regs.shadows ++ [p] } } := by
  have absent : s.regs.shadows.find? p.same = none := List.find?_eq_none.mpr (by simpa using h)
  have kept : s.regs.shadows.filter (fun q => !(p.same q)) = s.regs.shadows :=
    List.filter_eq_self.mpr (by simpa using h)
  simp [State.addPend, absent, kept]

/-- Clause of `RegisterWrites`: a host's write at a register's address. -/
theorem exec_registerWrite_cases (port : Nat) (addr : BitVec 24) (be : BitVec 4) (value : Word) (s : State) (b : Blk)
    (up : (s.hport port).up = true) (d0 : (s.hport port).d3hot = false) :
    (s.active = false → exec (.registerWrite port addr be value) s = .next (State.wake
      { s with host := { s.host with asks := s.host.asks ++ [.write port addr be value] } } 0x02)) ∧
    (s.active = true → (s.hport port).regsOff = true → Reaches (.registerWrite port addr be value) s (fun t =>
      (t.hport port).urSent = (s.hport port).urSent + 1 ∧ t.chan.hostTx = s.chan.hostTx ++ [.ur port] ∧ t.regs = s.regs)) ∧
    (s.active = true → (s.hport port).regsOff = false → regBlock addr = some b → b.defines (regOff addr) = true → s.reachable b = true →
      (be ≠ 0xF → exec (.registerWrite port addr be value) s =
        .next (s.raise 0x0100 Sev.notice Uk.hostPort port addr.toNat be.toNat 0)) ∧
      (be = 0xF → s.regBits b (regOff addr) = 0 → exec (.registerWrite port addr be value) s = .next s) ∧
      (be = 0xF → s.regBits b (regOff addr) ≠ 0 → exec (.registerWrite port addr be value) s =
        .next (s.addPend ⟨b.num, regOff addr, s.regInst b (regOff addr), value, s.regBits b (regOff addr)⟩))) := by
  rw [exec_registerWrite]
  refine ⟨fun act => ?_, fun act off => ?_, fun act off hb hd hr => ⟨fun hbe => ?_, fun hbe ro => ?_, fun hbe bits => ?_⟩⟩
  · rw [State.barWrite_asleep up d0 _ _ act]
  · refine ⟨s.sendUr port, ?_, State.sendUr_spec s port⟩
    rw [exec_registerWrite, State.barWrite_closed up d0 _ _ act off]
  · rw [State.barWrite_open up d0 _ _ act off, State.regWrite_partial hb hd hr port value hbe]
  · rw [State.barWrite_open up d0 _ _ act off, hbe, State.regWrite_whole hb hd hr, State.shadowWrite_readOnly value ro]
  · rw [State.barWrite_open up d0 _ _ act off, hbe, State.regWrite_whole hb hd hr, State.shadowWrite_writable value bits]

/-! ## Scratch registers (R494, R504) -/

/-- Where a scratch register lies. -/
def scratchAddr (n : BitVec 2) : BitVec 24 := BitVec.ofNat 24 (0x50 + 4 * n.toNat)

theorem scratchAddr_toNat (n : BitVec 2) : (scratchAddr n).toNat = 0x50 + 4 * n.toNat := by
  simp only [scratchAddr, BitVec.toNat_ofNat]
  omega

theorem regBlock_scratch (n : BitVec 2) : regBlock (scratchAddr n) = some .ident := by
  have : (0x50 + 4 * n.toNat) / 65536 = 0 := by omega
  simp [regBlock, scratchAddr_toNat, this, Blk.ofNum]

theorem regOff_scratch (n : BitVec 2) : regOff (scratchAddr n) = 0x50 + 4 * n.toNat := by
  rw [regOff, scratchAddr_toNat]
  omega

/-- The four scratch registers are defined and all their bits can be written. -/
theorem ident_scratch (n : BitVec 2) :
    Blk.ident.defines (0x50 + 4 * n.toNat) = true ∧ Blk.ident.bits (0x50 + 4 * n.toNat) = 0xFFFFFFFF := by
  revert n
  decide

theorem State.reachable_ident (s : State) : s.reachable .ident = true := by simp [State.reachable]

theorem State.applyIdent_nil {s : State} (h : s.regs.shadows = []) : s.applyIdent = s := State.applyPend_nil _ _ h

/-- The write that a whole write of a host leaves in a scratch register's shadow. -/
def scratchPend (n : BitVec 2) (value : Word) : PendWrite := ⟨0, 0x50 + 4 * n.toNat, 0, value, 0xFFFFFFFF⟩

/-- A masked write takes the bits that its upper half names. -/
theorem getLsbD_maskedWrite (old : BitVec 16) (value : Word) (i : Nat) (h : i < 16) :
    (maskedWrite old value).getLsbD i = if value.getLsbD (16 + i) then value.getLsbD i else old.getLsbD i := by
  cases hv : value.getLsbD (16 + i) <;> simp [maskedWrite, h, hv]

/-- A partial write to a scratch register is dropped with an event. -/
theorem State.scratchSet_partial {s : State} (port : Nat) (n : BitVec 2) {be : BitVec 4} (value : Word) (hbe : be ≠ 0xF)
    (hs : s.regs.shadows = []) :
    s.scratchSet port n be value = s.raise 0x0100 Sev.notice Uk.hostPort port (0x50 + 4 * n.toNat) be.toNat 0 := by
  have hd : Blk.ident.defines (regOff (scratchAddr n)) = true := by rw [regOff_scratch]; exact (ident_scratch n).1
  have step := State.regWrite_partial (regBlock_scratch n) hd s.reachable_ident port value hbe
  rw [scratchAddr_toNat] at step
  exact (congrArg State.applyIdent step).trans (State.applyIdent_nil hs)

/-- A whole one is applied at once. -/
theorem State.scratchSet_whole {s : State} (port : Nat) (n : BitVec 2) (value : Word) (hs : s.regs.shadows = []) :
    s.scratchSet port n 0xF value = identApply s (scratchPend n value) := by
  have hd : Blk.ident.defines (regOff (scratchAddr n)) = true := by rw [regOff_scratch]; exact (ident_scratch n).1
  have bits : s.regBits .ident (regOff (scratchAddr n)) = 0xFFFFFFFF := by
    simp [State.regBits, regOff_scratch, (ident_scratch n).2, State.instBits]
  have step : s.regWrite port (scratchAddr n) 0xF value =
      { s with regs := { s.regs with shadows := [scratchPend n value] } } := by
    rw [State.regWrite_whole (regBlock_scratch n) hd s.reachable_ident,
      State.shadowWrite_writable value (by rw [bits]; decide), bits, regOff_scratch, State.addPend_fresh (by simp [hs]), hs]
    rfl
  calc s.scratchSet port n 0xF value
      = State.applyIdent { s with regs := { s.regs with shadows := [scratchPend n value] } } := congrArg State.applyIdent step
    _ = identApply s.noPend (scratchPend n value) :=
        State.applyPend_takes (b := .ident) (p := scratchPend n value) identMask identApply rfl rfl rfl (by simp [scratchPend])
          (by simp [scratchPend, identMask, Blk.num])
    _ = identApply s (scratchPend n value) := by rw [State.noPend_of_nil hs]

theorem identApply_scratchPend (s : State) (n : BitVec 2) (value : Word) :
    identApply s (scratchPend n value) = { s with regs := { s.regs with
      scratch := Table.put 0 s.regs.scratch n.toNat (maskedWrite (Table.get 0 s.regs.scratch n.toNat) value) } } := by
  simp [identApply, scratchPend]

/-- Clause of `RegisterWrites`: a scratch write sets the bits that its upper half names, whole or not at all. -/
theorem exec_scratchWrite_cases (port : Nat) (n : BitVec 2) (value : Word) (s : State) (up : (s.hport port).up = true)
    (off : (s.hport port).regsOff = false) (d0 : (s.hport port).d3hot = false) (hs : s.regs.shadows = []) (act : s.active = true) :
    (∀ be, be ≠ 0xF → exec (.scratchWrite port n ⟨be, value⟩) s =
      .next (s.raise 0x0100 Sev.notice Uk.hostPort port (0x50 + 4 * n.toNat) be.toNat 0)) ∧
    Reaches (.scratchWrite port n ⟨0xF, value⟩) s (fun t =>
      (∀ i, i < 16 → (Table.get 0 t.regs.scratch n.toNat).getLsbD i =
        if value.getLsbD (16 + i) then value.getLsbD i else (Table.get 0 s.regs.scratch n.toNat).getLsbD i) ∧
      (∀ k, k ≠ n.toNat → Table.get 0 t.regs.scratch k = Table.get 0 s.regs.scratch k) ∧
      t = { s with regs := { s.regs with scratch := t.regs.scratch } }) := by
  constructor
  · intro be hbe
    rw [exec_scratchWrite, State.barWrite_open up d0 _ _ act off]
    exact congrArg _ (State.scratchSet_partial port n value hbe hs)
  · refine ⟨identApply s (scratchPend n value), ?_, ?_⟩
    · rw [exec_scratchWrite, State.barWrite_open up d0 _ _ act off]
      exact congrArg _ (State.scratchSet_whole port n value hs)
    · rw [identApply_scratchPend]
      refine ⟨fun i hi => ?_, fun k hk => Table.get_put_other _ _ _ hk, rfl⟩
      rw [Table.get_put_same, getLsbD_maskedWrite _ _ _ hi]

/-! ## The apply of a block (R501) -/

theorem exec_registerApply (b : Blk) (s : State) : exec (.registerApply (BitVec.ofNat 4 b.num)) s =
    .next (if !(s.hasPend b) then s else if b.alwaysOn ∨ s.active then s.applyBlk b else s.wake Wk.internal) := by
  cases b <;> rfl

/-- Outside the always-on domain a pending write waits for the module to wake. -/
theorem exec_registerApply_asleep {b : Blk} {s : State} (pend : s.hasPend b = true) (on : b.alwaysOn = false)
    (act : s.active = false) : exec (.registerApply (BitVec.ofNat 4 b.num)) s = .next (s.wake 0x40) := by
  simp [exec_registerApply, pend, on, act, Wk.internal]

theorem applies_of {s : State} {b : Blk} {off inst : Nat} {v m : Word} {P : State → Prop} (act : s.active = true) (t : State)
    (apply : s.regs.shadows = [⟨b.num, off, inst, v, m⟩] → s.applyBlk b = t) (post : P t)
    (regs : t.regs = { s.regs with shadows := [] }) : Applies s b off inst v m P := by
  intro hs
  have pend : s.hasPend b = true := by simp [State.hasPend, hs]
  exact ⟨t, by simp [exec_registerApply, pend, act, apply hs], post, regs⟩

theorem State.mayApply_of_isReady {s : State} (ready : s.isReady = true) (pip : s.unitDown .pip 0 = false) (b : Blk) :
    s.mayApply b = true := by
  have boot : s.power.boot = .ready := by simpa [State.isReady] using ready
  cases b <;> simp [State.mayApply, ready, pip, boot]

/-! ### What each block's passes make of one pending write -/

/-- A whole write of a channel's XBUF as it waits. -/
def xbufPend (i : Nat) (v : Word) : PendWrite := ⟨Blk.chan.num, 0x34, i, v, 0x0FFF0FFF⟩

theorem xbufPend_xmin (old : BitVec 12) (i : Nat) (v : Word) : ((xbufPend i v).bits 0 old).toNat = v.toNat % 2 ^ 12 := by
  rw [PendWrite.bits_zero _ (by simp [xbufPend, PendWrite.has]), BitVec.toNat_setWidth, xbufPend]

theorem xbufPend_xmax (old : BitVec 12) (i : Nat) (v : Word) :
    ((xbufPend i v).bits 16 old).toNat = v.toNat / 2 ^ 16 % 2 ^ 12 := by
  rw [PendWrite.bits_of_has _ (by simp [xbufPend, PendWrite.has]), BitVec.toNat_setWidth, BitVec.toNat_ushiftRight,
    Nat.shiftRight_eq_div_pow, xbufPend]

/-- R225 allows the counts that an XBUF write gives. -/
def State.XbufAllows (s : State) (p : PendWrite) : Prop :=
  s.minSum - (s.ch p.inst).xmin.toNat + (p.bits 0 (s.ch p.inst).xmin).toNat ≤ 2048 ∧
    (p.bits 0 (s.ch p.inst).xmin).toNat ≤ (p.bits 16 (s.ch p.inst).xmax).toNat ∧ 1 ≤ (p.bits 16 (s.ch p.inst).xmax).toNat

theorem xbufApply_allowed {s : State} {p : PendWrite} (h : s.XbufAllows p) : (xbufApply s p).ch p.inst =
    { s.ch p.inst with xmax := p.bits 16 (s.ch p.inst).xmax, xmin := p.bits 0 (s.ch p.inst).xmin } := by
  have applied : xbufApply s p = s.setCh p.inst { s.ch p.inst with
      xmax := p.bits 16 (s.ch p.inst).xmax, xmin := p.bits 0 (s.ch p.inst).xmin } := if_pos h
  rw [applied, State.ch_set]

theorem xbufApply_refused {s : State} {p : PendWrite} (h : ¬ s.XbufAllows p) :
    xbufApply s p = { s with chan := { s.chan with reject := true } } := if_neg h

theorem xbufApply_regs (s : State) (p : PendWrite) : (xbufApply s p).regs = s.regs := by
  simp only [xbufApply]
  split <;> rfl

section
variable {s : State} {off inst : Nat} {v m : Word} (h0 : m ≠ 0#32)
include h0

theorem State.applyHost_takes (hs : s.regs.shadows = [⟨Blk.host.num, off, inst, v, m⟩]) (may : s.mayApply .host = true)
    (hoff : off ≠ 0x08) : s.applyHost = hostApply s.hostLock s.noPend ⟨Blk.host.num, off, inst, v, m⟩ := by
  have none_ : s.retrains = [] := by simp [State.retrains, hs, hoff]
  rw [State.applyHost, none_, List.foldl_nil, State.applyPend_takes hostMask _ hs rfl may h0 (by simp [hostMask, hoff, and_ones])]

theorem State.applyFab_takes (hs : s.regs.shadows = [⟨Blk.fab.num, off, inst, v, m⟩]) (may : s.mayApply .fab = true)
    (hm : m &&& fabMask ⟨Blk.fab.num, off, inst, v, m⟩ = m)
    (hf : (fabApply s.noPend ⟨Blk.fab.num, off, inst, v, m⟩).regs.shadows = []) :
    s.applyBlk .fab = fabApply s.noPend ⟨Blk.fab.num, off, inst, v, m⟩ := by
  have due : (fabApply s.noPend ⟨Blk.fab.num, off, inst, v, m⟩).groupsDue = [] := by simp [State.groupsDue, hf]
  rw [State.applyBlk, State.applyPend_takes fabMask _ hs rfl may h0 hm, State.applyGroups, due, List.foldl_nil]

/-- A channel's write other than to CTL or XBUF is taken by the first of the three passes. -/
theorem State.applyChan_takes (hs : s.regs.shadows = [⟨Blk.chan.num, off, inst, v, m⟩]) (may : s.mayApply .chan = true)
    (hm : m &&& s.chanMask ⟨Blk.chan.num, off, inst, v, m⟩ = m)
    (hf : (chanApply s.noPend ⟨Blk.chan.num, off, inst, v, m⟩).regs.shadows = []) :
    s.applyChan = chanApply s.noPend ⟨Blk.chan.num, off, inst, v, m⟩ := by
  rw [State.applyChan, State.applyPend_takes s.chanMask _ hs rfl may h0 hm, State.applyPend_nil _ _ hf, State.applyPend_nil _ _ hf]

/-- XBUF is left by the first pass and taken by the second. -/
theorem State.applyChan_xbuf (hs : s.regs.shadows = [⟨Blk.chan.num, 0x34, inst, v, m⟩]) (may : s.mayApply .chan = true) :
    s.applyChan = xbufApply s.noPend ⟨Blk.chan.num, 0x34, inst, v, m⟩ := by
  have empty : (xbufApply s.noPend ⟨Blk.chan.num, 0x34, inst, v, m⟩).regs.shadows = [] := by
    rw [xbufApply_regs]
    rfl
  rw [State.applyChan, State.applyPend_leaves s.chanMask _ hs rfl may h0 (by simp [State.chanMask]),
    State.applyPend_takes xbufMask _ hs rfl may h0 (by simp [xbufMask, and_ones]), State.applyPend_nil _ _ empty]

/-- SEC takes the write and acts on a GO among its bits afterwards. -/
theorem State.applySec_takes (hs : s.regs.shadows = [⟨Blk.sec.num, off, inst, v, m⟩]) (may : s.mayApply .sec = true)
    (hoff : off ≠ 0x34) : s.applySec =
      if off = 0x0C ∧ v.getLsbD 0 = true then (secApply s.noPend ⟨Blk.sec.num, off, inst, v, m⟩).secGo
      else secApply s.noPend ⟨Blk.sec.num, off, inst, v, m⟩ := by
  have noAtt : s.goAt 0x34 = false := by simp [State.goAt, hs, hoff]
  have go : s.goAt 0x0C = decide (off = 0x0C ∧ v.getLsbD 0 = true) := by simp [State.goAt, hs]
  have taken : s.applyPend (allOf .sec) secApply = secApply s.noPend ⟨Blk.sec.num, off, inst, v, m⟩ :=
    State.applyPend_takes (allOf .sec) secApply hs rfl may h0 (by simp [allOf, and_ones])
  simp [State.applySec, may, noAtt, go, taken]

/-- An EVT write that the first pass takes leaves nothing to HOLD, the journals or REPLAY. -/
theorem State.applyEvt_takes (hs : s.regs.shadows = [⟨Blk.evt.num, off, inst, v, m⟩]) (may : s.mayApply .evt = true)
    (hm : m &&& evtMask ⟨Blk.evt.num, off, inst, v, m⟩ = m)
    (hf : (evtApply s.noPend ⟨Blk.evt.num, off, inst, v, m⟩).regs.shadows = []) :
    s.applyEvt = evtApply s.noPend ⟨Blk.evt.num, off, inst, v, m⟩ := by
  have due : (evtApply s.noPend ⟨Blk.evt.num, off, inst, v, m⟩).jrnDue = [] := by simp [State.jrnDue, hf]
  rw [State.applyEvt, State.applyPend_takes evtMask _ hs rfl may h0 hm, State.applyPend_nil holdMask _ hf, due, List.foldl_nil,
    State.applyPend_nil _ _ hf]

end

/-! ## Writable registers of each block (R270, R378, R244, R225, R351, R425, R447, R471) -/

section
variable {s : State} (ready : s.isReady = true) (act : s.active = true) (pip : s.unitDown .pip 0 = false) (v : Word) (i : Nat)
include ready act pip

/-- A block whose apply is one pass, which names every bit of the write. -/
theorem applies_of_pass {b : Blk} {off inst : Nat} {w m : Word} {P : State → Prop} (sel : PendWrite → Word)
    (f : State → PendWrite → State) (pass : s.applyBlk b = s.applyPend sel f) (h0 : m ≠ 0#32)
    (hm : m &&& sel ⟨b.num, off, inst, w, m⟩ = m) (post : P (f s.noPend ⟨b.num, off, inst, w, m⟩))
    (regs : (f s.noPend ⟨b.num, off, inst, w, m⟩).regs = s.noPend.regs) : Applies s b off inst w m P :=
  applies_of act _ (fun hs =>
    pass.trans (State.applyPend_takes sel f hs rfl (State.mayApply_of_isReady ready pip b) h0 hm)) post regs

theorem applies_wakeAt : Applies s .clk 0x14 0 v 0xFFFFFFFF (fun t => t = { s with clk := { s.clk with wakeAt := v }, regs := t.regs }) :=
  applies_of_pass ready act pip clkMask clkApply rfl (by simp) (by simp [clkMask]) rfl rfl

theorem applies_cplTo : Applies s .host 0x10 i v 0x00FFFFFF (fun t =>
    (t.hport i).cplTo.toNat = max 2500 (v.toNat % 2 ^ 24) ∧ ∀ p, p ≠ i → t.hport p = s.hport p) := by
  refine applies_of act (hostApply s.hostLock s.noPend ⟨Blk.host.num, 0x10, i, v, 0x00FFFFFF⟩) (fun hs =>
    State.applyHost_takes (by simp) hs (State.mayApply_of_isReady ready pip .host) (by simp)) ⟨?_, fun p hp => ?_⟩ rfl
  · simp only [hostApply, State.hport_set]
    rw [PendWrite.bits_zero _ (by simp [PendWrite.has]), BitVec.toNat_setWidth, BitVec.toNat_ofNat]
    dsimp only
    omega
  · exact State.hport_set_other _ _ hp

theorem applies_poll : Applies s .chan 0x28 i v 0x00007FFF (fun t =>
    (t.ch i).poll.toNat = max 25 (min 25000 (v.toNat % 2 ^ 15)) ∧ ∀ c, c ≠ i → t.ch c = s.ch c) := by
  refine applies_of act (chanApply s.noPend ⟨Blk.chan.num, 0x28, i, v, 0x00007FFF⟩) (fun hs =>
    State.applyChan_takes (by simp) hs (State.mayApply_of_isReady ready pip .chan) ?_ rfl) ⟨?_, fun c hc => ?_⟩ rfl
  · simp [State.chanMask, ringBits]
  · simp only [chanApply, State.ch_set]
    exact PendWrite.toNat_clampTo _ (by simp) (by simp) (by simp)
  · exact State.ch_set_other _ _ hc

theorem applies_xbuf : Applies s .chan 0x34 i v 0x0FFF0FFF (fun t =>
    if s.minSum - (s.ch i).xmin.toNat + v.toNat % 2 ^ 12 ≤ 2048 ∧ v.toNat % 2 ^ 12 ≤ v.toNat / 2 ^ 16 % 2 ^ 12 ∧ 1 ≤ v.toNat / 2 ^ 16 % 2 ^ 12
    then (t.ch i).xmin.toNat = v.toNat % 2 ^ 12 ∧ (t.ch i).xmax.toNat = v.toNat / 2 ^ 16 % 2 ^ 12
    else t = { s with chan := { s.chan with reject := true }, regs := t.regs }) := by
  refine applies_of act (xbufApply s.noPend (xbufPend i v)) (fun hs =>
    State.applyChan_xbuf (by simp) hs (State.mayApply_of_isReady ready pip .chan)) ?_ (xbufApply_regs s.noPend _)
  rw [← xbufPend_xmin (s.ch i).xmin i v, ← xbufPend_xmax (s.ch i).xmax i v]
  split
  · next allowed =>
    have h : s.noPend.XbufAllows (xbufPend i v) := allowed
    have given : (xbufApply s.noPend (xbufPend i v)).ch i = _ := xbufApply_allowed h
    rw [given]
    exact ⟨rfl, rfl⟩
  · next refused =>
    have h : ¬ s.noPend.XbufAllows (xbufPend i v) := refused
    rw [xbufApply_refused h]
    rfl

theorem applies_classSel : Applies s .qos 0x04 0 v 0x0000003F (fun t =>
    t = { s with qos := { s.qos with classSel := v.setWidth 6 }, regs := t.regs }) :=
  applies_of_pass ready act pip qosSelMask qosSelApply rfl (by simp) (by simp [qosSelMask])
    (by simp only [qosSelApply]; rw [PendWrite.bits_zero _ (by simp [PendWrite.has])]; rfl) rfl

theorem applies_hotThresh : Applies s .tier 0x14 0 v 0x0000FFFF (fun t =>
    t = { s with place := { s.place with hotThresh := v.setWidth 16 }, regs := t.regs }) :=
  applies_of_pass ready act pip (allOf .tier) tierApply rfl (by simp) (by simp [allOf])
    (by simp only [tierApply]; rw [PendWrite.bits_zero _ (by simp [PendWrite.has])]; rfl) rfl

theorem applies_tableSel : Applies s .comp 0x08 0 v 0x0000FFFF (fun t =>
    t = { s with comp := { s.comp with tableSel := v.setWidth 16 }, regs := t.regs }) :=
  applies_of_pass ready act pip (allOf .comp) compApply rfl (by simp) (by simp [allOf])
    (by simp only [compApply]; rw [PendWrite.bits_zero _ (by simp [PendWrite.has])]; rfl) rfl

theorem applies_tries : Applies s .fab 0x40 0 v 0x00000007 (fun t => t.fab.tries.toNat = max 1 (min 4 (v.toNat % 8)) ∧
    t = { s with fab := { s.fab with tries := t.fab.tries }, regs := t.regs }) := by
  refine applies_of act (fabApply s.noPend ⟨Blk.fab.num, 0x40, 0, v, 0x00000007⟩) (fun hs =>
    State.applyFab_takes (by simp) hs (State.mayApply_of_isReady ready pip .fab) (by simp [fabMask]) rfl) ⟨?_, rfl⟩ rfl
  simp only [fabApply]
  exact PendWrite.toNat_clampTo _ (by simp) (by simp) (by simp)

theorem applies_extSel : Applies s .ten 0x3C 0 v 0xFFFFFFFF (fun t =>
    t = { s with ten := { s.ten with extSel := v }, regs := t.regs }) :=
  applies_of_pass ready act pip tenMask tenApply rfl (by simp) (by simp [tenMask]) rfl rfl

theorem applies_mergeHold : Applies s .rel 0x114 i v 0x000003FF (fun t =>
    (t.stack i).mergeHold.toNat = max 16 (min 1023 (v.toNat % 2 ^ 10)) ∧ ∀ n, n ≠ i → t.stack n = s.stack n) := by
  refine applies_of_pass ready act pip s.relMask relApply rfl (by simp) (by simp [State.relMask]) ⟨?_, fun n hn => ?_⟩ rfl
  · simp only [relApply, State.stack_set]
    exact PendWrite.toNat_clampTo _ (by simp) (by simp) (by simp)
  · exact State.stack_set_other _ _ hn

theorem applies_cmdBytes : Applies s .sec 0x18 0 v 0x000001FF (fun t =>
    t = { s with sec := { s.sec with cmdBytes := v.setWidth 9 }, regs := t.regs }) :=
  applies_of act (secApply s.noPend ⟨Blk.sec.num, 0x18, 0, v, 0x000001FF⟩) (fun hs =>
    (State.applySec_takes (by simp) hs (State.mayApply_of_isReady ready pip .sec) (by simp)).trans (if_neg (by simp)))
    (by simp only [secApply]; rw [PendWrite.bits_zero _ (by simp [PendWrite.has])]; rfl) rfl

/-- GO starts a command with the port written beside it and the lengths in force. -/
theorem applies_cmdGo (idle : s.sec.cmdBusy = false) (go : v.getLsbD 0 = true) :
    Applies s .sec 0x0C 0 v 0x00000031 (fun t => t = { s with regs := t.regs, sec := { s.sec with
      cmdPort := (v >>> 4).setWidth 2, cmdBusy := true, runBytes := s.sec.cmdBytes.toNat, runData := s.sec.dataBytes.toNat } }) := by
  have port : secApply s.noPend ⟨Blk.sec.num, 0x0C, 0, v, 0x00000031⟩ =
      { s.noPend with sec := { s.sec with cmdPort := (v >>> 4).setWidth 2 } } := by
    simp only [secApply]
    rw [PendWrite.bits_of_has _ (by simp [PendWrite.has])]
    rfl
  have run : (secApply s.noPend ⟨Blk.sec.num, 0x0C, 0, v, 0x00000031⟩).secGo = { s.noPend with sec := { s.sec with
      cmdPort := (v >>> 4).setWidth 2, cmdBusy := true, runBytes := s.sec.cmdBytes.toNat, runData := s.sec.dataBytes.toNat } } := by
    rw [port, State.secGo]
    simp [idle]
  exact applies_of act _ (fun hs => ((State.applySec_takes (by simp) hs (State.mayApply_of_isReady ready pip .sec) (by simp)).trans
    (if_pos ⟨rfl, go⟩)).trans run) rfl rfl

theorem applies_minSev : Applies s .evt 0x04 0 v 0x00000007 (fun t => t.evt.minSev.toNat = min 3 (v.toNat % 8) ∧
    t = { s with evt := { s.evt with minSev := t.evt.minSev }, regs := t.regs }) := by
  refine applies_of act (evtApply s.noPend ⟨Blk.evt.num, 0x04, 0, v, 0x00000007⟩) (fun hs =>
    State.applyEvt_takes (by simp) hs (State.mayApply_of_isReady ready pip .evt) (by simp [evtMask]) rfl) ⟨?_, rfl⟩ rfl
  simp only [evtApply]
  rw [PendWrite.num_zero _ _ (by simp), BitVec.toNat_ofNat]
  dsimp only
  omega

theorem applies_winSel : Applies s .win 0x0C 0 v 0x00000007 (fun t =>
    t = { s with host := { s.host with winSel := v.setWidth 3 }, regs := t.regs }) :=
  applies_of_pass ready act pip winMask winApply rfl (by simp) (by simp [winMask])
    (by simp only [winApply]; rw [PendWrite.bits_zero _ (by simp [PendWrite.has])]; rfl) rfl

theorem applies_quantum : Applies s .pod 0x04 0 v 0x003FFFFF (fun t =>
    t.pods.quantum.toNat = max 2500 (min 2500000 (v.toNat % 2 ^ 22)) ∧
    t = { s with pods := { s.pods with quantum := t.pods.quantum }, regs := t.regs }) := by
  refine applies_of_pass ready act pip (allOf .pod) podApply rfl (by simp) (by simp [allOf]) ⟨?_, rfl⟩ rfl
  simp only [podApply, if_true]
  exact PendWrite.toNat_clampTo _ (by simp) (by simp) (by simp)

theorem applies_gateSel : Applies s .lch 0x04 0 v 0x000000FF (fun t =>
    t = { s with clk := { s.clk with gateSel := v.setWidth 8 }, regs := t.regs }) :=
  applies_of_pass ready act pip (allOf .lch) lchApply rfl (by simp) (by simp [allOf])
    (by simp only [lchApply]; rw [PendWrite.bits_zero _ (by simp [PendWrite.has])]; rfl) rfl

end

/-! ## The registers of a group (R351, R352) -/

theorem exec_groupConfigure (s : State) : exec .groupConfigure s = .next s.applyGroups := rfl

section
variable {s : State} {g : Nat} {rank ctl : Word}
  (hs : s.regs.shadows = [⟨Blk.fab.num, 0x54, g, rank, 0xFFF⟩, ⟨Blk.fab.num, 0x50, g, ctl, 0x80FF1FFF⟩])
include hs

/-- A group whose GRP_CTL is written is due unless a REDUCE holds it. -/
theorem State.groupsDue_eq : s.groupsDue = if s.groupBusy g then [] else [g] := by
  have written : s.regs.shadows.filter (fun p => decide (p.block = Blk.fab.num) && decide (p.off = 0x50)) =
      [⟨Blk.fab.num, 0x50, g, ctl, 0x80FF1FFF⟩] := by simp [hs]
  have once : [g].eraseDups = [g] := by rw [List.eraseDups_cons]; rfl
  rw [State.groupsDue, written, List.map_singleton, once]
  cases h : s.groupBusy g <;> simp [h]

theorem State.applyGroups_busy (busy : s.groupBusy g = true) : s.applyGroups = s := by
  simp [State.applyGroups, State.groupsDue_eq hs, busy]

/-- GRP_RANK and GRP_CTL of the group are taken in one pass, in order of arrival. -/
theorem State.applyGroups_free (free : s.groupBusy g = false) (ready : s.isReady = true) : s.applyGroups =
    grpApply (grpApply s.noPend ⟨Blk.fab.num, 0x54, g, rank, 0xFFF⟩) ⟨Blk.fab.num, 0x50, g, ctl, 0x80FF1FFF⟩ := by
  have all : ∀ p ∈ s.regs.shadows, p.mask &&& s.selNow (grpMask g) p = p.mask ∧ p.mask ≠ 0#32 := by
    simp [hs, State.selNow, Blk.ofNum_num, State.mayApply, ready, grpMask]
  have due : s.groupsDue = [g] := by simp [State.groupsDue_eq hs, free]
  rw [State.applyGroups, due, List.foldl_cons, List.foldl_nil, State.applyPend_all grpApply all, hs]
  rfl

end

theorem State.group_set_other (s : State) {g j : Nat} (x : Group) (h : j ≠ g) : (s.setGroup g x).group j = s.group j :=
  Table.get_put_other _ _ _ h

/-- GRP_RANK applied. -/
theorem grpApply_rank (s : State) (g : Nat) (rank : Word) : grpApply s ⟨Blk.fab.num, 0x54, g, rank, 0xFFF⟩ =
    s.setGroup g { s.group g with rank := rank.setWidth 12 } := by
  have field : (⟨Blk.fab.num, 0x54, g, rank, 0xFFF⟩ : PendWrite).bits 0 (s.group g).rank = rank.setWidth 12 :=
    PendWrite.bits_zero _ (by simp [PendWrite.has])
  rw [← field]
  rfl

/-- The group that GRP_CTL makes of `x`. -/
def Group.configured (x : Group) (ctl : Word) : Group :=
  { x with valid := ctl.getLsbD 31 && decide (2 ≤ ctl.toNat % 2 ^ 13) && decide (ctl.toNat % 2 ^ 13 ≤ 4096)
           party := (ctl >>> 16).setWidth 8, members := ctl.setWidth 13, k := 0, ready := [] }

/-- GRP_CTL applied. -/
theorem grpApply_ctl (s : State) (g : Nat) (ctl : Word) : grpApply s ⟨Blk.fab.num, 0x50, g, ctl, 0x80FF1FFF⟩ =
    s.setGroup g ((s.group g).configured ctl) := by
  have on : (⟨Blk.fab.num, 0x50, g, ctl, 0x80FF1FFF⟩ : PendWrite).bit 31 (s.group g).valid = ctl.getLsbD 31 := by
    simp [PendWrite.bit, PendWrite.has]
  have party : (⟨Blk.fab.num, 0x50, g, ctl, 0x80FF1FFF⟩ : PendWrite).bits 16 (s.group g).party = (ctl >>> 16).setWidth 8 :=
    PendWrite.bits_of_has _ (by simp [PendWrite.has])
  have members : (⟨Blk.fab.num, 0x50, g, ctl, 0x80FF1FFF⟩ : PendWrite).bits 0 (s.group g).members = ctl.setWidth 13 :=
    PendWrite.bits_zero _ (by simp [PendWrite.has])
  rw [Group.configured, ← BitVec.toNat_setWidth, ← on, ← party, ← members]
  rfl

/-- Clause of `RegisterWrites`: a group's registers apply together once no REDUCE holds the group. -/
theorem exec_groupConfigure_cases (s : State) (g : Nat) (rank ctl : Word) (ready : s.isReady = true)
    (hs : s.regs.shadows = [⟨Blk.fab.num, 0x54, g, rank, 0xFFF⟩, ⟨Blk.fab.num, 0x50, g, ctl, 0x80FF1FFF⟩]) :
    (s.groupBusy g = true → exec .groupConfigure s = .next s) ∧
    (s.groupBusy g = false → Reaches .groupConfigure s (fun t =>
      (let m := ctl.toNat % 2 ^ 13
       let x := Table.get {} t.fab.groups g
       x.rank = rank.setWidth 12 ∧ x.members.toNat = m ∧ x.party = (ctl >>> 16).setWidth 8 ∧
       x.valid = (ctl.getLsbD 31 && decide (2 ≤ m) && decide (m ≤ 4096)) ∧ x.k = 0 ∧ x.ready = []) ∧
      (∀ k, k ≠ g → Table.get {} t.fab.groups k = Table.get {} s.fab.groups k) ∧
      t = { s with fab := { s.fab with groups := t.fab.groups }, regs := { s.regs with shadows := [] } })) := by
  rw [exec_groupConfigure]
  refine ⟨fun busy => by rw [State.applyGroups_busy hs busy], fun free => ⟨_, exec_groupConfigure s, ?_⟩⟩
  rw [State.applyGroups_free hs free ready, grpApply_rank, grpApply_ctl, State.group_set]
  refine ⟨?_, fun k hk => ?_, rfl⟩
  · have same : Table.get {} ((s.noPend.setGroup g { s.noPend.group g with rank := rank.setWidth 12 }).setGroup g
        (Group.configured { s.noPend.group g with rank := rank.setWidth 12 } ctl)).fab.groups g =
        Group.configured { s.noPend.group g with rank := rank.setWidth 12 } ctl := State.group_set _ _ _
    dsimp only
    rw [same]
    exact ⟨rfl, BitVec.toNat_setWidth .., rfl, rfl, rfl, rfl⟩
  · exact (State.group_set_other _ _ hk).trans (State.group_set_other _ _ hk)

/-- Settles O60, clause by clause: a write's way to its shadow, a scratch write, the apply of each block, the wait of a
sleeping module and the group registers. -/
theorem registerWrites : Obligations.RegisterWrites := by
  unfold Obligations.RegisterWrites
  refine ⟨fun port addr be value s b up d0 => ?_, fun port n value s up off d0 hs act =>
    exec_scratchWrite_cases port n value s up off d0 hs act, fun s v i ready act pip => ?_,
    fun s b pend on act => exec_registerApply_asleep pend on act, fun s g rank ctl ready hs =>
    exec_groupConfigure_cases s g rank ctl ready hs⟩
  · obtain ⟨asleep, closed, opened⟩ := exec_registerWrite_cases port addr be value s b up d0
    refine ⟨asleep, closed, fun act off hb hd hr => ?_⟩
    obtain ⟨partial_, readOnly, writable⟩ := opened act off hb hd hr
    exact ⟨partial_, readOnly, fun hbe bits => ⟨writable hbe bits, State.addPend_fresh⟩⟩
  · exact ⟨applies_wakeAt ready act pip v, applies_cplTo ready act pip v i, applies_poll ready act pip v i,
      applies_xbuf ready act pip v i, applies_classSel ready act pip v, applies_hotThresh ready act pip v,
      applies_tableSel ready act pip v, applies_tries ready act pip v, applies_extSel ready act pip v,
      applies_mergeHold ready act pip v i, applies_cmdBytes ready act pip v, applies_cmdGo ready act pip v,
      applies_minSev ready act pip v, applies_winSel ready act pip v, applies_quantum ready act pip v,
      applies_gateSel ready act pip v⟩

end Sys2Proof.Machine
end
